-- ==== Sys2Proof/Word.lean ====
section
/-! DEFINITION. The word types of the D2048-A1 (R5, R6) and their plainest conversions. -/
namespace Sys2Proof

/-- A dword of 64 bits (R5). -/
abbrev Word := BitVec 64
/-- A byte (R5). -/
abbrev Byte := BitVec 8
/-- A core id, y·64 + x (R3). -/
abbrev CoreId := BitVec 11
/-- A scalar or vector register number. -/
abbrev Reg := BitVec 5
/-- A 32-byte atomic granule's bits (R264). -/
abbrev Gran := BitVec 256

/-- A truth value as a bit vector of width `n`. -/
def bitOf (n : Nat) (b : Bool) : BitVec n := if b then 1#n else 0#n

/-- Bit `i` of a word. -/
def bit {n : Nat} (v : BitVec n) (i : Nat) : Bool := v.getLsbD i

/-- `v[hi:lo]` (R6), a field of `hi - lo + 1` bits. -/
def slice {n : Nat} (v : BitVec n) (hi lo : Nat) : BitVec (hi - lo + 1) := v.extractLsb hi lo

end Sys2Proof
end

