-- ==== Sys2Proof/Syntax.lean ====
section
/-! DEFINITION. The syntax of the D2048-A1: one constructor of `Instr` for each row of spec/opcode_table.json.
Slot instructions carry their guard, AR bit and operand fields (R68-R76); trimmer instructions their fields (R338);
the events and messages of the table carry what identifies them. -/
namespace Sys2Proof

/-- The six slots of a bundle (R62), in slot order. -/
inductive Slot where
  | sc | ad | va | vb | mx | cp
deriving DecidableEq, Repr

/-- What every slot word carries beside its body (R68): its position, guard predicate and arrive-on-retire bit. -/
structure Ctl where
  slot : Slot
  g : BitVec 3
  ar : Bool
deriving DecidableEq, Repr

/-- ALU functions (R78, Table 11; R102, Table 2). -/
inductive AluFn where
  | add | sub | and | or | xor | andn | orn | xnor | shl | shr | sar | rol | min | max | minn | maxn
  | addW | subW | shlW | shrW | sarW | clz | ctz | popc | rev8 | sextB | sextH | sextW | zextW
  | addsh1 | addsh2 | addsh3 | addsh4
deriving DecidableEq, Repr

/-- MULDIV functions (R78, R103). -/
inductive MulFn where
  | mul | mulh | mulhn | mulW | div | divn | rem | remn
deriving DecidableEq, Repr

/-- Scalar compare conditions (R111, Table 5). -/
inductive Cond where
  | eq | ne | lt | ge | ltn | gen | le | gt | len | gtn | tst | ntst
deriving DecidableEq, Repr

/-- Compare widths (R111): 64, 32, 16 or 8 bits. -/
inductive CmpSize where
  | d | w | h | b
deriving DecidableEq, Repr

/-- Access size and extension of SM and of LDX/STX (R72). -/
inductive MemSize where
  | b | bn | h | hn | w | wn | d
deriving DecidableEq, Repr

/-- Vector element types (R66, Table 3). -/
inductive ETy where
  | i8 | i16 | i32 | i64 | bf16 | f16 | f32 | lgm
deriving DecidableEq, Repr

/-- The slice a vector slot acts on (R73, Table 8). -/
inductive Slice where
  | full | h0 | h2 | q (n : BitVec 2)
deriving DecidableEq, Repr

/-- A V3 slot (R73, Table 7). `vb` is Vb or the instruction's sub-fields (R138). -/
structure V3 where
  ctl : Ctl
  sl : Slice
  ty : ETy
  vd : Reg
  va : Reg
  vb : Reg
  k : BitVec 3
deriving DecidableEq, Repr

/-- A VM slot (R73). `lend` is the offset in 32-byte units, or the element type of VGTH and VSCT. -/
structure VM where
  ctl : Ctl
  sl : Slice
  lend : BitVec 3
  vd : Reg
  xb : Reg
  cls : BitVec 4
  k : BitVec 3
deriving DecidableEq, Repr

/-- An MX slot's operands (R75). -/
structure MX where
  ctl : Ctl
  acc : BitVec 8
  xa : Reg
  xn : Reg
deriving DecidableEq, Repr

/-- A CP slot's operands (R76, R196); `bcl` is LEND.CP[2:1]. -/
structure CP where
  ctl : Ctl
  xs : Reg
  xd : Reg
  sem : BitVec 6
  cls : BitVec 4
  bcl : BitVec 2
deriving DecidableEq, Repr

/-- PMOV forms (R114). -/
inductive PmovForm where
  | rd (xd : Reg) | wr (xa : Reg) | set (pd : BitVec 3) (xa : Reg) | get (xd : Reg) (pa : BitVec 3)
deriving DecidableEq, Repr

/-- KMOV forms (R116). -/
inductive KmovForm where
  | pair (kd : BitVec 3) (xa xb : Reg) | lo (xd : Reg) (ka : BitVec 3) | hi (xd : Reg) (ka : BitVec 3)
  | first (kd : BitVec 3) (xa : Reg)
deriving DecidableEq, Repr

/-- KPOP functions (R117). -/
inductive KpopFn where
  | i8 | i16 | i32 | i64 | first
deriving DecidableEq, Repr

/-- TICK sources (R235, R247). -/
inductive TickFn where
  | tnow | tcyc | slip
deriving DecidableEq, Repr

/-- A barrier level 1..3 (R249). -/
inductive Level where
  | l1 | l2 | l3
deriving DecidableEq, Repr

/-- Type of a trimmer compare, minimum or maximum (R339): LGM16 lanes or FX32 lanes. -/
inductive TmTy where
  | l | x
deriving DecidableEq, Repr

/-- Conditions of TMCMP (R339). -/
inductive TmCond where
  | eq | lt | le | un
deriving DecidableEq, Repr

/-- Conditions of TMBR (R339, R348). -/
inductive TmBrCond where
  | always | eq | ne | lt | ge
deriving DecidableEq, Repr

/-- Torus ports (R327): XP, XN, YP, YN, ZP, ZN. -/
inductive Port where
  | xp | xn | yp | yn | zp | zn
deriving DecidableEq, Repr

/-- A run of bytes with the granules of it (counted from its start) that are poisoned (R276). -/
structure Blob where
  bytes : List Byte
  bad : List Nat
deriving DecidableEq, Repr

/-- A chunk on the collective channel, with the header fields of R227 and the number of its hop in the schedule of R225. `bad`
of `elems` lists poisoned elements, of `scales` poisoned scale bytes. -/
structure Chunk where
  op : BitVec 8
  ring : BitVec 8
  wire : BitVec 8
  nmem : BitVec 8
  count : Word
  step : BitVec 32
  hop : Nat
  elems : Blob
  scales : Blob
deriving DecidableEq, Repr

/-- What a numbered item asks of its destination (R221-R223, R313, R387). -/
inductive FabKind where
  | fwr (ia : Nat) (data : Blob)
  | fwrBerth (core : CoreId) (berth : BitVec 5) (off : Nat) (tag : BitVec 16) (bound : Nat) (data : Blob)
  | ffaa (ia : Nat) (addend : Word)
  | fflg (ia : Nat) (add : Bool) (value : Word)
  | chunk (core : CoreId) (ch : Chunk)
deriving DecidableEq, Repr

/-- A numbered fabric operation or collective chunk as it reaches its destination (R384). `postCut` is its mark (R365): the N of the
last level 3 cut its source had made; `cls` is its bandwidth class (R386). -/
structure FabOp where
  srcChip : BitVec 21
  srcCore : CoreId
  seq : BitVec 32
  part : BitVec 5
  postCut : Option (BitVec 32)
  cls : BitVec 2
  kind : FabKind
deriving DecidableEq, Repr

/-- Completion status codes (R203, Table 3). -/
inductive Status where
  | ok | poison | timeout | rights | page | partial_ | record | aborted | link
deriving DecidableEq, Repr

/-- A response to a fabric operation (R384): status, and the old value of an FFAA. -/
structure Response where
  dstChip : BitVec 21
  srcCore : CoreId
  seq : BitVec 32
  status : Status
  old : Word
  oldBad : Bool
deriving DecidableEq, Repr

/-- A hold notice (R384). -/
structure Notice where
  chip : BitVec 21
  core : CoreId
  seq : BitVec 32
deriving DecidableEq, Repr

/-- What a packet on the torus is (R380, R383): a numbered operation, its response, a hold notice, a level 3 arrival count, a phase change, the
confirmation of a cut, data of a MIGR asked for or written and its answer, or a page-fault message of the firmware. -/
inductive HeadKind where
  | operation (op : FabOp) | response (r : Response) | notice | count (n : BitVec 32) | phase | confirm (part : BitVec 5) (n : BitVec 32)
  | bulk (part : BitVec 5) (write : Bool) | bulkAnswer (status : Status) | faultMessage
deriving DecidableEq, Repr

/-- The transaction fields of a packet's head (R380): destination chip, source chip and core, the operation, the bandwidth class, the end-to-end
sequence number and the destination address. -/
structure Head where
  dst : BitVec 21
  src : BitVec 21
  core : CoreId
  kind : HeadKind
  cls : BitVec 2
  seq : BitVec 32
  addr : Nat
deriving DecidableEq, Repr

/-- A host command message (R392): the virtual function it arrives on, its bytes, and the bytes of host memory the
device reads while it runs the command (a plane image, a manifest and its segments). -/
structure HostMsg where
  vf : BitVec 8
  bytes : List Byte
  fetched : List Byte
deriving DecidableEq, Repr

/-- A harbourmaster request (R412). -/
structure ReqMsg where
  vf : BitVec 8
  bytes : List Byte
deriving DecidableEq, Repr

/-- Conditions of the thermal responses (R417, Table 3). -/
inductive Thermal where
  | hot100 | throttle (on : Bool) | hot110 | hot120 | cool98 | coolant
deriving DecidableEq, Repr

/-- A queue pair of a virtual function (R391). -/
structure QueuePair where
  vf : BitVec 8
  qp : BitVec 6
deriving DecidableEq, Repr

/-- The steps of the reset sequence (R414, Table 2) at which it may stop. -/
inductive BootStop where
  | none | pll | rom | manifest | hbm | management
deriving DecidableEq, Repr

/-- The instructions, commands, events and messages of the D2048-A1, one constructor per row of the opcode table. -/
inductive Instr where
  -- scalar slots (R97)
  | headerOnlyBundle (dp : Bool)
  | nop (c : Ctl)
  | alu (c : Ctl) (fn : AluFn) (xd xa xb : Reg)
  | muldiv (c : Ctl) (fn : MulFn) (xd xa xb : Reg)
  | sel (c : Ctl) (xd : Reg) (pn : BitVec 3) (xa xb : Reg)
  | addi (c : Ctl) (xd xa : Reg) (imm : BitVec 18)
  | andi (c : Ctl) (xd xa : Reg) (imm : BitVec 18)
  | ori (c : Ctl) (xd xa : Reg) (imm : BitVec 18)
  | xori (c : Ctl) (xd xa : Reg) (imm : BitVec 18)
  | shli (c : Ctl) (w : Bool) (xd xa : Reg) (n : BitVec 6)
  | shri (c : Ctl) (w : Bool) (xd xa : Reg) (n : BitVec 6)
  | sari (c : Ctl) (w : Bool) (xd xa : Reg) (n : BitVec 6)
  | bfx (c : Ctl) (xd xa : Reg) (pos lenM1 : BitVec 6)
  | bfxs (c : Ctl) (xd xa : Reg) (pos lenM1 : BitVec 6)
  | bfi (c : Ctl) (xd xa : Reg) (pos lenM1 : BitVec 6)
  | movi (c : Ctl) (xd : Reg) (imm : BitVec 18)
  | movk (c : Ctl) (xd : Reg) (imm : BitVec 16) (h : BitVec 2)
  | movl (c : Ctl) (xd : Reg) (imm : BitVec 50)
  | cmp (c : Ctl) (cond : Cond) (sz : CmpSize) (pt pf : BitVec 3) (xa xb : Reg)
  | cmpi (c : Ctl) (cond : Cond) (pt pf : BitVec 3) (xa : Reg) (imm : BitVec 13)
  | plog (c : Ctl) (pd pa pb : BitVec 3) (tt : BitVec 4)
  | pmov (c : Ctl) (form : PmovForm)
  | ld (c : Ctl) (sz : MemSize) (xd xb : Reg) (cls : BitVec 4) (off : BitVec 11)
  | st (c : Ctl) (sz : MemSize) (xd xb : Reg) (cls : BitVec 4) (off : BitVec 11)
  | ldx (c : Ctl) (sz : MemSize) (xd xa xb : Reg) (cls : BitVec 4)
  | stx (c : Ctl) (sz : MemSize) (xd xa xb : Reg) (cls : BitVec 4)
  | hld (c : Ctl) (sz : MemSize) (xd xb : Reg) (cls : BitVec 4) (off : BitVec 11)
  | hst (c : Ctl) (sz : MemSize) (xd xb : Reg) (cls : BitVec 4) (off : BitVec 11)
  | tagset (c : Ctl) (xd xa : Reg) (t : BitVec 2)
  | tagchk (c : Ctl) (xd xa xb : Reg) (m : BitVec 4)
  | klog (c : Ctl) (kd ka kb : BitVec 3) (tt : BitVec 4)
  | kmov (c : Ctl) (form : KmovForm)
  | kpop (c : Ctl) (fn : KpopFn) (xd : Reg) (ka : BitVec 3)
  -- system (R235)
  | semadd (c : Ctl) (n : BitVec 6) (xa : Reg) (imm : BitVec 6)
  | semwait (c : Ctl) (n : BitVec 6) (xa : Reg) (dec chk : Bool)
  | semrd (c : Ctl) (xd : Reg) (n : BitVec 6) (clr : Bool)
  | fence (c : Ctl) (mask : BitVec 16)
  | fenceWait (c : Ctl) (mask : BitVec 16)
  | br (c : Ctl) (disp : BitVec 28)
  | call (c : Ctl) (disp : BitVec 28)
  | jmpr (c : Ctl) (xd xa : Reg)
  | loop (c : Ctl) (n : Bool) (xa : Reg) (disp : BitVec 18)
  | csrr (c : Ctl) (xd : Reg) (a : BitVec 12)
  | csrw (c : Ctl) (a : BitVec 12) (xa : Reg)
  | csrx (c : Ctl) (xd : Reg) (a : BitVec 12) (xa : Reg)
  | domWrite (c : Ctl) (l : Level) (xa : Reg)
  | trap (c : Ctl) (code : BitVec 16)
  | eret (c : Ctl)
  | brk (c : Ctl) (code : BitVec 16)
  | land (c : Ctl) (n : BitVec 5)
  | berthArm (c : Ctl) (n : BitVec 5) (xa xb : Reg)
  | berthTag (c : Ctl) (n : BitVec 5) (xb : Reg)
  | berthOff (c : Ctl) (n : BitVec 5)
  | tick (c : Ctl) (fn : TickFn) (xd : Reg)
  | waitt (c : Ctl) (rel : Bool) (xa : Reg)
  | domarv (c : Ctl) (l : Level)
  | domwait (c : Ctl) (l : Level)
  | spawn (c : Ctl) (xd xa xb : Reg)
  | exit (c : Ctl)
  | exitWeightAdd (core : CoreId)
  | phaseBegin (c : Ctl)
  | phaseCommit (c : Ctl)
  | phaseAbort (c : Ctl)
  | plswap (c : Ctl)
  | plswapCancel (c : Ctl)
  -- vector slots (R138)
  | vadd (o : V3) | vsub (o : V3) | vmul (o : V3) | vfma (o : V3) | vfms (o : V3)
  | vmin (o : V3) | vmax (o : V3) | vminn (o : V3) | vmaxn (o : V3) | vabs (o : V3) | vneg (o : V3)
  | vadds (o : V3) | vsubs (o : V3) | vmulh (o : V3) | vclmp (o : V3)
  | vand (o : V3) | vor (o : V3) | vxor (o : V3) | vshl (o : V3) | vshr (o : V3) | vsar (o : V3)
  | vshli (o : V3) | vshri (o : V3) | vsari (o : V3) | vaddx (o : V3) | vmulx (o : V3) | vfmax (o : V3)
  | vbcst (o : V3) | vext (o : V3) | vcmp (o : V3) | vsel (o : V3) | vcvt (o : V3) | vqnt (o : V3) | vdqnt (o : V3)
  | vpk6 (o : V3) | vupk6 (o : V3) | vpk4 (o : V3) | vupk4 (o : V3) | vl2f (o : V3) | vf2l (o : V3)
  | vrcp (o : V3) | vrsq (o : V3) | vsqrt (o : V3) | vexp2 (o : V3) | vlog2 (o : V3) | vexp (o : V3) | vln (o : V3)
  | vsin (o : V3) | vcos (o : V3) | vtanh (o : V3) | vsigm (o : V3) | vgelu (o : V3)
  | vperm (o : V3) | vshuf (o : V3) | vred (o : V3)
  | vld (o : VM) | vst (o : VM) | vlds (o : VM) | vsts (o : VM) | vgth (o : VM) | vsct (o : VM)
  | vacr (o : V3) | vacw (o : V3)
  -- matrix slot (R171)
  | mcfg (o : MX) | mtbl (o : MX) (t : Bool) | mwld (o : MX) (fix : Bool) | mwlds (o : MX) (ef : Bool) | mwswap (o : MX)
  | mstrm (o : MX) (z : Bool) | mstrma (o : MX) (z : Bool) | mstrmh (o : MX) (z : Bool)
  | mdrn (o : MX) (clr : Bool) | mdrnh (o : MX) (clr : Bool) | mclr (o : MX) | mhpsh (o : MX) | mhcnt (o : MX)
  | mgateOn (o : MX) (ret : Bool) | mgateOff (o : MX) | msave (o : MX) (nr : Bool) | mrest (o : MX) (nr : Bool)
  | mstat (o : MX) (clr : Bool) | msync (o : MX)
  | mxQueuedStart (core : CoreId) | streamRowEntry (core : CoreId) | resultLanding (core : CoreId) (idx : Nat)
  | drainBoundTrap (core : CoreId) | gateTakesEffect (core : CoreId) | wakeEnd (core : CoreId)
  -- engine commands (R196)
  | cpyt (o : CP) | cpyl (o : CP) | cpylBerth (o : CP) | mcast (o : CP) | gthr (o : CP) | send (o : CP) (sig : Bool)
  | sends (o : CP) | semr (o : CP) | fwr (o : CP) | fwrBerth (o : CP) | ffaa (o : CP) | fflg (o : CP) | fflgAdd (o : CP)
  | coll (o : CP) | drg (o : CP) | migr (o : CP) | migrRemap (o : CP) | migrPageExchange (core : CoreId) (q : Nat)
  | snap (o : CP) (level : Level) | snapSeal (o : CP) (level : Level) | trim (o : CP) | rcf (o : CP) | cpab (o : CP)
  | engineQueueEntryFree (core : CoreId) | commandStart (core : CoreId) (q : Nat) | commandCompletion (core : CoreId) (q : Nat)
  | deliveryAcceptance (core : CoreId) (q : Nat) (target : CoreId) | laneFlitInject (core : CoreId) (q : Nat)
  | collChunkArrival (op : FabOp) | collHopTimeout (core : CoreId) (q : Nat)
  -- waits, scheduling (R236, R288-R306)
  | waitSatisfied (core : CoreId) | latemaxExpiry (core : CoreId) | landingFreezeRelease (core : CoreId)
  | hoistEntryAvailable (core : CoreId) | tideOccurrenceDue (core : CoreId) (plane : Bool) (entry : BitVec 8)
  | contextSaveBegin (core : CoreId) | contextSaveEnd (core : CoreId) | selection (core : CoreId) | contextResumeEnd (core : CoreId)
  -- translation, drydock, dredge (R314-R373)
  | faultMap (id : Nat) (pte : Word) | faultRefuse (id : Nat) | faultmaxExpiry (id : Nat) | pageTableUpdate (page : Nat) (pte : Word)
  | filterClear (f : BitVec 4) | cutInstant (part : BitVec 5) | cowCopyDone (part : BitVec 5) (g : Nat)
  | drainGranule (part : BitVec 5) | imageConfirmed (part : BitVec 5) | drainFailure (part : BitVec 5) (unreachable : Bool)
  | dredgeScanGranule (core : CoreId) (q : Nat) (engine : BitVec 3) | dredgeMerge (core : CoreId) (q : Nat)
  -- trimmer instructions (R339)
  | tmnop | tmld (d : BitVec 4) (cb : BitVec 3) (off : BitVec 16)
  | tmldC (d : BitVec 3) (cb : BitVec 3) (q : BitVec 3) (off : BitVec 16) | tmst (d : BitVec 4) (cb : BitVec 3) (off : BitVec 16)
  | tmadd (d a b : BitVec 4) | tmsub (d a b : BitVec 4) | tmaddl (d a b : BitVec 4)
  | tmshrSqrt (d a : BitVec 4) | tmshrRsqrt (d a : BitVec 4) | tmshrRcp (d a : BitVec 4)
  | tmcvtL2fLo (d a : BitVec 4) (k : BitVec 8) | tmcvtL2fHi (d a : BitVec 4) (k : BitVec 8)
  | tmcvtF2lLo (d a : BitVec 4) (k : BitVec 8) | tmcvtF2lHi (d a : BitVec 4) (k : BitVec 8)
  | tmfxAdd (d a b : BitVec 4) | tmfxSub (d a b : BitVec 4) | tmfxSar (d a : BitVec 4) (n : BitVec 5) | tmfxShl (d a : BitVec 4) (n : BitVec 5)
  | tmmul (d a b : BitVec 4) | tmsel (d a b m : BitVec 4) | tmcmp (cond : TmCond) (ty : TmTy) (d a b : BitVec 4)
  | tmmin (ty : TmTy) (d a b : BitVec 4) | tmmax (ty : TmTy) (d a b : BitVec 4)
  | tmsgnCopy (d a b : BitVec 4) | tmsgnXor (d a b : BitVec 4) | tmsgnAbs (d a : BitVec 4) | tmsgnNeg (d a : BitVec 4)
  | tmrnd (sr hi : Bool) (d a : BitVec 4) | tmaddi (d a : BitVec 3) (imm : BitVec 19) | tmmovi (d : BitVec 3) (hi : Bool) (imm : BitVec 16)
  | tmbr (cond : TmBrCond) (a : BitVec 3) (target : BitVec 10) | tmloop (a : BitVec 3) (target : BitVec 10) | tmend
  | tmmov (d a : BitVec 4) | tmmovBc16 (d : BitVec 4) (a : BitVec 3) | tmmovBc32 (d : BitVec 4) (a : BitVec 3)
  | tmmovGet16 (d : BitVec 3) (a : BitVec 4) (j : BitVec 4) | tmmovGet32 (d : BitVec 3) (a : BitVec 4) (j : BitVec 3)
  -- torus links, time, power (R381-R417)
  | flitReceive (p : Port) (flit : BitVec 512) | ackTimer (p : Port) | replayTimeout (p : Port) | portRetrain (p : Port)
  | fabricOperationArrival (op : FabOp) | e2eResponseArrival (r : Response) | holdNotice (incoming : Bool) (n : Notice)
  | e2eResendTimeout (n : Notice) | e2eLinkTimeout (n : Notice) | l3ArrivalCount (key : Word) (chip : BitVec 21) (count : BitVec 32)
  | l3PhaseChange (key : Word) | beaconSend (p : Port) | beaconReceive (p : Port) (sent recv : Word)
  | ptpEventMessage (port : BitVec 2) (egress : Bool) (seqId : BitVec 16) | disciplineStep (two : Bool) | tnowLoad (v : Word)
  | frequencyLock (src : BitVec 8) | referenceLoss | stealWindow (basin : BitVec 2) (n : BitVec 6) | thermalResponse (t : Thermal)
  | reset (stop : BootStop) | planeLoadEnd (core : CoreId)
  -- host (R391-R394)
  | rdmaWrite (pair : QueuePair) (rkey : BitVec 32) (off : Nat) (data : List Byte) | rdmaRead (vf : BitVec 8) (rkey : BitVec 32) (off len : Nat)
  | rdmaAtomicRequest (vf : BitVec 8)
  | loadPlane (m : HostMsg) | armTide (m : HostMsg) | disarmTide (m : HostMsg) | bindHandle (m : HostMsg) | setCap (m : HostMsg)
  | setRing (m : HostMsg) | setClass (m : HostMsg) | setSnapset (m : HostMsg) | cancelCut (m : HostMsg) | restore (m : HostMsg)
  | semAdd (m : HostMsg) | readStatus (m : HostMsg)
  | create (m : ReqMsg) | launch (m : ReqMsg) | stop (m : ReqMsg) | resume (m : ReqMsg) | destroy (m : ReqMsg) | inject (m : ReqMsg)
  | attest (m : ReqMsg) | release (m : ReqMsg) | commit (m : ReqMsg) | caps (m : ReqMsg)
  | duplicateEntryReplacement (chip : BitVec 21) (core : CoreId) | pfcPauseFrame (port : BitVec 2) (pause : Bool)
deriving DecidableEq, Repr

end Sys2Proof
end

