-- ==== Sys2Proof/Config.lean ====
section
/-! DEFINITION. What the manual leaves to a fixed function it does not give: free values (opaque constants, no body),
and the cryptographic standards the harbourmaster and the drydock use, left uninterpreted. -/
namespace Sys2Proof.Config
open Sys2Proof

/-- The transcendental functions (R159). -/
inductive TFun where
  | rcp | rsq | sqrt | exp2 | log2 | exp | ln | sin | cos | tanh | sigm | gelu
deriving DecidableEq, Repr

/-- FREE VALUE (log 10): the bits a transcendental writes where R159 gives only an error bound; a fixed function of
function, grade (true: accurate), element type and operand bits. -/
opaque transcendental : TFun → Bool → ETy → BitVec 32 → BitVec 32

/-- FREE VALUE (log 16): whether VFMA and VFMS raise NV for zero times an infinity beside a quiet NaN addend, which IEEE 754
leaves to the implementation. -/
opaque fmaInvalidWithNan : Bool
/-- FREE VALUE (log 11): the value delivered by a hold read with three or more bits in error (R328). -/
opaque eccMiscorrect : Nat → Gran

/-- FREE VALUE (log 11): whether such a read is reported as uncorrectable (R328). -/
opaque eccReported : Nat → Bool
/-- FREE VALUE (log 11): whether a read that is not reported counts as a corrected error (R328: wrongly corrected as a single-bit error). -/
opaque eccCorrected : Nat → Bool

/-- FREE VALUE (log 20): the DRAM row address of an HBM address in the key of a corrected error (R323). -/
opaque dramRow : Nat → BitVec 40
/-- The CAUSE in the fault record of a task that STOP abandons without a trap (R14, R405, log 145). -/
opaque stopCause : Word
/-- The IA a sample records of an access that has none, by its HBM address (R320, log 143). -/
opaque physicalIa : Nat → Nat

/-- FREE VALUE (log 21): the storage offset of segment i of an image whose segments have the lengths given (R372), which the manual leaves
open. -/
opaque segmentAt : List Nat → Nat → Nat

/-- FREE VALUE (log 13): the table an MTBL restored from a matrix record names; the record keeps no lend bit (R195). -/
opaque mtblSlot : BitVec 32 → Bool
/-- FREE VALUE (log 14): the MCFG word in force when a matrix record with a parked MCFG is restored (R195). -/
opaque mcfgInForce : BitVec 32 → BitVec 32

/-- FREE VALUE (log 18): the scale byte a FILL copy writes for a block whose own scale byte is poisoned (R213). -/
opaque fillScale : Byte

/-- FREE VALUE (log 22): the 24 bytes of transaction fields at the head of a packet (R380) but for its destination chip and class: the manual
names the fields and gives neither their widths nor their places. -/
opaque headRest : Head → BitVec 192
/-- FREE VALUE (log 22): the bit at which the destination chip begins in those bytes (R380). -/
opaque headChipAt : Nat
/-- FREE VALUE (log 22): the bit at which the bandwidth class begins in those bytes (R380). -/
opaque headClassAt : Nat

/-- FREE VALUE (log 24): the rkey the firmware issues with the n-th handle it binds (R392). -/
opaque rkey : Nat → BitVec 32

/-- SHA-384 (R406, R402), uninterpreted. -/
opaque sha384 : List Byte → BitVec 384
/-- HKDF-SHA-384 with input key, salt, info and length in bytes (R371, R399), uninterpreted. -/
opaque hkdf : List Byte → List Byte → List Byte → Nat → List Byte
/-- ECDSA P-384 verification of a signature over a message under a public key (R402, R403), uninterpreted. -/
opaque ecdsaOk : List Byte → List Byte → List Byte → Bool
/-- The ECDSA P-384 public key of a secret, x then y (R399), uninterpreted. -/
opaque ecdsaPublic : List Byte → List Byte
/-- ECDSA P-384 signature of a message by a secret (R401, R403, R408), uninterpreted. -/
opaque ecdsaSign : List Byte → List Byte → List Byte
/-- HMAC-SHA-384 of a key and a message (R399), uninterpreted. -/
opaque hmac : List Byte → List Byte → List Byte
/-- LMS signature by the key of the n-th tree ever made (R372, R408), uninterpreted; 1,612 bytes. -/
opaque lmsSign : Nat → List Byte → List Byte
/-- The LMS verification of a manifest (R374), uninterpreted. -/
opaque lmsOk : List Byte → Bool
/-- LMS verification of a signature over a message under a public key (R402), uninterpreted. -/
opaque lmsVerify : List Byte → List Byte → List Byte → Bool
/-- LMS signature of a message with a leaf of the tree of a seed (R400), uninterpreted. -/
opaque lmsSignAt : List Byte → Nat → List Byte → List Byte
/-- The public key of the n-th per-boot tree ever made, from the true random generator (R399, R401); 56 bytes. -/
opaque bootLmsKey : Nat → List Byte
/-- AES-256-GCM sealing: key, IV, AAD, plaintext give ciphertext and tag (R371), uninterpreted. -/
opaque gcmSeal : List Byte → List Byte → List Byte → List Byte → List Byte × List Byte
/-- AES-256-GCM opening: key, IV, AAD, ciphertext, tag give the plaintext when the tag verifies (R374, R409). -/
opaque gcmOpen : List Byte → List Byte → List Byte → List Byte → List Byte → Option (List Byte)
/-- The ECDH P-384 shared secret of the n-th ephemeral key ever made with a peer public key (R409), uninterpreted. -/
opaque ecdhShared : Nat → List Byte → List Byte
/-- FREE VALUE (log 25): the IV and the AAD under which the key service seals the secret of RELEASE (R409). -/
opaque releaseIv : List Byte × List Byte
/-- The ephemeral ECDH P-384 public key made for the n-th report ever made (R408, R409), uninterpreted; 96 bytes. -/
opaque ephemeralKey : Nat → List Byte
/-- The PUF helper data of boot flash, with their check digest (R413). -/
opaque pufHelper : List Byte
/-- FREE VALUE (log 15): the unique device secret that the PUF rebuilds from helper data (R399), 48 bytes. -/
opaque puf : List Byte → List Byte
/-- The harbourmaster image, the management image and the board manifest of boot flash (R402, R413). -/
opaque harbourImage : List Byte
/-- The management image. -/
opaque managementImage : List Byte
/-- The board manifest: harvest mask, stack presence, torus lane map, cold-plate limits. -/
opaque boardManifest : List Byte
/-- The digests in the ROM of the two vendor keys (R402). -/
opaque romDigests : BitVec 384 × BitVec 384
/-- The operator's ECDSA P-384 public key in boot flash (R403, R413), 96 bytes. -/
opaque operatorKey : List Byte

end Sys2Proof.Config
end

