-- ==== Sys2Proof/WellFormed.lean ====
section
/-! DEFINITION. Which instructions are encodable: the slot an instruction may stand in (R77), the ranges of its
immediates (R67), and the field values its rule reserves (R71-R80, R106, R107, R111, R138, R171, R196, R235, R339).
Events and messages are no words of a program; every one of them is well formed. -/
namespace Sys2Proof

/-- SC or AD (slot A of R77). -/
def Ctl.isA (c : Ctl) : Bool := c.slot == .sc || c.slot == .ad
/-- SC only (slot C of R77). -/
def Ctl.isC (c : Ctl) : Bool := c.slot == .sc
/-- VA or VB. -/
def Ctl.isV (c : Ctl) : Bool := c.slot == .va || c.slot == .vb
/-- The matrix slot. -/
def Ctl.isM (c : Ctl) : Bool := c.slot == .mx
/-- The engine slot. -/
def Ctl.isE (c : Ctl) : Bool := c.slot == .cp

/-- The integer types I of R138. -/
def ETy.isInt (t : ETy) : Bool := t == .i8 || t == .i16 || t == .i32 || t == .i64
/-- The float types F of R138. -/
def ETy.isFloat (t : ETy) : Bool := t == .bf16 || t == .f16 || t == .f32
/-- Element size in bytes (R66, Table 3). -/
def ETy.bytes (t : ETy) : Nat :=
  match t with
  | .i8 => 1 | .i16 => 2 | .i32 => 4 | .i64 => 8 | .bf16 => 2 | .f16 => 2 | .f32 => 4 | .lgm => 2
/-- The type of a code of Table 3 (R66). -/
def ETy.ofCode (b : BitVec 3) : ETy :=
  match b.toNat with
  | 0 => .i8 | 1 => .i16 | 2 => .i32 | 3 => .i64 | 4 => .bf16 | 5 => .f16 | 6 => .f32 | _ => .lgm
/-- The code of a type (R66, Table 3). -/
def ETy.code (t : ETy) : BitVec 3 :=
  match t with
  | .i8 => 0 | .i16 => 1 | .i32 => 2 | .i64 => 3 | .bf16 => 4 | .f16 => 5 | .f32 => 6 | .lgm => 7

/-- In AD an immediate of `n` bits is held in one bit less (R67, Table 4). -/
def fitsAd {n : Nat} (c : Ctl) (v : BitVec n) : Bool := c.slot != .ad || v.getLsbD (n - 1) == v.getLsbD (n - 2)

/-- The sub-fields of VCVT (R154): a destination type in I or F, unlike the source; H only where the sizes differ by two;
bit 4 zero. -/
def cvtOk (o : V3) : Bool :=
  let d := ETy.ofCode (o.vb.extractLsb' 0 3)
  let h := o.vb.getLsbD 3
  !(d == .lgm) && !(d == o.ty) && !o.vb.getLsbD 4 &&
    (!h || o.ty.bytes == 2 * d.bytes || d.bytes == 2 * o.ty.bytes)

/-- A register that names a pair is even (R76, R171). -/
def evenReg (r : Reg) : Bool := !r.getLsbD 0

/-- A truth table or form leaves the high bits of a predicate field zero by construction; a shift by immediate with .w
needs an amount below 32 (R106). -/
def shiftOk (c : Ctl) (w : Bool) (n : BitVec 6) : Bool := c.isA && (!w || !n.getLsbD 5)

/-- A bit field ends inside the register (R107). -/
def bfOk (c : Ctl) (pos lenM1 : BitVec 6) : Bool := c.isA && decide (pos.toNat + lenM1.toNat + 1 ≤ 64)

/-- A CP slot whose bandwidth class field is unused or a class 0..2 (R197). -/
def cpPlain (o : CP) : Bool := o.ctl.isE && o.bcl == 0
/-- A CP slot with a bandwidth class 0..2 (R197). -/
def cpBcl (o : CP) : Bool := o.ctl.isE && !(o.bcl == 3)

/-- The CSR addresses of DOM1..DOM3: a CSRW of one of them is DOM_WRITE (R250). -/
def isDomAddr (a : BitVec 12) : Bool := a == 0x021#12 || a == 0x022#12 || a == 0x023#12

/-- A VM slot: slots VA and VB. -/
def vmOk (o : VM) : Bool := o.ctl.isV

/-- Well-formedness of an instruction. -/
def Instr.wf (i : Instr) : Bool :=
  match i with
  | .headerOnlyBundle _ => true
  | .nop c => c.isA
  | .alu c fn _ _ xb => c.isA &&
      (match fn with
       | .clz | .ctz | .popc | .rev8 | .sextB | .sextH | .sextW | .zextW => xb == 0
       | _ => true)
  | .muldiv c _ _ _ _ => c.isC
  | .sel c _ _ _ _ => c.isA
  | .addi c _ _ imm => c.isA && fitsAd c imm
  | .andi c _ _ imm => c.isA && fitsAd c imm
  | .ori c _ _ imm => c.isA && fitsAd c imm
  | .xori c _ _ imm => c.isA && fitsAd c imm
  | .shli c w _ _ n => shiftOk c w n
  | .shri c w _ _ n => shiftOk c w n
  | .sari c w _ _ n => shiftOk c w n
  | .bfx c _ _ p l => bfOk c p l
  | .bfxs c _ _ p l => bfOk c p l
  | .bfi c _ _ p l => bfOk c p l
  | .movi c _ imm => c.isA && fitsAd c imm
  | .movk c _ _ _ => c.isA
  | .movl c _ imm => c.isA && fitsAd c imm
  | .cmp c _ _ pt pf _ _ => c.isA && (!(pt == pf) || pt == 0)
  | .cmpi c _ pt pf _ imm => c.isA && fitsAd c imm && (!(pt == pf) || pt == 0)
  | .plog c _ _ _ _ => c.isA
  | .pmov c _ => c.isA
  | .ld c _ _ _ _ off => c.isA && fitsAd c off
  | .st c _ _ _ _ off => c.isA && fitsAd c off
  | .ldx c _ _ _ _ _ => c.isA
  | .stx c _ _ _ _ _ => c.isA
  | .hld c _ _ _ _ off => c.isA && fitsAd c off
  | .hst c _ _ _ _ off => c.isA && fitsAd c off
  | .tagset c _ _ _ => c.isA
  | .tagchk c _ _ _ m => c.isA && !(m == 0)
  | .klog c _ _ _ _ => c.isA
  | .kmov c _ => c.isA
  | .kpop c _ _ _ => c.isA
  | .semadd c _ _ _ => c.isA
  | .semwait c _ _ _ _ => c.isC
  | .semrd c _ _ _ => c.isA
  | .fence c mask => c.isA && !(mask == 0)
  | .fenceWait c mask => c.isC && !(mask == 0)
  | .br c _ => c.isC
  | .call c _ => c.isC
  | .jmpr c _ _ => c.isC
  | .loop c _ _ _ => c.isC
  | .csrr c _ _ => c.isA
  | .csrw c a _ => c.isC && !isDomAddr a
  | .csrx c _ _ _ => c.isC
  | .domWrite c _ _ => c.isC
  | .trap c _ => c.isC
  | .eret c => c.isC
  | .brk c _ => c.isC
  | .land c _ => c.isC
  | .berthArm c _ _ _ => c.isC
  | .berthTag c _ _ => c.isC
  | .berthOff c _ => c.isC
  | .tick c _ _ => c.isA
  | .waitt c _ _ => c.isC
  | .domarv c _ => c.isC
  | .domwait c _ => c.isC
  | .spawn c _ _ _ => c.isC
  | .exit c => c.isC
  | .phaseBegin c => c.isC
  | .phaseCommit c => c.isC
  | .phaseAbort c => c.isC
  | .plswap c => c.isC
  | .plswapCancel c => c.isC
  | .vadd o => o.ctl.isV
  | .vsub o => o.ctl.isV
  | .vmul o => o.ctl.isV
  | .vfma o => o.ctl.isV && o.ty.isFloat
  | .vfms o => o.ctl.isV && o.ty.isFloat
  | .vmin o => o.ctl.isV
  | .vmax o => o.ctl.isV
  | .vminn o => o.ctl.isV && !(o.ty == .lgm)
  | .vmaxn o => o.ctl.isV && !(o.ty == .lgm)
  | .vabs o => o.ctl.isV && o.vb == 0
  | .vneg o => o.ctl.isV && o.vb == 0
  | .vadds o => o.ctl.isV && o.ty.isInt
  | .vsubs o => o.ctl.isV && o.ty.isInt
  | .vmulh o => o.ctl.isV && o.ty.isInt
  | .vclmp o => o.ctl.isV && (o.ty == .i32 || o.ty.isFloat || o.ty == .lgm) && !o.vb.getLsbD 4
  | .vand o => o.ctl.isV
  | .vor o => o.ctl.isV
  | .vxor o => o.ctl.isV
  | .vshl o => o.ctl.isV && o.ty.isInt
  | .vshr o => o.ctl.isV && o.ty.isInt
  | .vsar o => o.ctl.isV && o.ty.isInt
  | .vshli o => o.ctl.isV && o.ty.isInt
  | .vshri o => o.ctl.isV && o.ty.isInt
  | .vsari o => o.ctl.isV && o.ty.isInt
  | .vaddx o => o.ctl.isV && o.ty.isInt
  | .vmulx o => o.ctl.isV && o.ty.isInt
  | .vfmax o => o.ctl.isV && (o.ty.isFloat || o.ty == .lgm)
  | .vbcst o => o.ctl.isV && o.vb == 0
  | .vext o => o.ctl.isV
  | .vcmp o => o.ctl.isV
  | .vsel o => o.ctl.isV
  | .vcvt o => o.ctl.isV && !(o.ty == .lgm) && cvtOk o
  | .vqnt o => o.ctl.isV && (o.ty.isFloat || o.ty == .lgm) && decide (o.vb.toNat ≤ 11) && o.sl == .full && o.k == 0
  | .vdqnt o => o.ctl.isV && (o.ty.isFloat || o.ty == .lgm) && decide (o.vb.toNat ≤ 11) && o.sl == .full && o.k == 0
  | .vpk6 o => o.ctl.isV && o.ty == .i8 && o.vb == 0 && o.k == 0
  | .vupk6 o => o.ctl.isV && o.ty == .i8 && o.vb == 0 && o.k == 0
  | .vpk4 o => o.ctl.isV && o.ty == .i8 && o.vb == 0 && o.k == 0
  | .vupk4 o => o.ctl.isV && o.ty == .i8 && o.vb == 0 && o.k == 0
  | .vl2f o => o.ctl.isV && o.ty.isFloat
  | .vf2l o => o.ctl.isV && o.ty.isFloat
  | .vrcp o => o.ctl.isV && o.ty.isFloat && decide (o.vb.toNat ≤ 1)
  | .vrsq o => o.ctl.isV && o.ty.isFloat && decide (o.vb.toNat ≤ 1)
  | .vsqrt o => o.ctl.isV && o.ty.isFloat && decide (o.vb.toNat ≤ 1)
  | .vexp2 o => o.ctl.isV && o.ty.isFloat && decide (o.vb.toNat ≤ 1)
  | .vlog2 o => o.ctl.isV && o.ty.isFloat && decide (o.vb.toNat ≤ 1)
  | .vexp o => o.ctl.isV && o.ty.isFloat && decide (o.vb.toNat ≤ 1)
  | .vln o => o.ctl.isV && o.ty.isFloat && decide (o.vb.toNat ≤ 1)
  | .vsin o => o.ctl.isV && o.ty.isFloat && decide (o.vb.toNat ≤ 1)
  | .vcos o => o.ctl.isV && o.ty.isFloat && decide (o.vb.toNat ≤ 1)
  | .vtanh o => o.ctl.isV && o.ty.isFloat && decide (o.vb.toNat ≤ 1)
  | .vsigm o => o.ctl.isV && o.ty.isFloat && decide (o.vb.toNat ≤ 1)
  | .vgelu o => o.ctl.isV && o.ty.isFloat && decide (o.vb.toNat ≤ 1)
  | .vperm o => o.ctl.isV
  | .vshuf o => o.ctl.isV && decide (o.vb.toNat ≤ 5)
  | .vred o => o.ctl.isV && decide (o.vb.toNat ≤ 2)
  | .vacr o => o.ctl.isV && o.ty == .i64 && o.sl == .full
  | .vacw o => o.ctl.isV && o.ty == .i64 && o.sl == .full
  | .vld o => vmOk o
  | .vst o => vmOk o
  | .vlds o => vmOk o && evenReg o.xb
  | .vsts o => vmOk o && evenReg o.xb
  | .vgth o => vmOk o && evenReg o.vd
  | .vsct o => vmOk o && evenReg o.vd
  | .mcfg o => o.ctl.isM && o.acc == 0 && o.xn == 0
  | .mtbl o _ => o.ctl.isM && o.acc == 0 && o.xn == 0
  | .mwld o _ => o.ctl.isM && o.acc == 0
  | .mwlds o _ => o.ctl.isM && o.acc == 0
  | .mwswap o => o.ctl.isM && o.acc == 0 && o.xa == 0 && o.xn == 0
  | .mstrm o _ => o.ctl.isM && evenReg o.xn
  | .mstrma o _ => o.ctl.isM
  | .mstrmh o _ => o.ctl.isM && o.xa == 0
  | .mdrn o _ => o.ctl.isM && evenReg o.xn
  | .mdrnh o _ => o.ctl.isM && evenReg o.xn
  | .mclr o => o.ctl.isM && o.xa == 0
  | .mhpsh o => o.ctl.isM && o.acc == 0 && o.xn == 0
  | .mhcnt o => o.ctl.isM && o.acc == 0 && o.xn == 0
  | .mgateOn o _ => o.ctl.isM && o.acc == 0 && o.xa == 0 && o.xn == 0
  | .mgateOff o => o.ctl.isM && o.acc == 0 && o.xa == 0 && o.xn == 0
  | .msave o _ => o.ctl.isM
  | .mrest o _ => o.ctl.isM
  | .mstat o _ => o.ctl.isM && o.acc == 0 && o.xn == 0
  | .msync o => o.ctl.isM && o.acc == 0 && o.xa == 0 && o.xn == 0
  | .cpyt o => cpPlain o
  | .cpyl o => cpPlain o && evenReg o.xs
  | .cpylBerth o => cpPlain o && evenReg o.xs
  | .mcast o => cpPlain o && evenReg o.xs && evenReg o.xd
  | .gthr o => cpPlain o && evenReg o.xs
  | .send o _ => cpPlain o && evenReg o.xs
  | .sends o => cpPlain o && evenReg o.xs
  | .semr o => cpPlain o
  | .fwr o => cpBcl o && evenReg o.xs
  | .fwrBerth o => cpBcl o && evenReg o.xs && evenReg o.xd
  | .ffaa o => cpBcl o && evenReg o.xd
  | .fflg o => cpBcl o
  | .fflgAdd o => cpBcl o
  | .coll o => cpPlain o && o.xd == 0
  | .drg o => cpPlain o && o.xd == 0
  | .migr o => cpBcl o && evenReg o.xs && evenReg o.xd
  | .migrRemap o => cpBcl o && evenReg o.xs && evenReg o.xd
  | .snap o _ => cpPlain o
  | .snapSeal o _ => cpPlain o
  | .trim o => cpPlain o && o.xd == 0
  | .rcf o => cpPlain o && o.xd == 0 && o.sem == 0 && o.cls == 0
  | .cpab o => cpPlain o && o.xd == 0 && o.cls == 0
  | .tmbr c a _ => !(c == .always) || a == 0
  | .exitWeightAdd .. | .mxQueuedStart .. | .streamRowEntry .. | .resultLanding .. | .drainBoundTrap ..
  | .gateTakesEffect .. | .wakeEnd .. | .migrPageExchange .. | .engineQueueEntryFree .. | .commandStart ..
  | .commandCompletion .. | .deliveryAcceptance .. | .laneFlitInject .. | .collChunkArrival ..
  | .collHopTimeout .. | .waitSatisfied .. | .latemaxExpiry .. | .landingFreezeRelease ..
  | .hoistEntryAvailable .. | .tideOccurrenceDue .. | .contextSaveBegin .. | .contextSaveEnd .. | .selection ..
  | .contextResumeEnd .. | .faultMap .. | .faultRefuse .. | .faultmaxExpiry .. | .pageTableUpdate ..
  | .filterClear .. | .cutInstant .. | .cowCopyDone .. | .drainGranule .. | .imageConfirmed ..
  | .drainFailure .. | .dredgeScanGranule .. | .dredgeMerge .. | .tmnop | .tmld .. | .tmldC .. | .tmst ..
  | .tmadd .. | .tmsub .. | .tmaddl .. | .tmshrSqrt .. | .tmshrRsqrt .. | .tmshrRcp .. | .tmcvtL2fLo ..
  | .tmcvtL2fHi .. | .tmcvtF2lLo .. | .tmcvtF2lHi .. | .tmfxAdd .. | .tmfxSub .. | .tmfxSar .. | .tmfxShl ..
  | .tmmul .. | .tmsel .. | .tmcmp .. | .tmmin .. | .tmmax .. | .tmsgnCopy .. | .tmsgnXor .. | .tmsgnAbs ..
  | .tmsgnNeg .. | .tmrnd .. | .tmaddi .. | .tmmovi .. | .tmloop .. | .tmend | .tmmov .. | .tmmovBc16 ..
  | .tmmovBc32 .. | .tmmovGet16 .. | .tmmovGet32 .. | .flitReceive .. | .ackTimer .. | .replayTimeout ..
  | .portRetrain .. | .fabricOperationArrival .. | .e2eResponseArrival .. | .holdNotice ..
  | .e2eResendTimeout .. | .e2eLinkTimeout .. | .l3ArrivalCount .. | .l3PhaseChange .. | .beaconSend ..
  | .beaconReceive .. | .ptpEventMessage .. | .disciplineStep .. | .tnowLoad .. | .frequencyLock ..
  | .referenceLoss | .stealWindow .. | .thermalResponse .. | .reset .. | .planeLoadEnd .. | .rdmaWrite ..
  | .rdmaRead .. | .rdmaAtomicRequest .. | .loadPlane .. | .armTide .. | .disarmTide .. | .bindHandle ..
  | .setCap .. | .setRing .. | .setClass .. | .setSnapset .. | .cancelCut .. | .restore .. | .semAdd ..
  | .readStatus .. | .create .. | .launch .. | .stop .. | .resume .. | .destroy .. | .inject .. | .attest ..
  | .release .. | .commit .. | .caps .. | .duplicateEntryReplacement .. | .pfcPauseFrame .. => true

end Sys2Proof
end

