-- ==== Sys2Proof/Decode.lean ====
section
/-! DEFINITION. Encoding and decoding of slot words (R62-R80), of bundles (R62-R66, R74, R81-R83) and of trimmer
words (R338, R339), and the plane header with its walk (R88, R89). A word decodes to an instruction exactly when it is
that instruction's encoding, so that a reserved opcode, a reserved field value and a non-zero unused field are refused. -/
namespace Sys2Proof

/-- ALU fn values (R78, Table 11). -/
def AluFn.code (f : AluFn) : BitVec 7 :=
  match f with
  | .add => 0 | .sub => 1 | .and => 2 | .or => 3 | .xor => 4 | .andn => 5 | .orn => 6 | .xnor => 7 | .shl => 8
  | .shr => 9 | .sar => 10 | .rol => 11 | .min => 12 | .max => 13 | .minn => 14 | .maxn => 15 | .addW => 16
  | .subW => 17 | .shlW => 18 | .shrW => 19 | .sarW => 20 | .clz => 24 | .ctz => 25 | .popc => 26 | .rev8 => 27
  | .sextB => 28 | .sextH => 29 | .sextW => 30 | .zextW => 31 | .addsh1 => 32 | .addsh2 => 33 | .addsh3 => 34
  | .addsh4 => 35
/-- The AluFn of a code; none where the code is reserved. -/
def AluFn.ofCode (b : BitVec 7) : Option AluFn :=
  match b.toNat with
  | 0 => some .add | 1 => some .sub | 2 => some .and | 3 => some .or | 4 => some .xor | 5 => some .andn
  | 6 => some .orn | 7 => some .xnor | 8 => some .shl | 9 => some .shr | 10 => some .sar | 11 => some .rol
  | 12 => some .min | 13 => some .max | 14 => some .minn | 15 => some .maxn | 16 => some .addW
  | 17 => some .subW | 18 => some .shlW | 19 => some .shrW | 20 => some .sarW | 24 => some .clz
  | 25 => some .ctz | 26 => some .popc | 27 => some .rev8 | 28 => some .sextB | 29 => some .sextH
  | 30 => some .sextW | 31 => some .zextW | 32 => some .addsh1 | 33 => some .addsh2 | 34 => some .addsh3
  | 35 => some .addsh4 | _ => none

/-- MULDIV fn values (R78, Table 11). -/
def MulFn.code (f : MulFn) : BitVec 7 :=
  match f with
  | .mul => 0 | .mulh => 1 | .mulhn => 2 | .mulW => 3 | .div => 8 | .divn => 9 | .rem => 10 | .remn => 11
/-- The MulFn of a code; none where the code is reserved. -/
def MulFn.ofCode (b : BitVec 7) : Option MulFn :=
  match b.toNat with
  | 0 => some .mul | 1 => some .mulh | 2 => some .mulhn | 3 => some .mulW | 8 => some .div | 9 => some .divn
  | 10 => some .rem | 11 => some .remn | _ => none

/-- Compare conditions (R111, Table 5). -/
def Cond.code (f : Cond) : BitVec 4 :=
  match f with
  | .eq => 0 | .ne => 1 | .lt => 2 | .ge => 3 | .ltn => 4 | .gen => 5 | .le => 6 | .gt => 7 | .len => 8
  | .gtn => 9 | .tst => 10 | .ntst => 11
/-- The Cond of a code; none where the code is reserved. -/
def Cond.ofCode (b : BitVec 4) : Option Cond :=
  match b.toNat with
  | 0 => some .eq | 1 => some .ne | 2 => some .lt | 3 => some .ge | 4 => some .ltn | 5 => some .gen
  | 6 => some .le | 7 => some .gt | 8 => some .len | 9 => some .gtn | 10 => some .tst | 11 => some .ntst
  | _ => none

/-- Compare sizes (R111). -/
def CmpSize.code (f : CmpSize) : BitVec 2 :=
  match f with
  | .d => 0 | .w => 1 | .h => 2 | .b => 3
/-- The CmpSize of a code; none where the code is reserved. -/
def CmpSize.ofCode (b : BitVec 2) : Option CmpSize :=
  match b.toNat with
  | 0 => some .d | 1 => some .w | 2 => some .h | 3 => some .b | _ => none

/-- SM size codes (R72). -/
def MemSize.code (f : MemSize) : BitVec 3 :=
  match f with
  | .b => 0 | .bn => 1 | .h => 2 | .hn => 3 | .w => 4 | .wn => 5 | .d => 6
/-- The MemSize of a code; none where the code is reserved. -/
def MemSize.ofCode (b : BitVec 3) : Option MemSize :=
  match b.toNat with
  | 0 => some .b | 1 => some .bn | 2 => some .h | 3 => some .hn | 4 => some .w | 5 => some .wn | 6 => some .d
  | _ => none

/-- KPOP fn values (R117). -/
def KpopFn.code (f : KpopFn) : BitVec 7 :=
  match f with
  | .i8 => 0 | .i16 => 1 | .i32 => 2 | .i64 => 3 | .first => 4
/-- The KpopFn of a code; none where the code is reserved. -/
def KpopFn.ofCode (b : BitVec 7) : Option KpopFn :=
  match b.toNat with
  | 0 => some .i8 | 1 => some .i16 | 2 => some .i32 | 3 => some .i64 | 4 => some .first | _ => none

/-- TICK fn values (R235). -/
def TickFn.code (f : TickFn) : BitVec 7 :=
  match f with
  | .tnow => 0 | .tcyc => 1 | .slip => 2
/-- The TickFn of a code; none where the code is reserved. -/
def TickFn.ofCode (b : BitVec 7) : Option TickFn :=
  match b.toNat with
  | 0 => some .tnow | 1 => some .tcyc | 2 => some .slip | _ => none

/-- Domain levels 1..3 (R235). -/
def Level.code (f : Level) : BitVec 2 :=
  match f with
  | .l1 => 1 | .l2 => 2 | .l3 => 3
/-- The Level of a code; none where the code is reserved. -/
def Level.ofCode (b : BitVec 2) : Option Level :=
  match b.toNat with
  | 1 => some .l1 | 2 => some .l2 | 3 => some .l3 | _ => none

/-- TMCMP conditions (R339). -/
def TmCond.code (f : TmCond) : BitVec 2 :=
  match f with
  | .eq => 0 | .lt => 1 | .le => 2 | .un => 3
/-- The TmCond of a code; none where the code is reserved. -/
def TmCond.ofCode (b : BitVec 2) : Option TmCond :=
  match b.toNat with
  | 0 => some .eq | 1 => some .lt | 2 => some .le | 3 => some .un | _ => none

/-- TMBR conditions (R339). -/
def TmBrCond.code (f : TmBrCond) : BitVec 3 :=
  match f with
  | .always => 0 | .eq => 1 | .ne => 2 | .lt => 3 | .ge => 4
/-- The TmBrCond of a code; none where the code is reserved. -/
def TmBrCond.ofCode (b : BitVec 3) : Option TmBrCond :=
  match b.toNat with
  | 0 => some .always | 1 => some .eq | 2 => some .ne | 3 => some .lt | 4 => some .ge | _ => none

/-- Index 0..2 of a level. -/
def Level.ix (l : Level) : Fin 3 := match l with | .l1 => 0 | .l2 => 1 | .l3 => 2

/-- The field of `n` bits of a word that starts at bit `lo`. -/
def fld {m : Nat} (w : BitVec m) (lo n : Nat) : BitVec n := w.extractLsb' lo n

/-- A slot word with the lend bits its header holds for it, zero-extended to 6, and MOVL's literal. -/
structure SlotEnc where
  word : BitVec 32
  lend : BitVec 6
  lit : Option (BitVec 32)
deriving DecidableEq, Repr

/-- The common slot word (R68, Table 5): OP, G, AR, BODY. -/
def slotWord (op : Nat) (c : Ctl) (body : BitVec 22) : BitVec 32 :=
  BitVec.ofNat 6 op ++ c.g ++ bitOf 1 c.ar ++ body

/-- Format S3 (R71, Table 6). -/
def encS3 (op : Nat) (c : Ctl) (xd xa xb : Reg) (fn : BitVec 7) : SlotEnc := ⟨slotWord op c (xd ++ xa ++ xb ++ fn), 0, none⟩
/-- Format SI (R71, Table 6). -/
def encSI (op : Nat) (c : Ctl) (xd xa : Reg) (lend : BitVec 6) (imm : BitVec 12) : SlotEnc :=
  ⟨slotWord op c (xd ++ xa ++ imm), lend, none⟩
/-- The lend bits of an 18-bit immediate: six in SC, five in AD (R67). -/
def immLend (c : Ctl) (hi : BitVec 6) : BitVec 6 := if c.slot = .ad then 0#1 ++ fld hi 0 5 else hi
/-- Format SI with a sign-extended immediate (R67). -/
def encImm (op : Nat) (c : Ctl) (xd xa : Reg) (imm : BitVec 18) : SlotEnc :=
  encSI op c xd xa (immLend c (fld imm 12 6)) (fld imm 0 12)
/-- Format SM (R71, R72). -/
def encSM (op : Nat) (c : Ctl) (xd xb : Reg) (cls : BitVec 4) (sz : MemSize) (off : BitVec 11) : SlotEnc :=
  ⟨slotWord op c (xd ++ xb ++ cls ++ sz.code ++ fld off 0 5), immLend c (fld off 5 6), none⟩
/-- Format V3 with its width and slice (R73). -/
def Slice.code (s : Slice) : BitVec 4 :=
  match s with
  | .full => 0b1000#4 | .h0 => 0b0100#4 | .h2 => 0b0110#4 | .q n => 0#2 ++ n
/-- The slice of W and slice fields (R73, Table 8); none where it is illegal. -/
def Slice.ofCode (b : BitVec 4) : Option Slice :=
  match (fld b 2 2).toNat, (fld b 0 2).toNat with
  | 2, 0 => some .full | 1, 0 => some .h0 | 1, 2 => some .h2 | 0, _ => some (.q (fld b 0 2)) | _, _ => none
/-- Format V3 (R73). -/
def encV3 (op : Nat) (o : V3) : SlotEnc :=
  ⟨slotWord op o.ctl (o.sl.code ++ o.vd ++ o.va ++ o.vb ++ o.k), 0#3 ++ o.ty.code, none⟩
/-- Format VM (R73). -/
def encVM (op : Nat) (o : VM) : SlotEnc :=
  ⟨slotWord op o.ctl (o.sl.code ++ o.vd ++ o.xb ++ o.cls ++ 0#1 ++ o.k), 0#3 ++ o.lend, none⟩
/-- The MX body (R75). -/
def encMX (op : Nat) (o : MX) (fl : BitVec 4) (lend : BitVec 2) : SlotEnc :=
  ⟨slotWord op o.ctl (o.acc ++ o.xa ++ o.xn ++ fl), 0#4 ++ lend, none⟩
/-- The CP body (R76); `flag` is LEND.CP[0]. -/
def encCP (op : Nat) (o : CP) (fl : BitVec 2) (flag : Bool) : SlotEnc :=
  ⟨slotWord op o.ctl (o.xs ++ o.xd ++ o.sem ++ o.cls ++ fl), 0#3 ++ o.bcl ++ bitOf 1 flag, none⟩
/-- A predicate or mask register in a 5-bit field (R100). -/
def r3 (p : BitVec 3) : Reg := 0#2 ++ p

/-- The slot word of an instruction of a bundle; none for trimmer words, events and messages. -/
def encodeSlot (i : Instr) : Option SlotEnc :=
  match i with
  | .nop c => some (encS3 0 c 0 0 0 0)
  | .alu c fn xd xa xb => some (encS3 1 c xd xa xb fn.code)
  | .muldiv c fn xd xa xb => some (encS3 2 c xd xa xb fn.code)
  | .sel c xd pn xa xb => some (encS3 3 c xd xa xb (0#4 ++ pn))
  | .addi c xd xa imm => some (encImm 4 c xd xa imm)
  | .andi c xd xa imm => some (encImm 5 c xd xa imm)
  | .ori c xd xa imm => some (encImm 6 c xd xa imm)
  | .xori c xd xa imm => some (encImm 7 c xd xa imm)
  | .shli c w xd xa n => some (encSI 8 c xd xa 0 (0#5 ++ bitOf 1 w ++ n))
  | .shri c w xd xa n => some (encSI 9 c xd xa 0 (0#5 ++ bitOf 1 w ++ n))
  | .sari c w xd xa n => some (encSI 10 c xd xa 0 (0#5 ++ bitOf 1 w ++ n))
  | .bfx c xd xa p l => some (encSI 11 c xd xa 0 (l ++ p))
  | .bfxs c xd xa p l => some (encSI 12 c xd xa 0 (l ++ p))
  | .bfi c xd xa p l => some (encSI 13 c xd xa 0 (l ++ p))
  | .movi c xd imm => some (encImm 14 c xd 0 imm)
  | .movk c xd imm h => some (encSI 15 c xd (0#3 ++ h) (0#2 ++ fld imm 12 4) (fld imm 0 12))
  | .movl c xd imm => some ⟨slotWord 16 c (xd ++ 0#5 ++ fld imm 32 12), immLend c (fld imm 44 6), some (fld imm 0 32)⟩
  | .cmp c cond sz pt pf xa xb => some ⟨slotWord 17 c (pt ++ pf ++ xa ++ xb ++ cond.code ++ sz.code), 0, none⟩
  | .cmpi c cond pt pf xa imm =>
    some ⟨slotWord 18 c (pt ++ pf ++ xa ++ cond.code ++ fld imm 0 7), immLend c (fld imm 7 6), none⟩
  | .plog c pd pa pb tt => some (encS3 19 c (r3 pd) (r3 pa) (r3 pb) (0#3 ++ tt))
  | .pmov c (.rd xd) => some (encS3 20 c xd 0 0 0)
  | .pmov c (.wr xa) => some (encS3 20 c 0 xa 0 1)
  | .pmov c (.set pd xa) => some (encS3 20 c (r3 pd) xa 0 2)
  | .pmov c (.get xd pa) => some (encS3 20 c xd (r3 pa) 0 3)
  | .ld c sz xd xb cls off => some (encSM 21 c xd xb cls sz off)
  | .st c sz xd xb cls off => some (encSM 22 c xd xb cls sz off)
  | .ldx c sz xd xa xb cls => some (encS3 23 c xd xa xb (cls ++ sz.code))
  | .stx c sz xd xa xb cls => some (encS3 24 c xd xa xb (cls ++ sz.code))
  | .hld c sz xd xb cls off => some (encSM 25 c xd xb cls sz off)
  | .hst c sz xd xb cls off => some (encSM 26 c xd xb cls sz off)
  | .tagset c xd xa t => some (encS3 27 c xd xa 0 (0#5 ++ t))
  | .tagchk c xd xa xb m => some (encS3 28 c xd xa xb (0#3 ++ m))
  | .klog c kd ka kb tt => some (encS3 29 c (r3 kd) (r3 ka) (r3 kb) (0#3 ++ tt))
  | .kmov c (.pair kd xa xb) => some (encS3 30 c (r3 kd) xa xb 0)
  | .kmov c (.lo xd ka) => some (encS3 30 c xd (r3 ka) 0 1)
  | .kmov c (.hi xd ka) => some (encS3 30 c xd (r3 ka) 0 2)
  | .kmov c (.first kd xa) => some (encS3 30 c (r3 kd) xa 0 3)
  | .kpop c fn xd ka => some (encS3 31 c xd (r3 ka) 0 fn.code)
  | .semadd c n xa imm => some (encSI 32 c 0 xa 0 (imm ++ n))
  | .semwait c n xa dec chk => some (encSI 33 c 0 xa 0 (0#4 ++ bitOf 1 chk ++ bitOf 1 dec ++ n))
  | .semrd c xd n clr => some (encSI 34 c xd 0 0 (0#5 ++ bitOf 1 clr ++ n))
  | .fence c mask => some (encSI 35 c 0 0 (0#2 ++ fld mask 12 4) (fld mask 0 12))
  | .fenceWait c mask => some (encSI 35 c 1 0 (0#2 ++ fld mask 12 4) (fld mask 0 12))
  | .br c disp => some ⟨slotWord 36 c (fld disp 0 22), fld disp 22 6, none⟩
  | .call c disp => some ⟨slotWord 37 c (fld disp 0 22), fld disp 22 6, none⟩
  | .jmpr c xd xa => some (encS3 38 c xd xa 0 0)
  | .loop c n xa disp => some (encImm 39 c (bitOf 5 n) xa disp)
  | .csrr c xd a => some (encSI 40 c xd 0 0 a)
  | .csrw c a xa => some (encSI 41 c 0 xa 0 a)
  | .csrx c xd a xa => some (encSI 42 c xd xa 0 a)
  | .domWrite c l xa => some (encSI 41 c 0 xa 0 (0x020#12 + (0#10 ++ l.code)))
  | .trap c code => some (encSI 43 c 0 0 (0#2 ++ fld code 12 4) (fld code 0 12))
  | .eret c => some (encS3 44 c 0 0 0 0)
  | .brk c code => some (encSI 45 c 0 0 (0#2 ++ fld code 12 4) (fld code 0 12))
  | .land c n => some (encSI 46 c 0 0 0 (0#7 ++ n))
  | .berthArm c n xa xb => some (encS3 47 c n xa xb 0)
  | .berthTag c n xb => some (encS3 47 c n 0 xb 1)
  | .berthOff c n => some (encS3 47 c n 0 0 2)
  | .tick c fn xd => some (encS3 48 c xd 0 0 fn.code)
  | .waitt c rel xa => some (encS3 49 c 0 xa 0 (bitOf 7 rel))
  | .domarv c l => some (encSI 50 c 0 0 0 (0#10 ++ l.code))
  | .domwait c l => some (encSI 51 c 0 0 0 (0#10 ++ l.code))
  | .spawn c xd xa xb => some (encS3 52 c xd xa xb 0)
  | .exit c => some (encS3 53 c 0 0 0 0)
  | .phaseBegin c => some (encSI 54 c 0 0 0 0)
  | .phaseCommit c => some (encSI 54 c 0 0 0 1)
  | .phaseAbort c => some (encSI 54 c 0 0 0 2)
  | .plswap c => some (encS3 55 c 0 0 0 0)
  | .plswapCancel c => some (encS3 55 c 0 0 0 1)
  | .vadd o => some (encV3 1 o)
  | .vsub o => some (encV3 2 o)
  | .vmul o => some (encV3 3 o)
  | .vfma o => some (encV3 4 o)
  | .vfms o => some (encV3 5 o)
  | .vmin o => some (encV3 6 o)
  | .vmax o => some (encV3 7 o)
  | .vminn o => some (encV3 8 o)
  | .vmaxn o => some (encV3 9 o)
  | .vabs o => some (encV3 10 o)
  | .vneg o => some (encV3 11 o)
  | .vadds o => some (encV3 12 o)
  | .vsubs o => some (encV3 13 o)
  | .vmulh o => some (encV3 14 o)
  | .vclmp o => some (encV3 15 o)
  | .vand o => some (encV3 16 o)
  | .vor o => some (encV3 17 o)
  | .vxor o => some (encV3 18 o)
  | .vshl o => some (encV3 19 o)
  | .vshr o => some (encV3 20 o)
  | .vsar o => some (encV3 21 o)
  | .vshli o => some (encV3 22 o)
  | .vshri o => some (encV3 23 o)
  | .vsari o => some (encV3 24 o)
  | .vaddx o => some (encV3 25 o)
  | .vmulx o => some (encV3 26 o)
  | .vfmax o => some (encV3 27 o)
  | .vbcst o => some (encV3 28 o)
  | .vext o => some (encV3 29 o)
  | .vcmp o => some (encV3 30 o)
  | .vsel o => some (encV3 31 o)
  | .vcvt o => some (encV3 32 o)
  | .vqnt o => some (encV3 33 o)
  | .vdqnt o => some (encV3 34 o)
  | .vpk6 o => some (encV3 35 o)
  | .vupk6 o => some (encV3 36 o)
  | .vpk4 o => some (encV3 37 o)
  | .vupk4 o => some (encV3 38 o)
  | .vl2f o => some (encV3 39 o)
  | .vf2l o => some (encV3 40 o)
  | .vrcp o => some (encV3 41 o)
  | .vrsq o => some (encV3 42 o)
  | .vsqrt o => some (encV3 43 o)
  | .vexp2 o => some (encV3 44 o)
  | .vlog2 o => some (encV3 45 o)
  | .vexp o => some (encV3 46 o)
  | .vln o => some (encV3 47 o)
  | .vsin o => some (encV3 48 o)
  | .vcos o => some (encV3 49 o)
  | .vtanh o => some (encV3 50 o)
  | .vsigm o => some (encV3 51 o)
  | .vgelu o => some (encV3 52 o)
  | .vperm o => some (encV3 53 o)
  | .vshuf o => some (encV3 54 o)
  | .vred o => some (encV3 55 o)
  | .vacr o => some (encV3 62 o)
  | .vacw o => some (encV3 63 o)
  | .vld o => some (encVM 56 o)
  | .vst o => some (encVM 57 o)
  | .vlds o => some (encVM 58 o)
  | .vsts o => some (encVM 59 o)
  | .vgth o => some (encVM 60 o)
  | .vsct o => some (encVM 61 o)
  | .mcfg o => some (encMX 1 o 0 0)
  | .mtbl o t => some (encMX 2 o 0 (bitOf 2 t))
  | .mwld o fix => some (encMX 3 o (bitOf 4 fix) 0)
  | .mwlds o ef => some (encMX 4 o (bitOf 4 ef) 0)
  | .mwswap o => some (encMX 5 o 0 0)
  | .mstrm o z => some (encMX 6 o (bitOf 4 z) 0)
  | .mstrma o z => some (encMX 7 o (bitOf 4 z) 0)
  | .mstrmh o z => some (encMX 8 o (bitOf 4 z) 0)
  | .mdrn o clr => some (encMX 9 o (bitOf 4 clr) 0)
  | .mdrnh o clr => some (encMX 10 o (bitOf 4 clr) 0)
  | .mclr o => some (encMX 11 o 0 0)
  | .mhpsh o => some (encMX 12 o 0 0)
  | .mhcnt o => some (encMX 13 o 0 0)
  | .mgateOn o ret => some (encMX 14 o (0#2 ++ bitOf 1 ret ++ 1#1) 0)
  | .mgateOff o => some (encMX 14 o 0 0)
  | .msave o nr => some (encMX 15 o (bitOf 4 nr) 0)
  | .mrest o nr => some (encMX 16 o (bitOf 4 nr) 0)
  | .mstat o clr => some (encMX 17 o (bitOf 4 clr) 0)
  | .msync o => some (encMX 18 o 0 0)
  | .cpyt o => some (encCP 1 o 0 false)
  | .cpyl o => some (encCP 2 o 0 false)
  | .cpylBerth o => some (encCP 2 o 0 true)
  | .mcast o => some (encCP 3 o 0 false)
  | .gthr o => some (encCP 4 o 0 false)
  | .send o sig => some (encCP 5 o (bitOf 2 sig) false)
  | .sends o => some (encCP 6 o 0 false)
  | .semr o => some (encCP 7 o 0 false)
  | .fwr o => some (encCP 8 o 0 false)
  | .fwrBerth o => some (encCP 8 o 0 true)
  | .ffaa o => some (encCP 9 o 0 false)
  | .fflg o => some (encCP 10 o 0 false)
  | .fflgAdd o => some (encCP 10 o 0 true)
  | .coll o => some (encCP 11 o 0 false)
  | .drg o => some (encCP 12 o 0 false)
  | .migr o => some (encCP 13 o 0 false)
  | .migrRemap o => some (encCP 13 o 0 true)
  | .snap o l => some (encCP 14 o l.code false)
  | .snapSeal o l => some (encCP 14 o l.code true)
  | .trim o => some (encCP 15 o 0 false)
  | .rcf o => some (encCP 16 o 0 false)
  | .cpab o => some (encCP 17 o 0 false)
  | _ => none

/-- The Ctl of a slot instruction. -/
def Instr.ctl? (i : Instr) : Option Ctl :=
  match i with
  | .nop c => some c | .alu c .. => some c | .muldiv c .. => some c | .sel c .. => some c | .addi c .. => some c
  | .andi c .. => some c | .ori c .. => some c | .xori c .. => some c | .shli c .. => some c
  | .shri c .. => some c | .sari c .. => some c | .bfx c .. => some c | .bfxs c .. => some c
  | .bfi c .. => some c | .movi c .. => some c | .movk c .. => some c | .movl c .. => some c
  | .cmp c .. => some c | .cmpi c .. => some c | .plog c .. => some c | .pmov c .. => some c
  | .ld c .. => some c | .st c .. => some c | .ldx c .. => some c | .stx c .. => some c | .hld c .. => some c
  | .hst c .. => some c | .tagset c .. => some c | .tagchk c .. => some c | .klog c .. => some c
  | .kmov c .. => some c | .kpop c .. => some c | .semadd c .. => some c | .semwait c .. => some c
  | .semrd c .. => some c | .fence c .. => some c | .fenceWait c .. => some c | .br c .. => some c
  | .call c .. => some c | .jmpr c .. => some c | .loop c .. => some c | .csrr c .. => some c
  | .csrw c .. => some c | .csrx c .. => some c | .domWrite c .. => some c | .trap c .. => some c
  | .eret c => some c | .brk c .. => some c | .land c .. => some c | .berthArm c .. => some c
  | .berthTag c .. => some c | .berthOff c .. => some c | .tick c .. => some c | .waitt c .. => some c
  | .domarv c .. => some c | .domwait c .. => some c | .spawn c .. => some c | .exit c => some c
  | .phaseBegin c => some c | .phaseCommit c => some c | .phaseAbort c => some c | .plswap c => some c
  | .plswapCancel c => some c | .vadd o => some o.ctl | .vsub o => some o.ctl | .vmul o => some o.ctl
  | .vfma o => some o.ctl | .vfms o => some o.ctl | .vmin o => some o.ctl | .vmax o => some o.ctl
  | .vminn o => some o.ctl | .vmaxn o => some o.ctl | .vabs o => some o.ctl | .vneg o => some o.ctl
  | .vadds o => some o.ctl | .vsubs o => some o.ctl | .vmulh o => some o.ctl | .vclmp o => some o.ctl
  | .vand o => some o.ctl | .vor o => some o.ctl | .vxor o => some o.ctl | .vshl o => some o.ctl
  | .vshr o => some o.ctl | .vsar o => some o.ctl | .vshli o => some o.ctl | .vshri o => some o.ctl
  | .vsari o => some o.ctl | .vaddx o => some o.ctl | .vmulx o => some o.ctl | .vfmax o => some o.ctl
  | .vbcst o => some o.ctl | .vext o => some o.ctl | .vcmp o => some o.ctl | .vsel o => some o.ctl
  | .vcvt o => some o.ctl | .vqnt o => some o.ctl | .vdqnt o => some o.ctl | .vpk6 o => some o.ctl
  | .vupk6 o => some o.ctl | .vpk4 o => some o.ctl | .vupk4 o => some o.ctl | .vl2f o => some o.ctl
  | .vf2l o => some o.ctl | .vrcp o => some o.ctl | .vrsq o => some o.ctl | .vsqrt o => some o.ctl
  | .vexp2 o => some o.ctl | .vlog2 o => some o.ctl | .vexp o => some o.ctl | .vln o => some o.ctl
  | .vsin o => some o.ctl | .vcos o => some o.ctl | .vtanh o => some o.ctl | .vsigm o => some o.ctl
  | .vgelu o => some o.ctl | .vperm o => some o.ctl | .vshuf o => some o.ctl | .vred o => some o.ctl
  | .vacr o => some o.ctl | .vacw o => some o.ctl | .vld o => some o.ctl | .vst o => some o.ctl
  | .vlds o => some o.ctl | .vsts o => some o.ctl | .vgth o => some o.ctl | .vsct o => some o.ctl
  | .mcfg o => some o.ctl | .mtbl o .. => some o.ctl | .mwld o .. => some o.ctl | .mwlds o .. => some o.ctl
  | .mwswap o => some o.ctl | .mstrm o .. => some o.ctl | .mstrma o .. => some o.ctl
  | .mstrmh o .. => some o.ctl | .mdrn o .. => some o.ctl | .mdrnh o .. => some o.ctl | .mclr o => some o.ctl
  | .mhpsh o => some o.ctl | .mhcnt o => some o.ctl | .mgateOn o .. => some o.ctl | .mgateOff o => some o.ctl
  | .msave o .. => some o.ctl | .mrest o .. => some o.ctl | .mstat o .. => some o.ctl | .msync o => some o.ctl
  | .cpyt o => some o.ctl | .cpyl o => some o.ctl | .cpylBerth o => some o.ctl | .mcast o => some o.ctl
  | .gthr o => some o.ctl | .send o .. => some o.ctl | .sends o => some o.ctl | .semr o => some o.ctl
  | .fwr o => some o.ctl | .fwrBerth o => some o.ctl | .ffaa o => some o.ctl | .fflg o => some o.ctl
  | .fflgAdd o => some o.ctl | .coll o => some o.ctl | .drg o => some o.ctl | .migr o => some o.ctl
  | .migrRemap o => some o.ctl | .snap o .. => some o.ctl | .snapSeal o .. => some o.ctl | .trim o => some o.ctl
  | .rcf o => some o.ctl | .cpab o => some o.ctl
  | _ => none

/-- The slot of a slot instruction. -/
def Instr.slot? (i : Instr) : Option Slot := i.ctl?.map Ctl.slot

/-- The operands of a V3 instruction that writes a vector register. -/
def Instr.v3? (i : Instr) : Option V3 :=
  match i with
  | .vadd o => some o | .vsub o => some o | .vmul o => some o | .vfma o => some o | .vfms o => some o
  | .vmin o => some o | .vmax o => some o | .vminn o => some o | .vmaxn o => some o | .vabs o => some o
  | .vneg o => some o | .vadds o => some o | .vsubs o => some o | .vmulh o => some o | .vclmp o => some o
  | .vand o => some o | .vor o => some o | .vxor o => some o | .vshl o => some o | .vshr o => some o
  | .vsar o => some o | .vshli o => some o | .vshri o => some o | .vsari o => some o | .vaddx o => some o
  | .vmulx o => some o | .vfmax o => some o | .vbcst o => some o | .vext o => some o | .vsel o => some o
  | .vcvt o => some o | .vqnt o => some o | .vdqnt o => some o | .vpk6 o => some o | .vupk6 o => some o
  | .vpk4 o => some o | .vupk4 o => some o | .vl2f o => some o | .vf2l o => some o | .vrcp o => some o
  | .vrsq o => some o | .vsqrt o => some o | .vexp2 o => some o | .vlog2 o => some o | .vexp o => some o
  | .vln o => some o | .vsin o => some o | .vcos o => some o | .vtanh o => some o | .vsigm o => some o
  | .vgelu o => some o | .vperm o => some o | .vshuf o => some o | .vred o => some o | .vacr o => some o
  | _ => none

/-- `ext_imm` (R67): lend bits above a field, sign-extended; five lend bits in AD. -/
def extImm (c : Ctl) (lend : BitVec 6) {n : Nat} (f : BitVec n) : BitVec (6 + n) :=
  if c.slot = .ad then (fld lend 0 5 ++ f).signExtend (6 + n) else lend ++ f

/-- Reads format V3 (R73). -/
def decV3 (c : Ctl) (lend : BitVec 6) (w : BitVec 32) : Option V3 :=
  (Slice.ofCode (fld w 18 4)).map fun sl => ⟨c, sl, ETy.ofCode (fld lend 0 3), fld w 13 5, fld w 8 5, fld w 3 5, fld w 0 3⟩
/-- Reads format VM (R73). -/
def decVM (c : Ctl) (lend : BitVec 6) (w : BitVec 32) : Option VM :=
  (Slice.ofCode (fld w 18 4)).map fun sl => ⟨c, sl, fld lend 0 3, fld w 13 5, fld w 8 5, fld w 4 4, fld w 0 3⟩
/-- Reads the MX body (R75). -/
def decMX (c : Ctl) (w : BitVec 32) : MX := ⟨c, fld w 14 8, fld w 9 5, fld w 4 5⟩
/-- Reads the CP body (R76). -/
def decCP (c : Ctl) (lend : BitVec 6) (w : BitVec 32) : CP :=
  ⟨c, fld w 17 5, fld w 12 5, fld w 6 6, fld w 2 4, fld lend 1 2⟩

/-- The instruction a scalar word would be (R77, Table 9), its unused fields not yet examined. -/
def readS (c : Ctl) (lend : BitVec 6) (w : BitVec 32) (lit : Option (BitVec 32)) : Option Instr :=
  let xd : Reg := fld w 17 5
  let xa : Reg := fld w 12 5
  let xb : Reg := fld w 7 5
  let fn : BitVec 7 := fld w 0 7
  let imm : BitVec 12 := fld w 0 12
  let imm18 : BitVec 18 := extImm c lend imm
  let off : BitVec 11 := extImm c lend (fld w 0 5)
  let code16 : BitVec 16 := fld lend 0 4 ++ imm
  match (fld w 26 6).toNat with
  | 0 => some (.nop c)
  | 1 => (AluFn.ofCode fn).map fun f => .alu c f xd xa xb
  | 2 => (MulFn.ofCode fn).map fun f => .muldiv c f xd xa xb
  | 3 => some (.sel c xd (fld w 0 3) xa xb)
  | 4 => some (.addi c xd xa imm18)
  | 5 => some (.andi c xd xa imm18)
  | 6 => some (.ori c xd xa imm18)
  | 7 => some (.xori c xd xa imm18)
  | 8 => some (.shli c (bit w 6) xd xa (fld w 0 6))
  | 9 => some (.shri c (bit w 6) xd xa (fld w 0 6))
  | 10 => some (.sari c (bit w 6) xd xa (fld w 0 6))
  | 11 => some (.bfx c xd xa (fld w 0 6) (fld w 6 6))
  | 12 => some (.bfxs c xd xa (fld w 0 6) (fld w 6 6))
  | 13 => some (.bfi c xd xa (fld w 0 6) (fld w 6 6))
  | 14 => some (.movi c xd imm18)
  | 15 => some (.movk c xd code16 (fld w 12 2))
  | 16 => lit.map fun l => .movl c xd (extImm c lend (imm ++ l))
  | 17 => (Cond.ofCode (fld w 2 4)).bind fun cond => (CmpSize.ofCode (fld w 0 2)).map fun sz =>
      .cmp c cond sz (fld w 19 3) (fld w 16 3) (fld w 11 5) (fld w 6 5)
  | 18 => (Cond.ofCode (fld w 7 4)).map fun cond =>
      .cmpi c cond (fld w 19 3) (fld w 16 3) (fld w 11 5) (extImm c lend (fld w 0 7))
  | 19 => some (.plog c (fld w 17 3) (fld w 12 3) (fld w 7 3) (fld w 0 4))
  | 20 => match fn.toNat with
    | 0 => some (.pmov c (.rd xd)) | 1 => some (.pmov c (.wr xa))
    | 2 => some (.pmov c (.set (fld w 17 3) xa)) | 3 => some (.pmov c (.get xd (fld w 12 3))) | _ => none
  | 21 => (MemSize.ofCode (fld w 5 3)).map fun sz => .ld c sz xd xa (fld w 8 4) off
  | 22 => (MemSize.ofCode (fld w 5 3)).map fun sz => .st c sz xd xa (fld w 8 4) off
  | 23 => (MemSize.ofCode (fld w 0 3)).map fun sz => .ldx c sz xd xa xb (fld w 3 4)
  | 24 => (MemSize.ofCode (fld w 0 3)).map fun sz => .stx c sz xd xa xb (fld w 3 4)
  | 25 => (MemSize.ofCode (fld w 5 3)).map fun sz => .hld c sz xd xa (fld w 8 4) off
  | 26 => (MemSize.ofCode (fld w 5 3)).map fun sz => .hst c sz xd xa (fld w 8 4) off
  | 27 => some (.tagset c xd xa (fld w 0 2))
  | 28 => some (.tagchk c xd xa xb (fld w 0 4))
  | 29 => some (.klog c (fld w 17 3) (fld w 12 3) (fld w 7 3) (fld w 0 4))
  | 30 => match fn.toNat with
    | 0 => some (.kmov c (.pair (fld w 17 3) xa xb)) | 1 => some (.kmov c (.lo xd (fld w 12 3)))
    | 2 => some (.kmov c (.hi xd (fld w 12 3))) | 3 => some (.kmov c (.first (fld w 17 3) xa)) | _ => none
  | 31 => (KpopFn.ofCode fn).map fun f => .kpop c f xd (fld w 12 3)
  | 32 => some (.semadd c (fld w 0 6) xa (fld w 6 6))
  | 33 => some (.semwait c (fld w 0 6) xa (bit w 6) (bit w 7))
  | 34 => some (.semrd c xd (fld w 0 6) (bit w 6))
  | 35 => if bit w 17 then some (.fenceWait c code16) else some (.fence c code16)
  | 36 => some (.br c (lend ++ fld w 0 22))
  | 37 => some (.call c (lend ++ fld w 0 22))
  | 38 => some (.jmpr c xd xa)
  | 39 => some (.loop c (bit w 17) xa imm18)
  | 40 => some (.csrr c xd imm)
  | 41 => match imm.toNat with
    | 0x021 => some (.domWrite c .l1 xa) | 0x022 => some (.domWrite c .l2 xa) | 0x023 => some (.domWrite c .l3 xa)
    | _ => some (.csrw c imm xa)
  | 42 => some (.csrx c xd imm xa)
  | 43 => some (.trap c code16)
  | 44 => some (.eret c)
  | 45 => some (.brk c code16)
  | 46 => some (.land c (fld w 0 5))
  | 47 => match fn.toNat with
    | 0 => some (.berthArm c xd xa xb) | 1 => some (.berthTag c xd xb) | 2 => some (.berthOff c xd) | _ => none
  | 48 => (TickFn.ofCode fn).map fun f => .tick c f xd
  | 49 => some (.waitt c (bit w 0) xa)
  | 50 => (Level.ofCode (fld w 0 2)).map fun l => .domarv c l
  | 51 => (Level.ofCode (fld w 0 2)).map fun l => .domwait c l
  | 52 => some (.spawn c xd xa xb)
  | 53 => some (.exit c)
  | 54 => match (fld w 0 2).toNat with
    | 0 => some (.phaseBegin c) | 1 => some (.phaseCommit c) | 2 => some (.phaseAbort c) | _ => none
  | 55 => if bit w 0 then some (.plswapCancel c) else some (.plswap c)
  | _ => none

/-- The instruction a vector word would be (R79, Table 12). -/
def readV (c : Ctl) (lend : BitVec 6) (w : BitVec 32) : Option Instr :=
  match (fld w 26 6).toNat with
  | 1 => (decV3 c lend w).map .vadd
  | 2 => (decV3 c lend w).map .vsub
  | 3 => (decV3 c lend w).map .vmul
  | 4 => (decV3 c lend w).map .vfma
  | 5 => (decV3 c lend w).map .vfms
  | 6 => (decV3 c lend w).map .vmin
  | 7 => (decV3 c lend w).map .vmax
  | 8 => (decV3 c lend w).map .vminn
  | 9 => (decV3 c lend w).map .vmaxn
  | 10 => (decV3 c lend w).map .vabs
  | 11 => (decV3 c lend w).map .vneg
  | 12 => (decV3 c lend w).map .vadds
  | 13 => (decV3 c lend w).map .vsubs
  | 14 => (decV3 c lend w).map .vmulh
  | 15 => (decV3 c lend w).map .vclmp
  | 16 => (decV3 c lend w).map .vand
  | 17 => (decV3 c lend w).map .vor
  | 18 => (decV3 c lend w).map .vxor
  | 19 => (decV3 c lend w).map .vshl
  | 20 => (decV3 c lend w).map .vshr
  | 21 => (decV3 c lend w).map .vsar
  | 22 => (decV3 c lend w).map .vshli
  | 23 => (decV3 c lend w).map .vshri
  | 24 => (decV3 c lend w).map .vsari
  | 25 => (decV3 c lend w).map .vaddx
  | 26 => (decV3 c lend w).map .vmulx
  | 27 => (decV3 c lend w).map .vfmax
  | 28 => (decV3 c lend w).map .vbcst
  | 29 => (decV3 c lend w).map .vext
  | 30 => (decV3 c lend w).map .vcmp
  | 31 => (decV3 c lend w).map .vsel
  | 32 => (decV3 c lend w).map .vcvt
  | 33 => (decV3 c lend w).map .vqnt
  | 34 => (decV3 c lend w).map .vdqnt
  | 35 => (decV3 c lend w).map .vpk6
  | 36 => (decV3 c lend w).map .vupk6
  | 37 => (decV3 c lend w).map .vpk4
  | 38 => (decV3 c lend w).map .vupk4
  | 39 => (decV3 c lend w).map .vl2f
  | 40 => (decV3 c lend w).map .vf2l
  | 41 => (decV3 c lend w).map .vrcp
  | 42 => (decV3 c lend w).map .vrsq
  | 43 => (decV3 c lend w).map .vsqrt
  | 44 => (decV3 c lend w).map .vexp2
  | 45 => (decV3 c lend w).map .vlog2
  | 46 => (decV3 c lend w).map .vexp
  | 47 => (decV3 c lend w).map .vln
  | 48 => (decV3 c lend w).map .vsin
  | 49 => (decV3 c lend w).map .vcos
  | 50 => (decV3 c lend w).map .vtanh
  | 51 => (decV3 c lend w).map .vsigm
  | 52 => (decV3 c lend w).map .vgelu
  | 53 => (decV3 c lend w).map .vperm
  | 54 => (decV3 c lend w).map .vshuf
  | 55 => (decV3 c lend w).map .vred
  | 62 => (decV3 c lend w).map .vacr
  | 63 => (decV3 c lend w).map .vacw
  | 56 => (decVM c lend w).map .vld
  | 57 => (decVM c lend w).map .vst
  | 58 => (decVM c lend w).map .vlds
  | 59 => (decVM c lend w).map .vsts
  | 60 => (decVM c lend w).map .vgth
  | 61 => (decVM c lend w).map .vsct
  | _ => none

/-- The instruction a matrix word would be (R80, Table 13). -/
def readM (c : Ctl) (lend : BitVec 6) (w : BitVec 32) : Option Instr :=
  let o := decMX c w
  let f := bit w 0
  match (fld w 26 6).toNat with
  | 1 => some (.mcfg o) | 2 => some (.mtbl o (bit lend 0)) | 3 => some (.mwld o f) | 4 => some (.mwlds o f)
  | 5 => some (.mwswap o) | 6 => some (.mstrm o f) | 7 => some (.mstrma o f) | 8 => some (.mstrmh o f)
  | 9 => some (.mdrn o f) | 10 => some (.mdrnh o f) | 11 => some (.mclr o) | 12 => some (.mhpsh o)
  | 13 => some (.mhcnt o) | 14 => some (if f then .mgateOn o (bit w 1) else .mgateOff o) | 15 => some (.msave o f)
  | 16 => some (.mrest o f) | 17 => some (.mstat o f) | 18 => some (.msync o) | _ => none

/-- The command an engine word would be (R80, Table 13; R196). -/
def readE (c : Ctl) (lend : BitVec 6) (w : BitVec 32) : Option Instr :=
  let o := decCP c lend w
  let flag := bit lend 0
  match (fld w 26 6).toNat with
  | 1 => some (.cpyt o) | 2 => some (if flag then .cpylBerth o else .cpyl o) | 3 => some (.mcast o) | 4 => some (.gthr o)
  | 5 => some (.send o (bit w 0)) | 6 => some (.sends o) | 7 => some (.semr o)
  | 8 => some (if flag then .fwrBerth o else .fwr o) | 9 => some (.ffaa o)
  | 10 => some (if flag then .fflgAdd o else .fflg o) | 11 => some (.coll o) | 12 => some (.drg o)
  | 13 => some (if flag then .migrRemap o else .migr o)
  | 14 => (Level.ofCode (fld w 0 2)).map fun l => if flag then .snapSeal o l else .snap o l
  | 15 => some (.trim o) | 16 => some (.rcf o) | 17 => some (.cpab o) | _ => none

/-- The instruction a slot word would be, read in the opcode space of its slot (R68). -/
def readSlot (c : Ctl) (lend : BitVec 6) (w : BitVec 32) (lit : Option (BitVec 32)) : Option Instr :=
  match c.slot with
  | .sc | .ad => readS c lend w lit
  | .va | .vb => readV c lend w
  | .mx => readM c lend w
  | .cp => readE c lend w

/-- Accepts an instruction read from bits only if it is well formed and encodes back to exactly those bits (R66, R71,
R75, R76, R83: an unused field that is not zero, or a reserved value, is no instruction). -/
def acceptSlot (e : SlotEnc) (i : Instr) : Option Instr := if i.wf && encodeSlot i == some e then some i else none

/-- Decodes one slot word; none is an illegal instruction (cause 0x01, Table 10). `lit` is the bundle's literal. -/
def decodeSlot (slot : Slot) (lend : BitVec 6) (w : BitVec 32) (lit : Option (BitVec 32)) : Option Instr :=
  let c : Ctl := ⟨slot, fld w 23 3, bit w 22⟩
  let l := if (slot == .sc || slot == .ad) && (fld w 26 6).toNat == 16 then lit else none
  (readSlot c lend w l).bind (acceptSlot ⟨w, lend, l⟩)

/-- The slots in order (R62). -/
def slotOrder : List Slot := [.sc, .ad, .va, .vb, .mx, .cp]
/-- The presence bit of a slot in the header (R62, Table 1). -/
def Slot.pmBit (s : Slot) : Nat :=
  match s with
  | .sc => 31 | .ad => 30 | .va => 29 | .vb => 28 | .mx => 27 | .cp => 26
/-- The lend bits of a slot in the header, zero-extended to 6 (R62, R66). -/
def lendOf (hdr : BitVec 32) (s : Slot) : BitVec 6 :=
  match s with
  | .sc => fld hdr 16 6 | .ad => 0#1 ++ fld hdr 11 5 | .va => 0#3 ++ fld hdr 8 3 | .vb => 0#3 ++ fld hdr 5 3
  | .mx => 0#4 ++ fld hdr 3 2 | .cp => 0#3 ++ fld hdr 0 3
/-- The header bits that hold a slot's lend bits. -/
def lendBits (s : Slot) (l : BitVec 6) : BitVec 32 :=
  match s with
  | .sc => 0#10 ++ l ++ 0#16 | .ad => 0#16 ++ fld l 0 5 ++ 0#11 | .va => 0#21 ++ fld l 0 3 ++ 0#8
  | .vb => 0#24 ++ fld l 0 3 ++ 0#5 | .mx => 0#27 ++ fld l 0 2 ++ 0#3 | .cp => 0#29 ++ fld l 0 3
/-- Number (CAUSE.SLOT) of a slot (Table 4 of Machine state). -/
def Slot.num (s : Slot) : Nat :=
  match s with
  | .sc => 0 | .ad => 1 | .va => 2 | .vb => 3 | .mx => 4 | .cp => 5
/-- Presence of a slot. -/
def present (hdr : BitVec 32) (s : Slot) : Bool := bit hdr s.pmBit
/-- Number of slot words of a header: popcount of PM (R62). -/
def slotCount (hdr : BitVec 32) : Nat := (slotOrder.filter (present hdr)).length
/-- Number of words of a bundle (R62). -/
def bundleWords (hdr : BitVec 32) : Nat := 1 + slotCount hdr + (if bit hdr 24 then 1 else 0)

/-- A legal bundle: its DP bit, its size in words, and each present slot with its instruction (none: illegal, 0x01). -/
structure Bundle where
  dp : Bool
  words : Nat
  slots : List (Slot × Option Instr)
deriving DecidableEq, Repr

/-- Lane groups of a slice (R73, Table 8). -/
def Slice.groups (s : Slice) : List Nat :=
  match s with
  | .full => [0, 1, 2, 3] | .h0 => [0, 1] | .h2 => [2, 3] | .q n => [n.toNat]

/-- Lane groups named by a vector slot word (R74); none where W and slice are illegal. -/
def laneGroups (w : BitVec 32) : List Nat := ((Slice.ofCode (fld w 18 4)).map Slice.groups).getD []

/-- Pairs each present slot with its word. -/
def slotWords (hdr : BitVec 32) (ws : List (BitVec 32)) : List (Slot × BitVec 32) := (slotOrder.filter (present hdr)).zip ws

/-- The word of a slot, if present. -/
def wordOf (sw : List (Slot × BitVec 32)) (s : Slot) : Option (BitVec 32) := (sw.find? (fun p => p.1 == s)).map (·.2)

/-- Number of MOVL words of a bundle (R65). -/
def movlCount (sw : List (Slot × BitVec 32)) : Nat :=
  (sw.filter (fun p => (p.1 == .sc || p.1 == .ad) && (fld p.2 26 6).toNat == 16)).length

/-- The bundle faults decided from the words alone: reserved header bits, lend bits of an absent slot, a misused literal,
overlapping lane groups (Table 10). -/
def illegalBundle (hdr : BitVec 32) (sw : List (Slot × BitVec 32)) : Bool :=
  !(fld hdr 22 2 == 0#2)
    || slotOrder.any (fun s => !present hdr s && !(lendOf hdr s == 0))
    || !(movlCount sw == (if bit hdr 24 then 1 else 0))
    || (match wordOf sw .va, wordOf sw .vb with
        | some a, some b => (laneGroups a).any (fun g => (laneGroups b).contains g)
        | _, _ => false)

/-- Decodes a bundle from its header and the words after it; none is an illegal bundle (cause 0x02). The conflicts of
R81 depend on a register and are checked when the bundle issues. -/
def decodeBundle (hdr : BitVec 32) (ws : List (BitVec 32)) : Option Bundle :=
  let sw := slotWords hdr ws
  let lit := if bit hdr 24 then ws[slotCount hdr]? else none
  if ws.length < bundleWords hdr - 1 || illegalBundle hdr sw then none
  else some ⟨bit hdr 25, bundleWords hdr, sw.map (fun p => (p.1, decodeSlot p.1 (lendOf hdr p.1) p.2 lit))⟩

/-- Trimmer format TR (R338). -/
def encTR (op : Nat) (d a b : BitVec 4) (fn : BitVec 3) (m : BitVec 4) (imm : BitVec 8) : BitVec 32 :=
  BitVec.ofNat 5 op ++ d ++ a ++ b ++ fn ++ m ++ imm
/-- Trimmer format TM (R338). -/
def encTM (op : Nat) (d : BitVec 4) (cb : BitVec 3) (cf : Bool) (q : BitVec 3) (off : BitVec 16) : BitVec 32 :=
  BitVec.ofNat 5 op ++ d ++ cb ++ bitOf 1 cf ++ q ++ off
/-- A C register in a 4-bit field (R338). -/
def c4 (r : BitVec 3) : BitVec 4 := 0#1 ++ r
/-- Trimmer format TI (R338). -/
def encTI (op : Nat) (d a : BitVec 4) (imm : BitVec 19) : BitVec 32 := BitVec.ofNat 5 op ++ d ++ a ++ imm
/-- Trimmer format TB (R338). -/
def encTB (op : Nat) (cond : BitVec 3) (a : BitVec 3) (t : BitVec 10) : BitVec 32 :=
  BitVec.ofNat 5 op ++ cond ++ 0#1 ++ c4 a ++ 0#9 ++ t
/-- Bit 0 of TMCMP's, TMMIN's and TMMAX's fn. -/
def TmTy.code (t : TmTy) : BitVec 1 := bitOf 1 (t == .x)

/-- The word of a trimmer instruction (R338, R339); none for any other constructor. -/
def encodeTrim (i : Instr) : Option (BitVec 32) :=
  match i with
  | .tmnop => some (encTR 0 0 0 0 0 0 0)
  | .tmld d cb off => some (encTM 1 d cb false 0 off)
  | .tmldC d cb q off => some (encTM 1 (c4 d) cb true q off)
  | .tmst d cb off => some (encTM 2 d cb false 0 off)
  | .tmadd d a b => some (encTR 3 d a b 0 0 0)
  | .tmsub d a b => some (encTR 4 d a b 0 0 0)
  | .tmaddl d a b => some (encTR 5 d a b 0 0 0)
  | .tmshrSqrt d a => some (encTR 6 d a 0 0 0 0)
  | .tmshrRsqrt d a => some (encTR 6 d a 0 1 0 0)
  | .tmshrRcp d a => some (encTR 6 d a 0 2 0 0)
  | .tmcvtL2fLo d a k => some (encTR 7 d a 0 0 0 k)
  | .tmcvtL2fHi d a k => some (encTR 7 d a 0 1 0 k)
  | .tmcvtF2lLo d a k => some (encTR 7 d a 0 2 0 k)
  | .tmcvtF2lHi d a k => some (encTR 7 d a 0 3 0 k)
  | .tmfxAdd d a b => some (encTR 8 d a b 0 0 0)
  | .tmfxSub d a b => some (encTR 8 d a b 1 0 0)
  | .tmfxSar d a n => some (encTR 8 d a 0 2 0 (0#3 ++ n))
  | .tmfxShl d a n => some (encTR 8 d a 0 3 0 (0#3 ++ n))
  | .tmmul d a b => some (encTR 9 d a b 0 0 0)
  | .tmsel d a b m => some (encTR 10 d a b 0 m 0)
  | .tmcmp cond ty d a b => some (encTR 11 d a b (cond.code ++ ty.code) 0 0)
  | .tmmin ty d a b => some (encTR 12 d a b (0#2 ++ ty.code) 0 0)
  | .tmmax ty d a b => some (encTR 13 d a b (0#2 ++ ty.code) 0 0)
  | .tmsgnCopy d a b => some (encTR 14 d a b 0 0 0)
  | .tmsgnXor d a b => some (encTR 14 d a b 1 0 0)
  | .tmsgnAbs d a => some (encTR 14 d a 0 2 0 0)
  | .tmsgnNeg d a => some (encTR 14 d a 0 3 0 0)
  | .tmrnd sr hi d a => some (encTR 15 d a 0 (0#1 ++ bitOf 1 sr ++ bitOf 1 hi) 0 0)
  | .tmaddi d a imm => some (encTI 16 (c4 d) (c4 a) imm)
  | .tmmovi d hi imm => some (encTI 17 (c4 d) 0 (0#2 ++ bitOf 1 hi ++ imm))
  | .tmbr cond a t => some (encTB 18 cond.code a t)
  | .tmloop a t => some (encTB 19 0 a t)
  | .tmend => some (encTR 20 0 0 0 0 0 0)
  | .tmmov d a => some (encTR 21 d a 0 0 0 0)
  | .tmmovBc16 d a => some (encTR 21 d (c4 a) 0 1 0 0)
  | .tmmovBc32 d a => some (encTR 21 d (c4 a) 0 2 0 0)
  | .tmmovGet16 d a j => some (encTR 21 (c4 d) a 0 3 0 (0#4 ++ j))
  | .tmmovGet32 d a j => some (encTR 21 (c4 d) a 0 4 0 (0#5 ++ j))
  | _ => none

/-- The trimmer instruction a word would be (R339, Table 4), its unused fields not yet examined. -/
def readTrim (w : BitVec 32) : Option Instr :=
  let d : BitVec 4 := fld w 23 4
  let a : BitVec 4 := fld w 19 4
  let b : BitVec 4 := fld w 15 4
  let k : BitVec 8 := fld w 0 8
  let n : BitVec 5 := fld w 0 5
  let fn := (fld w 12 3 : BitVec 3).toNat
  let ty : TmTy := if bit w 12 then .x else .l
  match (fld w 27 5).toNat with
  | 0 => some .tmnop
  | 1 => if bit w 19 then some (.tmldC (fld w 23 3) (fld w 20 3) (fld w 16 3) (fld w 0 16))
         else some (.tmld d (fld w 20 3) (fld w 0 16))
  | 2 => some (.tmst d (fld w 20 3) (fld w 0 16))
  | 3 => some (.tmadd d a b) | 4 => some (.tmsub d a b) | 5 => some (.tmaddl d a b)
  | 6 => match fn with
    | 0 => some (.tmshrSqrt d a) | 1 => some (.tmshrRsqrt d a) | 2 => some (.tmshrRcp d a) | _ => none
  | 7 => match fn with
    | 0 => some (.tmcvtL2fLo d a k) | 1 => some (.tmcvtL2fHi d a k) | 2 => some (.tmcvtF2lLo d a k)
    | 3 => some (.tmcvtF2lHi d a k) | _ => none
  | 8 => match fn with
    | 0 => some (.tmfxAdd d a b) | 1 => some (.tmfxSub d a b) | 2 => some (.tmfxSar d a n) | 3 => some (.tmfxShl d a n)
    | _ => none
  | 9 => some (.tmmul d a b)
  | 10 => some (.tmsel d a b (fld w 8 4))
  | 11 => (TmCond.ofCode (fld w 13 2)).map fun cond => .tmcmp cond ty d a b
  | 12 => some (.tmmin ty d a b)
  | 13 => some (.tmmax ty d a b)
  | 14 => match fn with
    | 0 => some (.tmsgnCopy d a b) | 1 => some (.tmsgnXor d a b) | 2 => some (.tmsgnAbs d a) | 3 => some (.tmsgnNeg d a)
    | _ => none
  | 15 => some (.tmrnd (bit w 13) (bit w 12) d a)
  | 16 => some (.tmaddi (fld w 23 3) (fld w 19 3) (fld w 0 19))
  | 17 => some (.tmmovi (fld w 23 3) (bit w 16) (fld w 0 16))
  | 18 => (TmBrCond.ofCode (fld w 24 3)).map fun cond => .tmbr cond (fld w 19 3) (fld w 0 10)
  | 19 => some (.tmloop (fld w 19 3) (fld w 0 10))
  | 20 => some .tmend
  | 21 => match fn with
    | 0 => some (.tmmov d a) | 1 => some (.tmmovBc16 d (fld w 19 3)) | 2 => some (.tmmovBc32 d (fld w 19 3))
    | 3 => some (.tmmovGet16 (fld w 23 3) a (fld w 0 4)) | 4 => some (.tmmovGet32 (fld w 23 3) a (fld w 0 3)) | _ => none
  | _ => none

/-- Accepts a trimmer instruction only if it is well formed and encodes back to the word (R339). -/
def acceptTrim (w : BitVec 32) (i : Instr) : Option Instr := if i.wf && encodeTrim i == some w then some i else none

/-- Decodes a trimmer word; none is no instruction (R339). -/
def decodeTrim (w : BitVec 32) : Option Instr := (readTrim w).bind (acceptTrim w)

/-- A branch target of a trimmer instruction must lie below PLEN (R339). -/
def trimTargetOk (plen : Nat) (i : Instr) : Bool :=
  match i with
  | .tmbr _ _ t => decide (t.toNat < plen)
  | .tmloop _ t => decide (t.toNat < plen)
  | _ => true

/-- The words of a well-formed instruction: a slot instruction alone in its bundle (header, slot word, literal), the
header-only bundle, or one trimmer word; events and messages have none. -/
def encode (i : Instr) : List (BitVec 32) :=
  match i with
  | .headerOnlyBundle dp => [0#6 ++ bitOf 1 dp ++ 0#25]
  | i =>
    match encodeTrim i with
    | some w => [w]
    | none =>
      match encodeSlot i, i.slot? with
      | some e, some s =>
        let pm := BitVec.ofNat 32 (2 ^ s.pmBit) ||| lendBits s e.lend
        match e.lit with
        | none => [pm, e.word]
        | some l => [pm ||| (0x01000000#32), e.word, l]
      | _, _ => []

/-- Reads a little-endian 32-bit word of a byte list (R6), with the rest; none when fewer than four bytes are left. -/
def takeWord (bs : List Byte) : Option (BitVec 32 × List Byte) :=
  match bs with
  | b0 :: b1 :: b2 :: b3 :: rest => some (b3 ++ b2 ++ b1 ++ b0, rest)
  | _ => none

/-- Reads `n` words. -/
def takeWords (n : Nat) (bs : List Byte) : Option (List (BitVec 32) × List Byte) :=
  match n with
  | 0 => some ([], bs)
  | k + 1 => (takeWord bs).bind fun p => (takeWords k p.2).map fun q => (p.1 :: q.1, q.2)

/-- Decodes a bundle from bytes, with the bytes after it; none is an illegal bundle or too few bytes. -/
def decodeBytes (bs : List Byte) : Option (Bundle × List Byte) :=
  (takeWord bs).bind fun p => (takeWords (bundleWords p.1 - 1) p.2).bind fun q =>
    (decodeBundle p.1 q.1).map fun b => (b, q.2)

/-- A single-instruction bundle's instruction: the first slot, or the header-only bundle. -/
def Bundle.first (b : Bundle) : Option Instr :=
  match b.slots with
  | [] => some (.headerOnlyBundle b.dp)
  | (_, i) :: _ => i

/-- The instruction whose bits are `w`: a 32-bit word is a trimmer word (R338), anything longer a bundle whose header is
the first word (R62). -/
def decodeTableWord (nbits w : Nat) : Option Instr :=
  if nbits ≤ 32 then decodeTrim (BitVec.ofNat 32 w)
  else
    let hdr := BitVec.ofNat 32 w
    let ws := (List.range 7).map (fun k => BitVec.ofNat 32 (w >>> (32 * (k + 1))))
    (decodeBundle hdr ws).bind Bundle.first

/-- A register, granule or row named as a destination (R81). -/
inductive Dest where
  | x (n : Reg) | p (n : BitVec 3) | k (n : BitVec 3) | v (n : Reg) (groups : List Nat) | row (n : Nat)
deriving DecidableEq, Repr

/-- Two destinations that R81 calls the same; X0, P0 and K0 are exempt. -/
def Dest.clash (a b : Dest) : Bool :=
  match a, b with
  | .x m, .x n => m == n && !(m == 0)
  | .p m, .p n => m == n && !(m == 0)
  | .k m, .k n => m == n && !(m == 0)
  | .v m gs, .v n hs => m == n && gs.any (fun g => hs.contains g)
  | .row m, .row n => m == n
  | _, _ => false

/-- Accumulator rows A(n + i) mod 256, i = 0..N - 1, with N = count[7:0] + 1 (R81). -/
def rowRange (acc : BitVec 8) (count : BitVec 8) : List Dest :=
  (List.range (count.toNat + 1)).map (fun i => Dest.row ((acc.toNat + i) % 256))

/-- The destinations an instruction names (R81). `count` is the low byte of the count register of an MX slot. -/
def Instr.dests (i : Instr) (count : BitVec 8) : List Dest :=
  match i with
  | .alu _ _ xd _ _ => [.x xd] | .muldiv _ _ xd _ _ => [.x xd] | .sel _ xd _ _ _ => [.x xd]
  | .addi _ xd _ _ => [.x xd] | .andi _ xd _ _ => [.x xd] | .ori _ xd _ _ => [.x xd] | .xori _ xd _ _ => [.x xd]
  | .shli _ _ xd _ _ => [.x xd] | .shri _ _ xd _ _ => [.x xd] | .sari _ _ xd _ _ => [.x xd]
  | .bfx _ xd _ _ _ => [.x xd] | .bfxs _ xd _ _ _ => [.x xd] | .bfi _ xd _ _ _ => [.x xd]
  | .movi _ xd _ => [.x xd] | .movk _ xd _ _ => [.x xd] | .movl _ xd _ => [.x xd]
  | .cmp _ _ _ pt pf _ _ => [.p pt, .p pf] | .cmpi _ _ pt pf _ _ => [.p pt, .p pf]
  | .plog _ pd _ _ _ => [.p pd]
  | .pmov _ (.rd xd) => [.x xd] | .pmov _ (.wr _) => [.p 1, .p 2, .p 3, .p 4, .p 5, .p 6, .p 7]
  | .pmov _ (.set pd _) => [.p pd] | .pmov _ (.get xd _) => [.x xd]
  | .ld _ _ xd _ _ _ => [.x xd] | .ldx _ _ xd _ _ _ => [.x xd] | .hld _ _ xd _ _ _ => [.x xd]
  | .tagset _ xd _ _ => [.x xd] | .tagchk _ xd _ _ _ => [.x xd]
  | .klog _ kd _ _ _ => [.k kd]
  | .kmov _ (.pair kd _ _) => [.k kd] | .kmov _ (.lo xd _) => [.x xd] | .kmov _ (.hi xd _) => [.x xd]
  | .kmov _ (.first kd _) => [.k kd]
  | .kpop _ _ xd _ => [.x xd] | .semrd _ xd _ _ => [.x xd]
  | .call _ _ => [.x 31] | .jmpr _ xd _ => [.x xd] | .csrr _ xd _ => [.x xd] | .csrx _ xd _ _ => [.x xd]
  | .tick _ _ xd => [.x xd]
  | .vcmp o => [.k (fld o.vd 0 3)]
  | .vacw o => [.row ((fld o.vb 0 3 ++ o.va : BitVec 8).toNat)]
  | .mstrm o _ => rowRange o.acc count | .mstrma o _ => rowRange o.acc count | .mstrmh o _ => rowRange o.acc count
  | .mclr o => rowRange o.acc count
  | .mdrn o clr => if clr then rowRange o.acc count else []
  | .mdrnh o clr => if clr then rowRange o.acc count else []
  | .mrest o nr => if nr then [] else rowRange o.acc count
  | .mhcnt o => [.x o.xa] | .mstat o _ => [.x o.xa]
  | .vld o => [.v o.vd o.sl.groups] | .vlds o => [.v o.vd o.sl.groups] | .vgth o => [.v o.vd o.sl.groups]
  | i =>
    match i.v3? with
    | some o => [.v o.vd o.sl.groups]
    | none => []

/-- Whether two of a list of destination lists clash. -/
def clashing (ds : List (List Dest)) : Bool :=
  match ds with
  | [] => false
  | d :: rest => rest.any (fun e => d.any (fun a => e.any (fun b => a.clash b))) || clashing rest

/-- R81 over the slots of a bundle; an illegal slot names no destination. -/
def Bundle.conflict (b : Bundle) (count : BitVec 8) : Bool :=
  clashing (b.slots.map (fun p => match p.2 with | some i => i.dests count | none => []))

end Sys2Proof
end

