-- ==== Sys2Proof/Machine/Mem.lean ====
section
/-! DEFINITION. Sparse memories in one canonical form: addresses strictly rising, nothing listed that equals what an
unlisted address reads as. Every memory of the part is cleared by reset (R27, R414), so an unlisted byte reads 0. -/
namespace Sys2Proof.Machine
open Sys2Proof

/-- A sparse map from Nat keys, in ascending key order, listing no entry equal to the default. -/
abbrev SMap (α : Type) := List (Nat × α)

/-- The value at a key, `d` where nothing is listed. -/
def SMap.get {α : Type} (d : α) (m : SMap α) (k : Nat) : α :=
  match m with
  | [] => d
  | (a, v) :: rest => if a = k then v else if k < a then d else SMap.get d rest k

/-- Writes `v` at `k`, keeping the canonical form. -/
def SMap.set {α : Type} [DecidableEq α] (d : α) (m : SMap α) (k : Nat) (v : α) : SMap α :=
  match m with
  | [] => if v = d then [] else [(k, v)]
  | (a, w) :: rest =>
    if k < a then (if v = d then (a, w) :: rest else (k, v) :: (a, w) :: rest)
    else if a = k then (if v = d then rest else (k, v) :: rest)
    else (a, w) :: SMap.set d rest k v

/-- The canonical form: keys strictly rising from `lo` on and no listed default. -/
def SMap.wfFrom {α : Type} [DecidableEq α] (d : α) (lo : Nat) (m : SMap α) : Bool :=
  match m with
  | [] => true
  | (a, v) :: rest => decide (lo ≤ a) && decide (v ≠ d) && SMap.wfFrom d (a + 1) rest

/-- The canonical form of a sparse map. -/
def SMap.wf {α : Type} [DecidableEq α] (d : α) (m : SMap α) : Bool := SMap.wfFrom d 0 m

/-- Byte memory: address and byte pairs in canonical form; an unlisted byte reads 0 (R27, R414). -/
abbrev Memory := List Host.Cell

/-- What an unlisted address reads as: reset clears every memory to zero (R27, R414). -/
def Memory.unlisted : Byte := 0#8

/-- Reads one byte. -/
def Memory.read (m : Memory) (a : Nat) : Byte := SMap.get Memory.unlisted m a

/-- Writes one byte. -/
def Memory.write (m : Memory) (a : Nat) (b : Byte) : Memory := SMap.set Memory.unlisted m a b

/-- The canonical form of a memory. -/
def Memory.wf (m : Memory) : Bool := SMap.wf Memory.unlisted m

/-- Drops every listed byte below `a`. -/
def Memory.from (m : Memory) (a : Nat) : Memory :=
  match m with
  | [] => []
  | (k, v) :: rest => if k < a then Memory.from rest a else (k, v) :: rest

/-- Reads `n` bytes in ascending address order from a memory whose first listed byte may lie at `a` or later. -/
def Memory.take (m : Memory) (a : Nat) : Nat → List Byte
  | 0 => []
  | n + 1 =>
    match m with
    | [] => List.replicate (n + 1) Memory.unlisted
    | (k, v) :: rest => if k = a then v :: Memory.take rest (a + 1) n else Memory.unlisted :: Memory.take ((k, v) :: rest) (a + 1) n

/-- Reads `n` bytes in ascending address order. -/
def Memory.readRun (m : Memory) (a n : Nat) : List Byte := Memory.take (Memory.from m a) a n

/-- The cells of a run of bytes at `a`, zero bytes left out. -/
def Memory.cells (a : Nat) : List Byte → Memory
  | [] => []
  | b :: rest => if b = Memory.unlisted then Memory.cells (a + 1) rest else (a, b) :: Memory.cells (a + 1) rest

/-- Writes a run of bytes at `a` in ascending address order. -/
def Memory.writeRun (m : Memory) (a : Nat) (bs : List Byte) : Memory :=
  m.takeWhile (fun c => c.1 < a) ++ (Memory.cells a bs ++ Memory.from m (a + bs.length))

/-- A memory with the poison state of its 32-byte granules (R27, R276): `bad` lists the poisoned granules, rising. -/
structure PMem where
  cells : Memory
  bad : List Nat
deriving DecidableEq, Repr

/-- A cleared memory (R27). -/
def PMem.empty : PMem := ⟨[], []⟩

/-- Inserts a granule number into a rising list. -/
def insertNat (g : Nat) : List Nat → List Nat
  | [] => [g]
  | a :: rest => if g < a then g :: a :: rest else if a = g then a :: rest else a :: insertNat g rest

/-- The poison of a granule. -/
def PMem.poisoned (m : PMem) (g : Nat) : Bool := m.bad.contains g

/-- Sets or clears the poison of a granule (R276). -/
def PMem.setPoison (m : PMem) (g : Nat) (b : Bool) : PMem :=
  { m with bad := if b then insertNat g m.bad else m.bad.filter (fun a => a ≠ g) }

/-- One byte of a memory. -/
def PMem.read (m : PMem) (a : Nat) : Byte := m.cells.read a

/-- A little-endian number of a list of bytes (R6). -/
def leNat : List Byte → Nat
  | [] => 0
  | b :: rest => b.toNat + 256 * leNat rest

/-- The `n` low bytes of a number, little-endian (R6). -/
def bytesOf (v : Nat) : Nat → List Byte
  | 0 => []
  | n + 1 => BitVec.ofNat 8 v :: bytesOf (v / 256) n

/-- Reads an `n`-byte little-endian number (R6). -/
def PMem.readNat (m : PMem) (a n : Nat) : Nat := leNat (m.cells.readRun a n)

/-- Writes bytes, leaving poison as it is. -/
def PMem.writeBytes (m : PMem) (a : Nat) (bs : List Byte) : PMem := { m with cells := m.cells.writeRun a bs }

/-- Reads granule `g` as bits. -/
def PMem.gran (m : PMem) (g : Nat) : Gran := BitVec.ofNat 256 (m.readNat (32 * g) 32)

/-- Writes a whole granule with its poison (R276). -/
def PMem.writeGran (m : PMem) (g : Nat) (v : Gran) (bad : Bool) : PMem :=
  (m.writeBytes (32 * g) (bytesOf v.toNat 32)).setPoison g bad

/-- The canonical form of a memory with its poison list. -/
def PMem.wf (m : PMem) : Bool := m.cells.wf && m.bad.Pairwise (· < ·)

end Sys2Proof.Machine
end

