-- ==== Sys2Proof/Machine/Identity.lean ====
section
/-! DEFINITION. The package's identity, its keys and the endorsement of its per-boot key (R399-R401), and the verification of an image (R402). -/
namespace Sys2Proof.Machine
open Sys2Proof

/-- A field of a run of bytes: its number. -/
def imageField (m : List Byte) (o n : Nat) : Nat := leNat ((m.drop o).take n)
/-- A digest as bytes. -/
def digestBytes (d : BitVec 384) : List Byte := bytesOf d.toNat 48
/-- Exactly n bytes, cut or filled with zeros. -/
def fitTo (n : Nat) (bs : List Byte) : List Byte := (bs ++ List.replicate n 0).take n

-- Images (R402, Table 4) ----------------------------------------------------------------------------------------------

/-- The body of an image, after its header of 2,048 bytes. -/
def imageBody (m : List Byte) : List Byte := m.drop 2048
/-- The vendor ECDSA key at the start of a body. -/
def vendorEcdsa (m : List Byte) : List Byte := (imageBody m).take 96
/-- The vendor LMS key after it. -/
def vendorLms (m : List Byte) : List Byte := ((imageBody m).drop 96).take 56
/-- The largest body of an image of each kind. -/
def imageLimit (kind : Nat) : Nat := match kind with | 1 => 229376 | 2 => 67108864 | _ => 65536

/-- Whether an image of a kind is accepted (R402): identifier, kind, length, digests and both signatures. -/
def imageOk (kind : Nat) (m : List Byte) : Bool :=
  let head := m.take 64
  imageField m 0 4 == 0x48494D47 && imageField m 4 2 == kind && decide (imageField m 12 4 ≤ imageLimit kind)
    && (imageBody m).length == imageField m 12 4
    && (m.drop 16).take 48 == digestBytes (Config.sha384 (imageBody m))
    && Config.sha384 (vendorEcdsa m) == Config.romDigests.1 && Config.sha384 (vendorLms m) == Config.romDigests.2
    && Config.ecdsaOk (vendorEcdsa m) head ((m.drop 64).take 96) && Config.lmsVerify (vendorLms m) head ((m.drop 160).take 1772)

/-- The security version of an image. -/
def imageVersion (m : List Byte) : BitVec 32 := BitVec.ofNat 32 (imageField m 8 4)

/-- The digest h of the harbourmaster image and that of the management image (R399, R408), 48 bytes each. -/
def imageDigests : List Byte × List Byte := (digestBytes (Config.sha384 Config.harbourImage), digestBytes (Config.sha384 Config.managementImage))
/-- Security versions of the two images (R402, R408). -/
def securityVersions : BitVec 32 × BitVec 32 := (imageVersion Config.harbourImage, imageVersion Config.managementImage)

-- Keys (R399, Table 2) ------------------------------------------------------------------------------------------------

/-- The unique device secret. -/
def uds : List Byte := Config.puf Config.pufHelper
/-- The compound device identifier. -/
def deviceCdi : List Byte := Config.hmac uds imageDigests.1
/-- The DeviceID key's secret. -/
def deviceSecret : List Byte := Config.hkdf uds [] [0x44, 0x45, 0x56, 0x49, 0x44] 48
/-- Seed and identifier of the device LMS key. -/
def deviceLmsSeed : List Byte := Config.hkdf uds [] [0x44, 0x45, 0x56, 0x4C, 0x4D, 0x53] 48
/-- The alias key's secret. -/
def aliasSecret : List Byte := Config.hkdf deviceCdi [] [0x41, 0x4C, 0x49, 0x41, 0x53] 48
/-- The DeviceID public key, x then y. -/
def deviceKey : List Byte := fitTo 96 (Config.ecdsaPublic deviceSecret)
/-- The alias public key, x then y. -/
def aliasKey : List Byte := fitTo 96 (Config.ecdsaPublic aliasSecret)
/-- The package identity: SHA-384 of the DeviceID public key (R399), 48 bytes. -/
def packageIdentity : List Byte := digestBytes (Config.sha384 deviceKey)
/-- A signature by the alias key. -/
def aliasSign (m : List Byte) : List Byte := Config.ecdsaSign aliasSecret m

-- The endorsement block (R401, Table 3) -------------------------------------------------------------------------------

/-- Bytes 0 to 63 of the block of a tree, by the number of trees made before it and its serial in this boot: its public key, its serial, zeros. -/
def endorsedKey (made serial : Nat) : List Byte := fitTo 56 (Config.bootLmsKey made) ++ bytesOf serial 4 ++ List.replicate 4 0

/-- The endorsement block of a per-boot tree under a leaf of the device LMS key; without one it carries ECDSA signatures only (R400). -/
def endorsement (made serial : Nat) (leaf : Option Nat) : List Byte :=
  let head := endorsedKey made serial
  head ++ aliasKey ++ deviceKey ++ fitTo 96 (Config.ecdsaSign deviceSecret (aliasKey ++ imageDigests.1)) ++ fitTo 96 (aliasSign head)
    ++ (match leaf with | some n => fitTo 1772 (Config.lmsSignAt deviceLmsSeed n head) | none => List.replicate 1772 0)

end Sys2Proof.Machine
end

