-- ==== Sys2Proof/Machine/Num.lean ====
section
/-! DEFINITION. Number formats and log-domain arithmetic (R33-R61): exact values, their rounding to float, integer, log
and E-form outputs, block scales and packing. Every helper is exact integer arithmetic. -/
namespace Sys2Proof.Machine
open Sys2Proof

/-- An exact value: a dyadic rational (-1)^neg · m · 2^e, a power (-1)^neg · 2^(k/1024), an infinity, or no number (NaN or
NaR). -/
inductive XVal where
  | fin (neg : Bool) (m : Nat) (e : Int)
  | lg (neg : Bool) (k : Int)
  | inf (neg : Bool)
  | nan
deriving DecidableEq, Repr

/-- Rounding to the nearest integer, ties to the even integer, of n / d. -/
def rneDiv (n : Int) (d : Nat) : Int :=
  let q := n.fdiv d
  let r := n.fmod d
  if 2 * r > (d : Int) || (2 * r == (d : Int) && q.fmod 2 == 1) then q + 1 else q

/-- Newton's iteration for the integer square root; `x` starts above the root. -/
def isqrtIter (n : Nat) : Nat → Nat → Nat
  | 0, x => x
  | fuel + 1, x => let y := (x + n / x) / 2; if y < x then isqrtIter n fuel y else x

/-- floor(sqrt n). -/
def isqrt (n : Nat) : Nat := if n = 0 then 0 else isqrtIter n 128 (2 ^ (Nat.log2 n / 2 + 1))

/-- floor(n^(1/2^j)): the floor of a root of a root is the root of the floor. -/
def iroot2 (n : Nat) : Nat → Nat
  | 0 => n
  | j + 1 => iroot2 (isqrt n) j

/-- floor(2^64 · 2^(f/1024)). -/
def pow2Frac (f : Nat) : Nat := iroot2 (2 ^ (f + 65536)) 10

/-- A dyadic number that rounds like 2^(k/1024) to every grid of at most 60 significant bits: exact for whole octaves,
else the middle of an interval of width 2^-64 that holds the value and no number of such a grid. -/
def lgDyadic (k : Int) : Nat × Int :=
  let f := (k.fmod 1024).toNat
  if f = 0 then (1, k.fdiv 1024) else (2 * pow2Frac f + 1, k.fdiv 1024 - 65)

/-- floor(log2 m) + e for a non-zero dyadic. -/
def topExp (m : Nat) (e : Int) : Int := (Nat.log2 m : Int) + e

/-- nearest(2^q · log2 m) for m > 0 (R45): never a tie, for log2 m is rational only when m is a power of two. -/
def nearestLog2 (q m : Nat) : Int := (((Nat.log2 (m ^ 2 ^ (q + 1)) + 1) / 2 : Nat) : Int)

/-- nearest_even(2^q · (log2|v| - s)) of a non-zero value, s in octaves (R54). -/
def roundLog2 (q : Nat) (v : XVal) (s : Int) : Int :=
  match v with
  | .fin _ m e => nearestLog2 q m + (e - s) * (2 ^ q : Nat)
  | .lg _ k => rneDiv ((k - 1024 * s) * (2 ^ q : Nat)) 1024
  | _ => 0

/-- floor(log2|v|) of a non-zero value (R55). -/
def floorLog2 (v : XVal) : Int :=
  match v with
  | .fin _ m e => topExp m e
  | .lg _ k => k.fdiv 1024
  | _ => 0

/-- Whether a value is a zero. -/
def XVal.isZero (v : XVal) : Bool :=
  match v with
  | .fin _ m _ => m == 0
  | _ => false

/-- Whether a value is finite and not zero. -/
def XVal.qualifies (v : XVal) : Bool :=
  match v with
  | .fin _ m _ => m != 0
  | .lg _ _ => true
  | _ => false

/-- The sign of a value. -/
def XVal.neg (v : XVal) : Bool :=
  match v with
  | .fin n _ _ => n | .lg n _ => n | .inf n => n | .nan => false

/-- The value with its sign replaced. -/
def XVal.withSign (v : XVal) (n : Bool) : XVal :=
  match v with
  | .fin _ m e => .fin n m e | .lg _ k => .lg n k | .inf _ => .inf n | .nan => .nan

/-- A dyadic that rounds like the value (`lgDyadic`). -/
def XVal.dyadic (v : XVal) : Nat × Int :=
  match v with
  | .fin _ m e => (m, e)
  | .lg _ k => lgDyadic k
  | _ => (0, 0)

/-- Compares |a·2^x| with |b·2^y|. -/
def dyCmp (a : Nat) (x : Int) (b : Nat) (y : Int) : Ordering :=
  if x ≤ y then compare a (b * 2 ^ (y - x).toNat) else compare (a * 2 ^ (x - y).toNat) b

/-- Whether |a| ≤ |b| for two values that both are dyadic or both are powers (the elements of one block, R55). -/
def XVal.magLe (a b : XVal) : Bool :=
  match a, b with
  | .lg _ j, .lg _ k => decide (j ≤ k)
  | .fin _ 0 _, _ => true
  | _, .fin _ 0 _ => false
  | a, b =>
    let p := a.dyadic
    let q := b.dyadic
    if topExp p.1 p.2 < topExp q.1 q.2 then true
    else if topExp q.1 q.2 < topExp p.1 p.2 then false
    else dyCmp p.1 p.2 q.1 q.2 != .gt

/-- Multiplies by 2^s. -/
def XVal.scale (v : XVal) (s : Int) : XVal :=
  match v with
  | .fin n m e => .fin n m (e + s) | .lg n k => .lg n (k + 1024 * s) | v => v

-- Binary float formats -----------------------------------------------------------------------------------------------

/-- A binary float format: exponent and fraction widths, bias 2^(eb-1) - 1 (R42, R43). -/
structure FFmt where
  eb : Nat
  mb : Nat
deriving DecidableEq, Repr

/-- binary32. -/
def fp32 : FFmt := ⟨8, 23⟩
/-- BF16. -/
def bf16 : FFmt := ⟨8, 7⟩
/-- binary16. -/
def fp16 : FFmt := ⟨5, 10⟩
/-- The exponent bias. -/
def FFmt.bias (f : FFmt) : Int := (2 ^ (f.eb - 1) : Nat) - 1
/-- The least normal exponent. -/
def FFmt.emin (f : FFmt) : Int := 1 - f.bias
/-- The width in bits. -/
def FFmt.width (f : FFmt) : Nat := 1 + f.eb + f.mb
/-- The largest exponent field. -/
def FFmt.expMax (f : FFmt) : Nat := 2 ^ f.eb - 1
/-- The canonical quiet NaN (R42). -/
def FFmt.qnan (f : FFmt) : Nat := f.expMax * 2 ^ f.mb + 2 ^ (f.mb - 1)
/-- An infinity's bits. -/
def FFmt.infBits (f : FFmt) (neg : Bool) : Nat := (if neg then 2 ^ (f.eb + f.mb) else 0) + f.expMax * 2 ^ f.mb
/-- The largest finite magnitude's bits, with a sign. -/
def FFmt.maxBits (f : FFmt) (neg : Bool) : Nat := f.infBits neg - 1
/-- A zero's bits. -/
def FFmt.zeroBits (f : FFmt) (neg : Bool) : Nat := if neg then 2 ^ (f.eb + f.mb) else 0

/-- The value of a pattern of an IEEE format (R42). -/
def FFmt.decode (f : FFmt) (x : Nat) : XVal :=
  let fr := x % 2 ^ f.mb
  let ex := x / 2 ^ f.mb % 2 ^ f.eb
  let neg := x / 2 ^ (f.eb + f.mb) % 2 = 1
  if ex = f.expMax then (if fr = 0 then .inf neg else .nan)
  else if ex = 0 then .fin neg fr (f.emin - f.mb)
  else .fin neg (2 ^ f.mb + fr) ((ex : Int) - f.bias - f.mb)

/-- Whether a pattern is a signalling NaN. -/
def FFmt.snan (f : FFmt) (x : Nat) : Bool :=
  let fr := x % 2 ^ f.mb
  x / 2 ^ f.mb % 2 ^ f.eb == f.expMax && fr != 0 && fr < 2 ^ (f.mb - 1)

/-- Whether a pattern is subnormal. -/
def FFmt.subnormal (f : FFmt) (x : Nat) : Bool := x / 2 ^ f.mb % 2 ^ f.eb == 0 && x % 2 ^ f.mb != 0

/-- Rounding modes of FPMODE.RM (R139): nearest even, toward zero, toward +infinity, toward -infinity. -/
inductive RMode where
  | rne | rz | rup | rdn
deriving DecidableEq, Repr

/-- Whether a magnitude with integer part `n`, remainder `r` of `d` rounds up. -/
def roundsUp (rm : RMode) (neg : Bool) (n r d : Nat) : Bool :=
  match rm with
  | .rne => decide (2 * r > d) || (2 * r == d && n % 2 == 1)
  | .rz => false
  | .rup => !neg && r != 0
  | .rdn => neg && r != 0

/-- A rounded float: bits and the exceptions of the rounding. -/
structure Rounded where
  bits : Nat
  nx : Bool
  uf : Bool
  of : Bool
deriving DecidableEq, Repr

/-- m·2^e measured in units of 2^q: integer part, remainder and its denominator. -/
def inUnits (m : Nat) (e q : Int) : Nat × Nat × Nat :=
  if q ≤ e then (m * 2 ^ (e - q).toNat, 0, 1)
  else let d := 2 ^ (q - e).toNat; (m / d, m % d, d)

/-- The exponent of the unit in the last place of a magnitude with top exponent `t`. -/
def FFmt.ulp (f : FFmt) (t : Int) : Int := max t f.emin - f.mb

/-- Assembles sign and magnitude n·2^q, n at most 2^(mb+1), as bits; infinity when the exponent is too large. -/
def FFmt.pack (f : FFmt) (neg : Bool) (n : Nat) (q : Int) : Nat × Bool :=
  let s := f.zeroBits neg
  let (n, q) := if n = 2 ^ (f.mb + 1) then (2 ^ f.mb, q + 1) else (n, q)
  if n < 2 ^ f.mb then (s + n, false)
  else
    let ex := q + f.mb + f.bias
    if ex ≥ (f.expMax : Int) then (f.infBits neg, true) else (s + ex.toNat * 2 ^ f.mb + (n - 2 ^ f.mb), false)

/-- What an overflow gives under a rounding mode. -/
def FFmt.overflow (f : FFmt) (rm : RMode) (neg : Bool) : Nat :=
  match rm with
  | .rne => f.infBits neg
  | .rz => f.maxBits neg
  | .rup => if neg then f.maxBits neg else f.infBits neg
  | .rdn => if neg then f.infBits neg else f.maxBits neg

/-- Whether m·2^e, rounded to the format's precision without bound on the exponent, lies below the least normal number
(tininess after rounding, R140). -/
def FFmt.tiny (f : FFmt) (rm : RMode) (neg : Bool) (m : Nat) (e : Int) : Bool :=
  let t := topExp m e
  if t ≥ f.emin then false
  else if t < f.emin - 1 then true
  else
    let u := inUnits m e (t - f.mb)
    !(roundsUp rm neg u.1 u.2.1 u.2.2 && u.1 + 1 == 2 ^ (f.mb + 1))

/-- Rounds (-1)^neg·m·2^e, m non-zero, to a format (R53, R141). -/
def FFmt.roundDy (f : FFmt) (rm : RMode) (neg : Bool) (m : Nat) (e : Int) : Rounded :=
  let t := topExp m e
  if t > f.bias + 1 then ⟨f.overflow rm neg, true, false, true⟩
  else
    let (n, r, d) := if t < f.emin - f.mb - 2 then (0, 1, 4) else inUnits m e (f.ulp t)
    let n' := if roundsUp rm neg n r d then n + 1 else n
    let (b, o) := f.pack neg n' (f.ulp t)
    let nx := r != 0
    ⟨if o then f.overflow rm neg else b, nx || o, nx && f.tiny rm neg m e, o⟩

/-- Rounds a value that is no NaN to a format. -/
def FFmt.round (f : FFmt) (rm : RMode) (v : XVal) : Rounded :=
  match v with
  | .nan => ⟨f.qnan, false, false, false⟩
  | .inf n => ⟨f.infBits n, false, false, false⟩
  | .fin n 0 _ => ⟨f.zeroBits n, false, false, false⟩
  | v => let p := v.dyadic; f.roundDy rm v.neg p.1 p.2

/-- Sticky events of conversions (R57). -/
structure Sticky where
  osat : Bool
  ozero : Bool
deriving DecidableEq, Repr

/-- No event. -/
def Sticky.none : Sticky := ⟨false, false⟩
/-- Either of two. -/
def Sticky.or (a b : Sticky) : Sticky := ⟨a.osat || b.osat, a.ozero || b.ozero⟩

/-- round_ieee (R53): nearest even, subnormals kept; OSAT on overflow, OZERO when a non-zero value becomes zero. -/
def roundIeee (f : FFmt) (v : XVal) : Nat × Sticky :=
  let r := f.round .rne v
  (r.bits, ⟨r.of, v.qualifies && (r.bits == f.zeroBits true || r.bits == 0)⟩)

/-- The nearest integer of a dyadic magnitude under a mode; magnitudes of 2^80 and more answer 2^80. -/
def roundMag (rm : RMode) (neg : Bool) (m : Nat) (e : Int) : Nat × Bool :=
  if m = 0 then (0, false)
  else
    let t := topExp m e
    if t ≥ 80 then (2 ^ 80, false)
    else
      let (n, r, d) := if t < -2 then (0, 1, 8) else inUnits m e 0
      (if roundsUp rm neg n r d then n + 1 else n, r != 0)

/-- Rounds a finite value to an integer. -/
def roundInt (rm : RMode) (v : XVal) : Int :=
  let p := v.dyadic
  let r := (roundMag rm v.neg p.1 p.2).1
  if v.neg then -(r : Int) else (r : Int)

/-- Clamps to an interval, saying whether the clamp changed the value. -/
def clampInt (lo hi x : Int) : Int × Bool := if x < lo then (lo, true) else if x > hi then (hi, true) else (x, false)

/-- I32 output of a drain (R53): nearest even, clamped to ±(2^31 - 1). -/
def roundI32 (v : XVal) : BitVec 32 × Sticky :=
  match v with
  | .nan => (0x80000000#32, .none)
  | .inf n => (if n then 0x80000001#32 else 0x7FFFFFFF#32, ⟨true, false⟩)
  | v =>
    let i := roundInt .rne v
    let c := clampInt (-2147483647) 2147483647 i
    (BitVec.ofInt 32 c.1, ⟨c.2, v.qualifies && i == 0⟩)

-- Log elements -------------------------------------------------------------------------------------------------------

/-- round_log (R54) of a non-zero value against scale s, to a log element of width w and fraction q. -/
def roundLog (v : XVal) (s : Int) (w q : Nat) : Nat × Sticky :=
  let l := (2 ^ (w - 2) : Nat) + roundLog2 q v s
  let top : Int := (2 ^ (w - 1) : Nat) - 1
  let (l, sat) := if l > top then (top, true) else (l, false)
  if l < 1 then (0, ⟨sat, true⟩) else ((if v.neg then 2 ^ (w - 1) else 0) + l.toNat, ⟨sat, false⟩)

/-- A log element of width w and fraction q with scale s (R35). -/
def logValue (x w q : Nat) (s : Int) : XVal :=
  let l := x % 2 ^ (w - 1)
  let neg := x / 2 ^ (w - 1) % 2 = 1
  if l = 0 then (if neg then .nan else .fin false 0 0)
  else .lg neg (((l : Int) - (2 ^ (w - 2) : Nat)) * (2 ^ (10 - q) : Nat) + 1024 * s)

/-- Width and fraction of the array log formats (R35, Table 3). -/
def logParams (f : Nat) : Nat × Nat :=
  match f with
  | 0 => (4, 1) | 1 => (5, 2) | 2 => (6, 2) | 3 => (7, 3) | 4 => (8, 3) | _ => (8, 4)

/-- The LGM16 value of 16 bits with a scale (R41). -/
def lgmValue (x : BitVec 16) (s : Int) : XVal := logValue x.toNat 16 10 s
/-- NaR in LGM16. -/
def lgmNar : BitVec 16 := 0x8000#16
/-- Whether 16 bits are the LGM16 NaR. -/
def isLgmNar (x : BitVec 16) : Bool := x == lgmNar

/-- lgm_mul (R144). -/
def lgmMul (a b : BitVec 16) : BitVec 16 × Sticky :=
  if isLgmNar a || isLgmNar b then (lgmNar, .none)
  else if a.extractLsb' 0 15 == 0 || b.extractLsb' 0 15 == 0 then (0, .none)
  else
    let l : Int := (a.extractLsb' 0 15).toNat + (b.extractLsb' 0 15).toNat - 16384
    let c := if l > 32767 then (32767, true) else (l, false)
    if c.1 < 1 then (0, ⟨false, true⟩)
    else (bitOf 1 (a.getLsbD 15 != b.getLsbD 15) ++ BitVec.ofInt 15 c.1, ⟨c.2, false⟩)

/-- nearest(1024 · log2(2^(d/1024) ± 1)): the interval of width 2^-64 in which 2^(d/1024) lies decides it for every d of
two LGM16 values (DEDUCED, log 12: checked for each of the 65,534 cases). -/
def lgSum (d : Nat) (sub : Bool) : Int :=
  let x := iroot2 (2 ^ (d + 65536)) 10
  let y := if sub then x - 2 ^ 64 else x + 2 ^ 64
  ((Nat.log2 (y ^ 2048) : Int) - 131072 + 1).fdiv 2

/-- lgm_add (R144): the exact sum of two unscaled LGM16 values, `neg` for a difference, rounded once. -/
def lgmAdd (a b : BitVec 16) (neg : Bool) : BitVec 16 × Sticky :=
  let b := if neg && !(b.extractLsb' 0 15 == 0) then b ^^^ 0x8000#16 else b
  if isLgmNar a || isLgmNar b then (lgmNar, .none)
  else if b.extractLsb' 0 15 == 0 then (a, .none)
  else if a.extractLsb' 0 15 == 0 then (b, .none)
  else
    let la := (a.extractLsb' 0 15).toNat
    let lb := (b.extractLsb' 0 15).toNat
    let hi := if la ≥ lb then a else b
    let lo := min la lb
    let sub := a.getLsbD 15 != b.getLsbD 15
    if sub && la == lb then (0, .none)
    else
      let l : Int := lo + lgSum (max la lb - lo) sub
      let c := if l > 32767 then (32767, true) else (l, false)
      if c.1 < 1 then (0, ⟨false, true⟩) else (bitOf 1 (hi.getLsbD 15) ++ BitVec.ofInt 15 c.1, ⟨c.2, false⟩)

/-- Order of two LGM16 values that are no NaR, by value. -/
def lgmLe (a b : BitVec 16) : Bool :=
  let key (x : BitVec 16) : Int := if x.getLsbD 15 then -((x.extractLsb' 0 15).toNat : Int) else (x.extractLsb' 0 15).toNat
  decide (key a ≤ key b)

/-- lgm_to_array (R56) of a clean element. -/
def lgmToArray (x : BitVec 16) (sm : Int) (f : Nat) (sf : Int) : Nat × Sticky :=
  let (w, q) := logParams f
  if x.extractLsb' 0 15 == 0 then ((if x.getLsbD 15 then 2 ^ (w - 1) else 0), .none)
  else roundLog (lgmValue x sm) sf w q

/-- Binary digits of a logarithm: one for each squaring of a mantissa held to 256 bits (R142). -/
def log2Digits : Nat → Nat → Nat → Nat
  | 0, _, acc => acc
  | n + 1, y, acc =>
    let y2 := y * y / 2 ^ 256
    if y2 ≥ 2 ^ 257 then log2Digits n (y2 / 2) (2 * acc + 1) else log2Digits n y2 (2 * acc)

/-- floor(2^42 · log2 m) for m > 0. -/
def floorLog2At42 (m : Nat) : Nat :=
  let b := Nat.log2 m
  log2Digits 42 (m * 2 ^ 256 / 2 ^ b) b

-- E-forms ------------------------------------------------------------------------------------------------------------

/-- An operand of the array: a raw E-form (R44) with the poison mark carried beside it (R45). -/
structure EForm where
  raw : BitVec 16
  poison : Bool
deriving DecidableEq, Repr

/-- Zero as the part writes it (R44). -/
def efZero : BitVec 16 := 0x4000#16
/-- NaR as the part writes it (R44). -/
def efNar : BitVec 16 := 0x2000#16
/-- NaR flag. -/
def EForm.nar (e : EForm) : Bool := e.raw.getLsbD 13
/-- Zero flag. -/
def EForm.zero (e : EForm) : Bool := e.raw.getLsbD 14
/-- Sign. -/
def EForm.sign (e : EForm) : Bool := e.raw.getLsbD 15
/-- e16. -/
def EForm.e16 (e : EForm) : Int := (e.raw.extractLsb' 0 13).toInt
/-- eform(sign, e16). -/
def efMake (sign : Bool) (e16 : Int) : BitVec 16 := bitOf 1 sign ++ 0#2 ++ BitVec.ofInt 13 e16

/-- The value a raw E-form means (R44). -/
def efValue (r : BitVec 16) : XVal :=
  if r.getLsbD 13 then .nan else if r.getLsbD 14 then .fin false 0 0
  else .lg (r.getLsbD 15) ((r.extractLsb' 0 13).toInt * 64)

/-- E-form output of a value (R53). -/
def efOf (v : XVal) : BitVec 16 × Sticky :=
  match v with
  | .nan => (efNar, .none)
  | .fin _ 0 _ => (efZero, .none)
  | .inf n => (efMake n 4095, ⟨true, false⟩)
  | v => let c := clampInt (-4096) 4095 (roundLog2 4 v 0); (efMake v.neg c.1, ⟨c.2, false⟩)

/-- The MX element formats 0x06..0x0A as float formats (R43, Table 4). -/
def mxFmt (f : Nat) : FFmt :=
  match f with
  | 6 => ⟨2, 1⟩ | 7 => ⟨2, 3⟩ | 8 => ⟨3, 2⟩ | 9 => ⟨4, 3⟩ | _ => ⟨5, 2⟩

/-- Whether an MX float format keeps the whole top exponent for finite values (R43, Table 4). -/
def mxNoInf (f : Nat) : Bool := f == 6 || f == 7 || f == 8 || f == 9

/-- linear_value (R42, R43) of the formats 0x06..0x0D: element bits with block scale byte X. -/
def linearValue (f x bx : Nat) : XVal :=
  let s : Int := (bx : Int) - 127
  if f = 0x0B then
    let i := (BitVec.ofNat 8 x).toInt
    .fin (i < 0) i.natAbs (-6 + s)
  else if f = 0x0C then bf16.decode x
  else if f = 0x0D then fp16.decode x
  else
    let g := mxFmt f
    let fr := x % 2 ^ g.mb
    let ex := x / 2 ^ g.mb % 2 ^ g.eb
    let neg := x / 2 ^ (g.eb + g.mb) % 2 = 1
    if f = 9 && ex = 15 && fr = 7 then .nan
    else if f = 0x0A && ex = 31 then (if fr = 0 then .inf neg else .nan)
    else if ex = 0 then .fin neg fr (g.emin - g.mb + s)
    else .fin neg (2 ^ g.mb + fr) ((ex : Int) - g.bias - g.mb + s)

/-- eform_of (R45) of a clean element with a clean scale byte. -/
def eformOf (f x bx : Nat) : BitVec 16 :=
  if f ≤ 0x0B && bx = 0xFF then efNar
  else if f ≤ 5 then
    let (w, q) := logParams f
    let l := x % 2 ^ (w - 1)
    let neg := x / 2 ^ (w - 1) % 2 = 1
    if l = 0 then (if neg then efNar else efZero)
    else efMake neg (((l : Int) - (2 ^ (w - 2) : Nat)) * (2 ^ (4 - q) : Nat) + 16 * ((bx : Int) - 127))
  else
    match linearValue f x bx with
    | .inf _ => efNar
    | .nan => efNar
    | .fin _ 0 _ => efZero
    | v => efMake v.neg (roundLog2 4 v 0)

-- Block outputs ------------------------------------------------------------------------------------------------------

/-- The largest magnitude among the qualifying values of a block (R55). -/
def blockMax (vs : List XVal) : Option XVal :=
  vs.foldl (fun m v => if v.qualifies then (match m with | none => some v | some u => some (if u.magLe v then v else u)) else m) none

/-- The scale byte of a block (R55, R156): clamp(floor(log2 M) - e + 127, 0, 254), 0 where no element qualifies. -/
def blockScale (vs : List XVal) (e : Int) : Nat :=
  match blockMax vs with
  | none => 0
  | some m => (clampInt 0 254 (floorLog2 m - e + 127)).1.toNat

/-- The largest element exponent of an MX format (R156): 2, 2, 4, 8, 15, and 0 for MXINT8. -/
def mxEmax (f : Nat) : Int :=
  match f with
  | 6 => 2 | 7 => 2 | 8 => 4 | 9 => 8 | 10 => 15 | _ => 0

/-- The largest finite magnitude pattern of an MX float format (R43, Table 4). -/
def mxMaxMag (f : Nat) : Nat :=
  match f with
  | 6 => 0x7 | 7 => 0x1F | 8 => 0x1F | 9 => 0x7E | _ => 0x7B

/-- An MX float element of v·2^-s, nearest even, saturated to the largest magnitude (R55, R156). -/
def mxRound (f : Nat) (v : XVal) (s : Int) : Nat × Sticky :=
  let g := mxFmt f
  let sgn := if v.neg then 2 ^ (g.eb + g.mb) else 0
  match v.scale (-s) with
  | .inf _ => (sgn + mxMaxMag f, ⟨true, false⟩)
  | .nan => (0, .none)
  | .fin _ 0 _ => (sgn, .none)
  | u =>
    let p := u.dyadic
    let t := topExp p.1 p.2
    if t > g.bias + 2 then (sgn + mxMaxMag f, ⟨true, false⟩)
    else
      let ulp := g.ulp t
      let (n, r, d) := if t < g.emin - g.mb - 2 then (0, 1, 4) else inUnits p.1 p.2 ulp
      let n' := if roundsUp .rne false n r d then n + 1 else n
      let (n2, q2) := if n' = 2 ^ (g.mb + 1) then (2 ^ g.mb, ulp + 1) else (n', ulp)
      let mag : Nat := if n2 < 2 ^ g.mb then n2 else (q2 + g.mb + g.bias).toNat * 2 ^ g.mb + (n2 - 2 ^ g.mb)
      if mag > mxMaxMag f then (sgn + mxMaxMag f, ⟨true, false⟩)
      else (sgn + mag, ⟨false, mag == 0⟩)

/-- An MXINT8 element: nearest even of v·2^(6-s), clamped (R156). -/
def mxInt8 (v : XVal) (s : Int) : Nat × Sticky :=
  match v with
  | .inf n => (if n then 0x80 else 0x7F, ⟨true, false⟩)
  | .nan => (0, .none)
  | v =>
    let i := roundInt .rne (v.scale (6 - s))
    let c := clampInt (-128) 127 i
    ((BitVec.ofInt 8 c.1).toNat, ⟨c.2, v.qualifies && i == 0⟩)

-- Packing ------------------------------------------------------------------------------------------------------------

/-- pack6 (R59). -/
def pack6 (e0 e1 e2 e3 : Byte) : List Byte :=
  [ (e1.extractLsb' 0 2) ++ (e0.extractLsb' 0 6), (e2.extractLsb' 0 4) ++ (e1.extractLsb' 2 4),
    (e3.extractLsb' 0 6) ++ (e2.extractLsb' 4 2) ]

/-- unpack6 (R59). -/
def unpack6 (b0 b1 b2 : Byte) : List Byte :=
  [ 0#2 ++ b0.extractLsb' 0 6, 0#2 ++ (b1.extractLsb' 0 4 ++ b0.extractLsb' 6 2),
    0#2 ++ (b2.extractLsb' 0 2 ++ b1.extractLsb' 4 4), 0#2 ++ b2.extractLsb' 2 6 ]

/-- Packs a list of 8-bit lanes four to three bytes. -/
def packAll6 : List Byte → List Byte
  | e0 :: e1 :: e2 :: e3 :: rest => pack6 e0 e1 e2 e3 ++ packAll6 rest
  | _ => []

/-- Unpacks three bytes to four lanes. -/
def unpackAll6 : List Byte → List Byte
  | b0 :: b1 :: b2 :: rest => unpack6 b0 b1 b2 ++ unpackAll6 rest
  | _ => []

/-- Packs low nibbles two to a byte (R60). -/
def packAll4 : List Byte → List Byte
  | e0 :: e1 :: rest => (e1.extractLsb' 0 4 ++ e0.extractLsb' 0 4) :: packAll4 rest
  | _ => []

/-- Expands bytes to nibbles (R60). -/
def unpackAll4 : List Byte → List Byte
  | b :: rest => (0#4 ++ b.extractLsb' 0 4) :: (0#4 ++ b.extractLsb' 4 4) :: unpackAll4 rest
  | [] => []

-- Element format codes (R33, Table 1) -----------------------------------------------------------------------------------

/-- Whether a code is reserved (R33, Table 1). -/
def fmtReserved (f : Nat) : Bool := f == 0x0E || f == 0x0F || decide (f ≥ 0x1A)
/-- Whether a format is block-scaled (R33, R37). -/
def fmtBlock (f : Nat) : Bool := decide (f ≤ 0x0B) || f == 0x12
/-- Bits an element holds in memory: the container for LG5 and LG7 (R33, R36). -/
def fmtBits (f : Nat) : Nat :=
  match f with
  | 0x00 => 4 | 0x02 => 6 | 0x06 => 4 | 0x07 => 6 | 0x08 => 6 | 0x0C => 16 | 0x0D => 16 | 0x10 => 32 | 0x11 => 16 | 0x12 => 16
  | 0x14 => 16 | 0x15 => 32 | 0x16 => 64 | 0x17 => 64 | 0x18 => 16 | _ => 8
/-- Bytes of a 32-element block of a block-scaled format (R33, Table 1). -/
def fmtBlockBytes (f : Nat) : Nat := fmtBits f * 4

end Sys2Proof.Machine
end

