-- ==== Sys2Proof/Machine/State.lean ====
section
/-! DEFINITION. The state of one D2048-A1 package as plain data (R13-R32 and the rules cited at each field), the reasons
a step can stop, and the state after reset (R414). -/
namespace Sys2Proof.Machine
open Sys2Proof

/-- Why the machine stops with a fault. No instruction or event of this model stops it: R9 leaves no behaviour of the
device undefined, and every trap is a next state. The constructor is raised by nobody (safe: a stop would only make claims
weaker). -/
inductive Fault where
  | unreachable
deriving DecidableEq, Repr

/-- Why the machine refuses. -/
inductive Refusal where
  /-- An instruction without a meaning in this model, by mnemonic (safe: nothing can be proved of its effect). -/
  | notModelled (mnemonic : String)
deriving DecidableEq, Repr

-- Registers -----------------------------------------------------------------------------------------------------------

/-- The register files of a task (R15, Table 1) with their poison (R18). The stored X0, P0 and K0 are never read. -/
structure Regs where
  x : Vector Word 32
  xp : BitVec 32
  p : BitVec 8
  pp : BitVec 8
  v : Vector (BitVec 1024) 32
  vp : Vector (BitVec 16) 32
  k : Vector (BitVec 128) 8
  kp : BitVec 8
deriving DecidableEq, Repr

/-- The task CSRs (R20, Table 2), STATUS by its fields (Table 3). -/
structure Csrs where
  hm : Bool
  hmx : Bool
  hvx : Bool
  pha : Bool
  cause : Word
  epc : Word
  faddr : Word
  hvec : Word
  taskid : BitVec 32
  tcyc : Word
  slip : Word
  latemax : BitVec 32
  lc : Vector Word 2
  le : Vector (BitVec 33) 2
  ardom : BitVec 2
  dom : Vector Word 3
  dph : Vector (BitVec 32) 3
  fpmode : BitVec 5
  fpflags : BitVec 7
  bnd : Vector Word 16
  bndmode : BitVec 32
  bndhit : BitVec 16
  weight : BitVec 32
  rootloc : Word
  phbase : Word
  srseed : Word
  collto : BitVec 32
deriving DecidableEq, Repr

/-- The handler bank X24..X31 and HSAVE0..3 (R19), core state. -/
structure HandlerBank where
  x : Vector Word 8
  xp : BitVec 8
  save : Vector Word 4
deriving DecidableEq, Repr

/-- A semaphore with its SEMST (R23, Table 7). -/
structure Sem where
  val : BitVec 32
  sat : Bool
  err : BitVec 8
  done : Bool
deriving DecidableEq, Repr

/-- A berth descriptor (R25, Table 8) with its check-pending state (R302). -/
structure Berth where
  base : BitVec 14
  lenm1 : BitVec 14
  arm : Bool
  mesh : Bool
  fab : Bool
  mc : Bool
  etag : BitVec 16
  atag : BitVec 16
  pending : Bool
deriving DecidableEq, Repr

/-- A tide entry's occurrences (R288): whether it is armed with occurrences to come, the pending one, and the number of the next
to fall due. -/
structure Occ where
  live : Bool
  pend : Option Nat
  next : Nat
deriving DecidableEq, Repr

/-- An entry that is not armed. -/
def Occ.none : Occ := ⟨false, Option.none, 0⟩

/-- A configuration plane (R29, Table 11): its bytes, the header offsets marked by the walk of R89, its arm state and the
occurrences of its tide entries (R288). -/
structure Plane where
  bytes : Memory
  marks : List Nat
  armed : Bool
  occ : SMap Occ
deriving DecidableEq, Repr

/-- A plane after reset. -/
def Plane.empty : Plane := ⟨[], [], false, []⟩

-- Results not yet landed ----------------------------------------------------------------------------------------------

/-- The granule a pending result will be written to (R85). `hx` is a register of the handler bank. -/
inductive PDest where
  | x (n : Reg)
  | hx (n : BitVec 3)
  | v (n : Reg) (g : BitVec 4)
  | k (n : BitVec 3)
  | gran (hold : Bool) (g : Nat) (mask : BitVec 32)
  | cell (plane : Bool) (i : Nat)
  | acc (i : Nat)
deriving DecidableEq, Repr

/-- A result on its way (R85): where, its bits, its poison (for an accumulator element its NaR bit is bit 64), when it lands at
the latest, whether it is a result of the array: such a bound counts array time, any other counts task cycles (log 125); and the
place in issue order of the queued instruction it belongs to, 0 for a result of none. -/
structure Pend where
  dest : PDest
  val : Gran
  poison : Bool
  due : Nat
  mx : Bool
  src : Nat
deriving DecidableEq, Repr

/-- The arrival of a slot still to retire (R70): it is made by task cycle `due`, or before it when the slot's results have landed, which
are to be written to `waits`. -/
structure Arrival where
  due : Nat
  lvl : BitVec 2
  waits : List PDest
deriving DecidableEq, Repr

/-- A store performed for the program thread and not yet for other agents (R266): granule, bytes, mask, poison to set
(`some`), class and the tick it was made. -/
structure Buffered where
  gran : Nat
  val : Gran
  mask : BitVec 32
  poison : Option Bool
  hold : Bool
  cls : BitVec 4
  made : Word
deriving DecidableEq, Repr

-- The array -----------------------------------------------------------------------------------------------------------

/-- An accumulator element (R48). -/
structure AccEl where
  val : BitVec 64
  nar : Bool
  poison : Bool
deriving DecidableEq, Repr

/-- A cleared accumulator element (R27). -/
def AccEl.zero : AccEl := ⟨0, false, false⟩
/-- A zero cell: what a cell cleared at reset holds is the zero E-form, not the word 0 (log 137). -/
def EForm.zeroCell : EForm := ⟨efZero, false⟩

/-- The power gate (R190, Table 6); `waking` holds the array time at which the wake ends, `pending` also the end of a wake
still running. -/
inductive Gate where
  | isOpen
  | pending (ret : Bool) (wakeEnd : Nat)
  | gated (ret : Bool)
  | waking (wakeEnd : Nat)
deriving DecidableEq, Repr

/-- A store made in the cycle a late row should have entered, which the row does not see (R180, R182): granule, byte mask, the bytes and
the poison before it, and the bytes stored. -/
structure Shade where
  gran : Nat
  mask : BitVec 32
  old : Gran
  bad : Bool
  new : Gran
deriving DecidableEq, Repr

/-- A queued MX instruction (R173): the instruction; `next`, the array time of its start, and once started of its next row
entry or of the end of its occupancy; `due`, its start plus own bound; its registers at issue, MTBL's table, whether it
started, rows entered, MCFG at its start, the level at which it arrives on retiring, and the bytes of its destination granules
that the program thread has stored since its issue (R85: the last-issued write remains); `seq` is its place in issue order; `held` are rows
of an MSTRMA not yet entered, as they stood before a later instruction cleared them (R174). A stream that has started keeps the table of its
start in `tbl` (R177). `shade` are stores of the cycle in which its next row should have entered (R180). In parked work `next` and `due` count
from the trap. -/
structure MxItem where
  ins : Instr
  next : Nat
  due : Nat
  xa : Word
  xn : Word
  xn1 : Word
  tbl : List (BitVec 16)
  started : Bool
  rows : Nat
  mcfg : BitVec 32
  ar : BitVec 2
  cover : SMap (BitVec 32)
  seq : Nat
  held : List (Nat × List EForm × BitVec 8) := []
  shade : List Shade := []
deriving DecidableEq, Repr

/-- An arrival that has been made and is not counted yet, because matrix writes issued before it are still to land (R249, R266): its level
and barrier, and those writes, as in `Cmd`. -/
structure Release where
  lvl : Level
  key : Word
  span : Nat × Nat
  due : Nat
deriving DecidableEq, Repr

/-- Contributions of an entered row on their way to the accumulator (R180): operands, weights, destination row, the MCFG
word and table they use, whether the row is cleared first, the array time by which they land, and the place in issue order of
their stream. -/
structure RowWork where
  row : Nat
  ea : List EForm
  w : SMap EForm
  mcfg : BitVec 32
  tbl : List (BitVec 16)
  z : Bool
  due : Nat
  seq : Nat
deriving DecidableEq, Repr

/-- The array with its accumulator store, planes, tables, FIFO, queue, parked work and gate (R169-R195). `sticky` is
MSTAT[31:24] and `fresh` the events of the current cycle, which a clear in it leaves (R188); `popped` counts the hoist entries taken at array time `popAt` (R183); with `gateParked` the end of a
wake counts from the trap (R191). `nextSeq` numbers the queued instructions from 10, those before it being for parked
work that MREST restores, and `parkSeq` is the first number of a handler's (R266). -/
structure Mx where
  acc : SMap AccEl
  w0 : SMap EForm
  w1 : SMap EForm
  act : Bool
  mcfg : BitVec 32
  mcfgTail : BitVec 32
  t0 : List (BitVec 16)
  t1 : List (BitVec 16)
  sticky : BitVec 8
  fresh : BitVec 8
  hoist : List (BitVec 1024 × BitVec 16)
  popAt : Nat
  popped : Nat
  items : List MxItem
  work : List RowWork
  parked : List MxItem
  gate : Gate
  gateParked : Bool
  loadDue : Nat
  otherDue : Nat
  gateAr : List (BitVec 2)
  drainTraps : List (BitVec 4 × Nat)
  parkedTraps : List (BitVec 4 × Nat)
  nextSeq : Nat
  parkSeq : Nat
deriving DecidableEq, Repr

/-- The default fractional-power table (R46, Table 7). -/
def defaultTable : List (BitVec 16) :=
  [32768, 34219, 35734, 37316, 38968, 40693, 42495, 44376, 46341, 48393, 50535, 52773, 55109, 57549, 60097, 62757]

-- Engines -------------------------------------------------------------------------------------------------------------

/-- Where a byte lies: scratchpad, hold or plane constants of a core, an IA of a partition, an IA of a peer, host memory. -/
inductive Place where
  | sp (c : CoreId) (a : Nat)
  | hold (c : CoreId) (a : Nat)
  | const (c : CoreId) (plane : Bool) (a : Nat)
  | ia (part : BitVec 5) (a : Nat)
  | peer (chip : BitVec 21) (part : BitVec 5) (a : Nat)
  | host (vf : BitVec 8) (a : Nat)
deriving DecidableEq, Repr

/-- The wait of an access on M of its page (R315): the IA it reaches and the tick since which it waits. -/
structure MWait where
  ia : Nat
  since : Word
deriving DecidableEq, Repr

/-- Why an access is held: a page fault with its number (R316), a page being migrated since a tick (R315), a granule to be
copied first (R367), or data of a step past a cut that is still to come (R364, R365). -/
inductive Held where
  | fault (id : Nat)
  | migrate (w : MWait)
  | cow
  | cut
  | table
deriving DecidableEq, Repr

/-- An engine command in the queue (R199, R200). `ins` to `seed` are captured at issue: the command, its register values, its
records and blocks, bounds, COLLTO and SRSEED, the level it arrives at with the DOM value that keys the barrier; `after` and `covers` the commands it waits for (R243) and an FFLG covers
(R223), `mxSeq` and `mxDue` the matrix work whose memory writes it waits for: queued instructions numbered in one of the spans of `mxSeq`,
and array time `mxDue` for the others (R266). Then how far it has come: `pos` counts the units done, `met` collects statuses,
`osat`, `ozero` and `hits` go to its report; `accepted` and `refused` are masks of targets; `delivering` says that a delivery
was accepted or a request sent; `plane` is the plane whose constants it reads; `gens` are the generations of the handles it checked (R310); `got` the
source granules it has read (R202); `bufs` the accepting cores with the scratchpad offset of the payload (R245), `wrote` the
granules written there; `parts` the holds of dredge engines (R354); `data` and `nums` hold what it has built and counted. -/
structure Cmd where
  id : Nat
  ins : Instr
  xs : Word
  xs1 : Word
  xd : Word
  xd1 : Word
  blocks : List (List Byte)
  bnd : Vector Word 16
  bndmode : BitVec 32
  collto : BitVec 32
  seed : Word
  cls : BitVec 4
  sem : BitVec 6
  task : Nat
  ar : BitVec 2
  arKey : Word
  after : List Nat
  mxSeq : List (Nat × Nat)
  mxDue : Nat
  covers : List Nat
  issued : Word
  started : Bool
  startAt : Word
  pos : Nat
  met : List Status
  osat : Bool
  ozero : Bool
  hits : BitVec 16
  accepted : Word
  refused : Word
  delivering : Bool
  hold : Option Held
  stopping : Bool
  finished : Bool
  plane : Bool
  gens : List (BitVec 12 × BitVec 16)
  got : List (Place × Gran × Bool)
  bufs : List (CoreId × Nat)
  wrote : Nat
  parts : List (BitVec 3 × Held)
  data : Blob
  nums : List Nat
deriving DecidableEq, Repr

/-- A fence (R243, R275): its classes, the commands before it, and the matrix work before it, as in `Cmd`. -/
structure Fence where
  mask : BitVec 16
  before : List Nat
  mxSeq : List (Nat × Nat)
  mxDue : Nat
deriving DecidableEq, Repr

-- Waiting and bundles -------------------------------------------------------------------------------------------------

/-- What a bundle waits for (R236, R199, R183, R302, R367). -/
inductive Wait where
  | sem (n : BitVec 6) (t : BitVec 32)
  | fence (mask : BitVec 16)
  | land (n : BitVec 5)
  | time (t : Word)
  | dom (l : Level)
  | spawn (target : CoreId)
  | phase (mask : BitVec 16) (rec : List Byte)
  | phaseAbort (mask : BitVec 16) (rec : List Byte) (copies : List Cmd)
  | msync
  | exit
  | buffer (n : BitVec 5) (slot : Nat)
  | queue
  | cow (g : Nat)
  | row (n : BitVec 5)
  | hoist
deriving DecidableEq, Repr

/-- The memories an injector targets (R325, Table 7). -/
inductive InjMem where
  | hold | pad | hbm | acc
deriving DecidableEq, Repr

/-- A fault a slot raises: cause, DETAIL, FADDR. -/
structure SlotFault where
  code : BitVec 8
  detail : BitVec 16
  faddr : Word
deriving DecidableEq, Repr

/-- An X value with its poison. -/
structure XW where
  val : Word
  poison : Bool
deriving DecidableEq, Repr

/-- One effect of a slot, performed when its bundle completes; within a bundle in slot order (R84). `xm` is an X result of an MX
instruction; `looked` records what a PHASE read in its bundle's first cycle and does nothing. -/
inductive Action where
  | x (n : Reg) (v : XW) (bound : Nat)
  | xm (n : Reg) (v : XW) (bound : Nat)
  | p (n : BitVec 3) (v : Bool) (poison : Bool)
  | k (n : BitVec 3) (v : BitVec 128) (poison : Bool) (bound : Nat)
  | v (n : Reg) (gs : List (Nat × Word × Bool)) (bound : Nat)
  | store (hold : Bool) (g : Nat) (val : Gran) (mask : BitVec 32) (poison : Option Bool) (cls : BitVec 4)
  | passBerths (ns : List (BitVec 5))
  | flags (f : BitVec 7)
  | seed (v : Word)
  | bndhit (m : BitVec 16)
  | accStore (i : Nat) (v : Word) (poison : Bool)
  | sem (n : BitVec 6) (amt : Int)
  | semClear (n : BitVec 6)
  | fence (mask : BitVec 16)
  | transfer (target : Word)
  | loopSet (n : Bool) (count : Word) (le : BitVec 33)
  | csr (a : BitVec 12) (v : Word)
  | trapAfter (code : BitVec 16)
  | eret
  | berthArm (n : BitVec 5) (desc : Word) (tag : BitVec 16)
  | berthTag (n : BitVec 5) (tag : BitVec 16)
  | berthOff (n : BitVec 5)
  | arrive (l : BitVec 2) (bound : Nat) (waits : List PDest)
  | spawn (target : CoreId) (pc : BitVec 16) (arg : Word) (w : BitVec 32)
  | exit
  | phase (p : Option (Word × Nat))
  | snapRestore (bytes : List Byte)
  | swreq (on : Bool)
  | mx (i : Instr) (xa xn xn1 : Word) (tbl : List (BitVec 16)) (ar : BitVec 2)
  | pend (ps : List Pend)
  | hoistPush (v : BitVec 1024) (p : BitVec 16)
  | gateOn (ret : Bool)
  | gateOff
  | gateCancel
  | gateArrive (l : BitVec 2)
  | mstatClear
  | mrest (rec : List Byte) (ps : List Pend)
  | mload (due : Nat) (osat ozero : Bool)
  | note (g : Nat)
  | drawn (m : InjMem) (gs : List Nat)
  | command (c : Cmd)
  | cacheInstall (p : Word) (bytes : List Byte)
  | cacheDrop (p : Option Word)
  | looked (w : Wait)
deriving DecidableEq, Repr

/-- What a slot comes to when its bundle would issue: a fault decided before any wait (encoding, guard poison: R236), a
wait of R236, a fault decided at issue, a freeze that any fault precedes (R302, R199, R367), or its effects. -/
inductive SlotOut where
  | early (f : SlotFault)
  | wait (w : Wait)
  | fault (f : SlotFault)
  | freeze (w : Wait)
  | ok (as : List Action)
deriving DecidableEq, Repr

/-- A bundle being executed: its header's offset, the next sequential offset, the slots still to come, and what the earlier
slots came to. -/
structure OpenBundle where
  pc : Word
  next : Word
  left : Nat
  outs : List (Slot × SlotOut)
deriving DecidableEq, Repr

/-- A core frozen before a bundle: what it waits for, the slot, TNOW at the first cycle it was held (R303), whether the end of the
wait has been observed, and the wait of a stream row beside it (R182, R189) with TNOW at its first cycle. `cyc` is the number of that first
cycle, by which spawn requests are ordered (R292): TNOW may stand still or skip a value between two cycles (R284). -/
structure Freeze where
  wait : Wait
  slot : Nat
  since : Word
  cyc : Nat
  ready : Bool
  row : Option (Wait × Word)
deriving DecidableEq, Repr

/-- What was settled in the first cycle a waiting bundle could issue (R236): the bundle's offset, TNOW then (R248), and what its PHASE
read then (R253). Its destination conflicts were decided then too (R81). -/
structure FirstLook where
  pc : Word
  at_ : Word
  phase : Option Wait
deriving DecidableEq, Repr

/-- A trap whose handler is not entered yet, because a write on its way waits for the copy of its granule (R191, R367); with `drop`, the end of
the task by a STOP that waits in the same way. -/
structure Entering where
  code : BitVec 8
  slot : Nat
  detail : BitVec 16
  epc : Word
  faddr : Word
  drop : Bool := false
deriving DecidableEq, Repr

/-- A spawn queue entry (R292). -/
structure SpawnEntry where
  pc : BitVec 16
  arg : Word
  weight : BitVec 32
  root : Word
  taskid : BitVec 32
deriving DecidableEq, Repr

/-- What a core is doing (R13, R293, R305, R306): idle; running a task; stopped for a pre-emption that waits for engine
commands; saving; resuming. -/
inductive Run where
  | idle
  | running
  | preempting (p : Word) (plane : Bool) (entry : BitVec 8)
  | saving (p : Word) (started : Word) (plane : Bool) (entry : BitVec 8)
  | resuming (started : Word)
deriving DecidableEq, Repr

/-- A suspended task's live part: what stays registered while its context is in HBM (R298, R305), its open phase (R254), what its
next fetch needs, its parked matrix work (the stores and planes of `mx` are in HBM), the phase numbers of arrivals its commands
made meanwhile, and the first cycle of a bundle it was waiting in (R248). -/
structure Suspended where
  dom : Vector Word 3
  dph : Vector (BitVec 32) 3
  task : Nat
  bndhit : BitVec 16
  phase : Option (Word × Nat)
  via : Option Word
  bubble : Bool
  mx : Mx
  arr : Vector (Option (BitVec 32)) 3
  relT : Option (Word × Word)
deriving DecidableEq, Repr

/-- The weight of a task that ended, returned when its commands have completed (R252). -/
structure ExitWeight where
  task : Nat
  weight : BitVec 32
  root : Word
deriving DecidableEq, Repr

-- Trimmers ------------------------------------------------------------------------------------------------------------

/-- A trimmer thread (R336): W0..W15 of 256 bits with 4 poison bits, C0..C7 with poison, its instruction index, the item it
works on, its generator, and whether it has items left. -/
structure Thread where
  w : Vector (BitVec 256) 16
  wp : Vector (BitVec 4) 16
  c : Vector (BitVec 32) 8
  cp : BitVec 8
  ip : Nat
  item : Nat
  gen : Word
  live : Bool
deriving DecidableEq, Repr

/-- How a sweep stopped (Table 5): status, reason, thread, index of the instruction and region offset. -/
structure SweepStop where
  status : Status
  reason : Nat
  thread : Nat
  ip : Nat
  off : Word
deriving DecidableEq, Repr

/-- A sweep in progress (R333-R336, R350): its command, program words and those that were poisoned, whether its checks have been made, the
capability entry it bound with its generation and STAT, the sweep count, presets, threads, the cycles until its first turn, the slot whose turn comes, the flags of its record,
the items ended, the turns refused, and how it stopped. -/
structure Sweep where
  cmd : Nat
  prog : List (BitVec 32)
  bad : List Nat
  checked : Bool
  cap : BitVec 6
  gen : BitVec 16
  stat : Nat
  nthr : Nat
  count : Nat
  cpre : Vector (BitVec 32) 8
  threads : Vector Thread 16
  delay : Nat
  turn : BitVec 4
  flags : BitVec 8
  items : Nat
  refused : Nat
  stop : Option SweepStop
deriving DecidableEq, Repr

-- A core --------------------------------------------------------------------------------------------------------------

/-- One core with its task (R30). `notes` are hold granules whose error a read-modify-write has corrected, to be logged (R323). `ct` counts its task cycles (R7) and `mt` is the time of its array (log 125); `relT` is the offset of a task
bundle that was waiting when a trap came, and its first cycle (R248); `landing` counts the ticks that landing still takes before a context save
(R305). -/
structure Core where
  regs : Regs
  csr : Csrs
  bank : HandlerBank
  pc : Word
  via : Option Word
  run : Run
  origin : Bool
  task : Nat
  bubble : Bool
  bundle : Option OpenBundle
  freeze : Option Freeze
  first : Option FirstLook
  relT : Option (Word × Word)
  entering : Option Entering
  landing : Option Nat
  ct : Nat
  mt : Nat
  pend : List Pend
  buf : List Buffered
  arrivals : List Arrival
  releases : List Release
  lastArr : Vector (Option (BitVec 32)) 3
  phase : Option (Word × Nat)
  part : BitVec 5
  inj : Word
  sems : Vector Sem 64
  berths : Vector Berth 32
  sp : PMem
  hold : PMem
  holdErr : SMap (BitVec 2)
  planes : Vector Plane 2
  act : Bool
  shrdy : Bool
  swreq : Bool
  loading : Option (List Byte × Word × Nat)
  spawnq : List SpawnEntry
  spawnAt : Option Nat
  spawnSeq : BitVec 16
  missed : Word
  suspended : Option Suspended
  resumeWait : Bool
  exits : List ExitWeight
  mx : Mx
  queue : List Cmd
  nextCmd : Nat
  nextTask : Nat
  fences : List Fence
  cache : List (Word × List Byte)
  caps : Vector (BitVec 128) 64
  sweep : Option Sweep
  context : List Nat
  fabSeq : SMap (BitVec 32)
  ranges : List (BitVec 12 × BitVec 256)
  notes : List Nat
  laneConf : Word
  faultRecs : Word
  spCorr : Word
  accCorr : Word
  gen : Word
deriving DecidableEq, Repr

-- The package ---------------------------------------------------------------------------------------------------------

/-- A record posted to the management firmware (R14, R289, R291). -/
inductive FwRecord where
  | abandoned (core : CoreId) (cause epc : Word) (firstEpc firstCause : Word)
  | tideFaulty (core : CoreId) (plane : Bool) (entry : BitVec 8)
  | swapMissing (core : CoreId) (plane : Bool) (entry : BitVec 8)
  | pageFault (id : Nat) (part : BitVec 5) (core : CoreId) (op : BitVec 8) (cls : BitVec 4) (ia : Nat) (write : Bool) (at_ : Word)
  | portDown (p : Port)
  | beacon (p : Port) (sent recv at_ : Word)
  | hot110
deriving DecidableEq, Repr

/-- A barrier in use (R298): the DOM value that keys it, its level, and the arrivals of the current phase. -/
structure Barrier where
  key : Word
  level : Level
  count : BitVec 32
deriving DecidableEq, Repr

/-- Whose turn it is: a core's cycle, its trimmers, its engines, or the package's own units at the end of a tick. -/
inductive Turn where
  | core (c : CoreId)
  | trim (c : CoreId)
  | eng (c : CoreId)
  | pkg
deriving DecidableEq, Repr

-- Translation (R307-R316)

/-- A page fault posted to the firmware (R316): its number, partition, IA, kind, tick, and whether it was refused. -/
structure PageFault where
  id : Nat
  part : BitVec 5
  ia : Nat
  write : Bool
  since : Word
  refused : Bool
deriving DecidableEq, Repr

/-- An rkey the firmware issued for a handle (R391, R392). -/
structure Rkey where
  key : BitVec 32
  part : BitVec 5
  handle : BitVec 12
deriving DecidableEq, Repr

-- Drydock (R360-R373)

/-- A range of a snapshot set (R360): an IA range, or a hold range of a core. -/
structure SnapRange where
  hold : Bool
  core : CoreId
  base : Nat
  len : Nat
deriving DecidableEq, Repr

/-- A snapshot set (R360): ranges in set order, snapshot buffer, storage target. -/
structure SnapSet where
  ranges : List SnapRange
  bufIa : Nat
  bufLen : Nat
  vf : BitVec 8
  rkey : BitVec 32
  addr : Word
deriving DecidableEq, Repr

/-- A cut being drained (R366-R373). Granules are numbered through the set's ranges in set order: `pos` counts those drained,
`copies` are those copied ahead of the drain, `copying` those a writer waits for, `wasW` the pages whose W the cut cleared,
`drained` the granules of the segment being filled, `segs` the manifest entries of the segments sent (R372), `members` the waiting
SNAPs of SEAL, `c` the counter value taken (R373). -/
structure Cut where
  n : BitVec 32
  image : Word
  level : Level
  pos : Nat
  copies : List (Nat × Blob)
  copying : List Nat
  wasW : List Nat
  drained : List (List Byte)
  segs : List (List Byte)
  members : List (CoreId × Nat)
  c : Word
deriving DecidableEq, Repr

-- Partitions and the harbourmaster (R397-R412)

/-- State of a partition (R405); `none` before CREATE. -/
inductive PartState where
  | none | open_ | stopped | running
deriving DecidableEq, Repr

/-- A flit of a SENDS on its way over a scheduled lane (R379): source, endpoint, its command and its number in it, whether the odd plan was in
force when it was injected, TNOW then, and the routers it has passed. -/
structure LaneFlit where
  src : CoreId
  dst : CoreId
  cmd : Nat
  no : Nat
  odd : Bool
  sent : Word
  hops : Nat
deriving DecidableEq, Repr

/-- What the firmware keeps of a virtual function (R389, R391): MAC address, IP address, GID, VLAN tag, and the queue pairs that are
connected. -/
structure VfNet where
  mac : BitVec 48
  ip : BitVec 128
  gid : BitVec 128
  vlan : BitVec 16
  pairs : Word
deriving DecidableEq, Repr

/-- A virtual function nothing is known of. -/
def VfNet.empty : VfNet := ⟨0, 0, 0, 0, 0⟩

/-- Data of a peer's MIGR that has reached this package, or been asked of it (R231, R383): where it comes from, its number there, the partition and
IA here, what is written, and its class. -/
structure Bulk where
  srcChip : BitVec 21
  srcCore : CoreId
  number : BitVec 32
  part : BitVec 5
  ia : Nat
  write : Bool
  data : BitVec 256
  bad : Bool
  cls : BitVec 2
deriving DecidableEq, Repr

/-- An act of an agent outside the package, or of the firmware of its own accord, that the opcode table has no row for (log 140). -/
inductive Outside where
  /-- The firmware sets CLRINT (R323). -/
  | clearInterval (t : Word)
  /-- The firmware sets k of the sampling (R320). -/
  | sampling (k : BitVec 5)
  /-- The firmware sets PCAP (R416). -/
  | powerCap (w : BitVec 16)
  /-- The firmware sets the length of the ring of a dimension (R382). -/
  | ringLength (d : Fin 3) (n : Nat)
  /-- The firmware writes its group table: the packages of a pod group (R388). -/
  | group (g : BitVec 16) (chips : List (BitVec 21))
  /-- The firmware chooses the priority of flow control (R389). -/
  | pfcPriority (p : BitVec 3)
  /-- The firmware gives a virtual function its addresses and VLAN tag (R389, R391). -/
  | address (vf : BitVec 8) (mac : BitVec 48) (ip gid : BitVec 128) (vlan : BitVec 16)
  /-- A host connects a queue pair of a virtual function (R391). -/
  | connect (vf : BitVec 8) (qp : BitVec 6)
  /-- A management core reads or writes a frame (R398). -/
  | frameAccess (frame : Nat) (write : Option (List Byte))
  /-- The harbourmaster writes the operator record (R413). -/
  | operatorRecord (key : List Byte)
  /-- Bits of a column word of a hold go wrong (R328). -/
  | holdError (core : CoreId) (g : Nat) (bits : BitVec 2)
  /-- A granule of a scratchpad shows an error: corrected, or uncorrectable. -/
  | padError (core : CoreId) (g : Nat) (corrected : Bool)
  /-- An element of an accumulator store shows an error: corrected, or uncorrectable. -/
  | accError (core : CoreId) (i : Nat) (corrected : Bool)
  /-- A granule of HBM shows an error: corrected (R323), or uncorrectable. -/
  | hbmError (loc : Nat) (corrected : Bool)
  /-- The other end of a torus port has taken it down (R381). -/
  | peerDown (p : Port)
  /-- A torus port does not come up at step 6 of the reset sequence (R414). -/
  | trainFails (p : Port)
  /-- A port of another package goes down or returns (R382). -/
  | farPort (chip : BitVec 21) (p : Port) (up : Bool)
  /-- SNAPs of a partition waiting on another package name another N or level than those here (R363). -/
  | cutDiffers (part : BitVec 5)
  /-- The firmware sends a page-fault message to a peer (R383). -/
  | faultMessage (chip : BitVec 21) (bytes : List Byte)
  /-- Data of a peer's MIGR arrives, or is asked for (R383). -/
  | bulkArrival (b : Bulk)
  /-- The planes of an idle core whose active plane holds no accepted image change places, so that a first image can be loaded into plane 0 and
  then run there, as the set-ups of R422 and R428 have it (log 144). -/
  | firstFlip (core : CoreId)
deriving DecidableEq, Repr

/-- A partition (R404, Table 5): what CREATE named, its catalogue and measurement (R406), its snapshot set and cut, the N of
its previous cut, of its previous level 3 cut and of the last level 3 cut whose members' start it has told the group (R363, R365), and its
counters (R394). -/
structure Part where
  state : PartState
  flags : BitVec 8
  quays : BitVec 32
  vfs : List Nat
  tenant : Word
  kskey : List Byte
  groups : List (BitVec 16)
  faultmax : Word
  frames : List Nat
  catalogue : List (BitVec 384)
  measure : Option (BitVec 384)
  snapset : Option SnapSet
  cut : Option Cut
  lastCut : Option (BitVec 32)
  lastL3 : Option (BitVec 32)
  confirmed : Option (BitVec 32)
  restoring : Bool
  migrSlip : Word
  cpylBytes : Word
  collBytes : Word
  dryBytes : Word
deriving DecidableEq, Repr

/-- No partition. -/
def Part.empty : Part :=
  { state := .none, flags := 0, quays := 0, vfs := [], tenant := 0, kskey := [], groups := [], faultmax := 0, frames := [],
    catalogue := [], measure := none, snapset := none, cut := none, lastCut := none, lastL3 := none, confirmed := none, restoring := false, migrSlip := 0,
    cpylBytes := 0, collBytes := 0, dryBytes := 0 }

/-- A tenant known to the harbourmaster (R404, R409, R410): sealing secret, in-session and committed counters. -/
structure Tenant where
  id : Word
  secret : Option (List Byte)
  insession : Word
  committed : Word
deriving DecidableEq, Repr

/-- An attestation report whose ephemeral key lives (R408, R409): nonce, partition, number of the key, tick. -/
structure Report where
  nonce : List Byte
  part : BitVec 5
  key : Nat
  made : Word
deriving DecidableEq, Repr

-- Fabric (R380-R385)

/-- What becomes of a packet when the port it waits at goes down: the pier keeps a copy and re-sends that (R384); it is sent the other way while it is
still held whole (R382); or it is sent again even when part of it may have arrived, since it is delivered in the end (R388). -/
inductive Fate where
  | copied | held | delivered
deriving DecidableEq, Repr

/-- A packet on its way out of a port: its channel, the payloads of its flits, its destination chip and class (R380), and its fate at a failure. -/
structure Packet where
  vc : BitVec 2
  flits : List (BitVec 448)
  dst : BitVec 21
  cls : BitVec 2
  fate : Fate
deriving DecidableEq, Repr

/-- A direction pair of a torus port (R381, R383, R386, R394, R396): link state; packets of the response channel and of the four
classes still to go, with the deficits, the class whose visit it is and whether it has had its gain; by channel the rest of the packet
in progress and whether its head has gone; the packets begun of which the pier has no copy, with the number of their last flit once that has gone,
until it is acknowledged; transmit sequence and unacknowledged flits, failed
replays, tick of the last ACK progress, expected sequence, whether a NAK is outstanding, accepted flits since the last ACK
with its tick, accepted flits still buffered, the packet being received by channel, credits to send with and to return by channel, counters, last beacon, and the tick of
the last one sent. -/
structure TorusPort where
  up : Bool
  resp : List Packet
  classes : Vector (List Packet) 4
  deficit : Vector Nat 4
  visit : BitVec 2
  granted : Bool
  going : Vector (List (BitVec 448)) 4
  begun : BitVec 4
  sending : List (Packet × Option (BitVec 12))
  txSeq : BitVec 12
  unacked : List (BitVec 512)
  failed : Nat
  replaying : Bool
  progress : Word
  rxSeq : BitVec 12
  naked : Bool
  sinceAck : Nat
  lastAck : Word
  rx : List (BitVec 512)
  inflow : Vector (List (BitVec 448)) 4
  credits : Vector Nat 4
  owed : Vector Nat 4
  replays : Word
  bad : Word
  downs : Word
  resends : Word
  beaconPeer : Word
  beaconAt : Word
  beaconTx : Word
deriving DecidableEq, Repr

/-- A torus port after training (R381, R383). -/
def TorusPort.reset : TorusPort :=
  { up := true, resp := [], classes := Vector.replicate 4 [], deficit := Vector.replicate 4 0, visit := 0, granted := false,
    going := Vector.replicate 4 [], begun := 0, sending := [], txSeq := 0, unacked := [], failed := 0, replaying := false, progress := 0, rxSeq := 0, naked := false,
    sinceAck := 0, lastAck := 0, rx := [], inflow := Vector.replicate 4 [], credits := Vector.replicate 4 256, owed := Vector.replicate 4 0, replays := 0,
    bad := 0, downs := 0, resends := 0, beaconPeer := 0, beaconAt := 0, beaconTx := 0 }

/-- A numbered operation the pier keeps until its response arrives (R384): destination, the operation, its command, the first hop of the last copy, ticks of the last send and of the last response or notice, and, while the window is full,
whether it is still to be sent. -/
structure Sent where
  chip : BitVec 21
  op : FabOp
  cmd : Nat
  hop : Option Port
  sentAt : Word
  heardAt : Word
  waiting : Bool
deriving DecidableEq, Repr

/-- What became of a numbered operation at its destination (R385). -/
inductive DupState where
  | held
  | done (st : Status) (old : Word) (oldBad : Bool)
deriving DecidableEq, Repr

/-- An entry of the duplicate table (R385): source, H, the numbers of H - 63 .. H that have arrived, tick of the last arrival. -/
structure DupEntry where
  chip : BitVec 21
  core : CoreId
  h : BitVec 32
  seen : List (BitVec 32 × DupState)
  last : Word
deriving DecidableEq, Repr

/-- An operation of a peer held here (R384): why, how many granules it has written, and the tick of its last hold notice. -/
structure HeldOp where
  op : FabOp
  why : Held
  pos : Nat
  notice : Word
deriving DecidableEq, Repr

/-- A host access in progress (R391): its place in arrival order, function, queue pair, handle with the generation checked, offset, a write's data or a read's length, bytes
done (for a read also in `data`), its hold, and for a plane image read from a handle the LOAD_PLANE it is for (R393). -/
structure HostOp where
  no : Nat
  vf : BitVec 8
  qp : BitVec 6
  part : BitVec 5
  handle : BitVec 12
  gen : BitVec 16
  off : Nat
  write : Bool
  data : List Byte
  len : Nat
  pos : Nat
  why : Option Held
  load : Option HostMsg
deriving DecidableEq, Repr

/-- A LOAD_PLANE whose cores are still being loaded (R300, R392): its number and message, cores loaded, cores refused with their
reasons, and cores still to end. -/
structure PlaneLoad where
  id : Nat
  msg : HostMsg
  loaded : Nat
  refused : List (CoreId × Nat)
  left : Nat
deriving DecidableEq, Repr

/-- What the package sends to agents outside it. -/
inductive OutMsg where
  | completion (vf : BitVec 8) (addr : Word) (rkey : BitVec 32) (bytes : List Byte)
  | reply (vf : BitVec 8) (bytes : List Byte)
  | rdmaAck (vf : BitVec 8) (ok : Bool) (data : List Byte)
  | rdmaInvalid (vf : BitVec 8)
  | status (addr : Word) (rkey : BitVec 32) (bytes : List Byte)
  | fabric (chip : BitVec 21) (op : FabOp)
  | response (r : Response)
  | notice (dst : BitVec 21) (n : Notice)
  | count (root : BitVec 21) (key : Word) (n : BitVec 32)
  | phase (chip : BitVec 21) (key : Word)
  | cutConfirm (chip : BitVec 21) (part : BitVec 5) (n : BitVec 32)
  | migrate (chip : BitVec 21) (part : BitVec 5) (ia : Nat) (write : Bool)
  | bulkAnswer (chip : BitVec 21) (core : CoreId) (number : BitVec 32) (status : Status) (data : List Byte)
  | faultMessage (chip : BitVec 21) (bytes : List Byte)
  | managed (frame : Nat) (bytes : List Byte)
  | flit (p : Port) (f : BitVec 512)
  | segment (part : BitVec 5) (addr : Word) (bytes : List Byte)
  | commitC (tenant : Word) (c : Word)
  | timestamp (port : BitVec 2) (egress : Bool) (seqId : BitVec 16) (at_ : Word)
deriving DecidableEq, Repr

-- Reliability (R320, R323-R327)

/-- An injector (R325-R327): INJ-like configuration, its generator, and the partition it was set for. -/
structure Injector where
  cfg : Word
  gen : Word
  part : BitVec 5
deriving DecidableEq, Repr

/-- A log of corrected errors (R324): its records of 16 bytes, oldest first, and how many it has lost. -/
structure ErrLog where
  records : List (BitVec 128)
  lost : Word
deriving DecidableEq, Repr

/-- Filters, logs and samples of the package's memories (R320, R323, R324): the set bits of the eight stack and four hold-die
filters with the tick they were last cleared, CLRINT, the first and repeat logs and the records each holds, the sampling
exponent, the accesses each base die has counted and the sample ring. -/
structure Telemetry where
  filters : SMap Bool
  cleared : Vector Word 12
  clrint : Word
  first : ErrLog
  repeats : ErrLog
  logCap : Nat
  sampleK : BitVec 5
  accesses : SMap Nat
  samples : List (Nat × BitVec 5 × Bool × Word)
deriving DecidableEq, Repr

-- Time and power (R284, R395, R414-R417)

/-- Time and clocking: core cycles since reset, the cycle of the last discipline step, the step of the current cycle, the
status word's fields, whether TNOW was loaded and a LAUNCH accepted in this boot (R415), and PTP timestamps. -/
structure Clock where
  cycle : Nat
  lastStep : Option Nat
  step : Option Bool
  src : BitVec 8
  hold : Bool
  flock : Bool
  tlock : Bool
  loaded : Bool
  launched : Bool
deriving DecidableEq, Repr

/-- Power (R416, R417): cap, the level each controller has set for its basin, thermal conditions with what they have added to the level, the
number of the last window, and whether power is on. -/
structure Power where
  pcap : BitVec 16
  steal : Vector (BitVec 6) 4
  hot : Bool
  heat : BitVec 6
  throttle : Bool
  hot110 : Bool
  window : Nat
  on : Bool
deriving DecidableEq, Repr

/-- The harbourmaster's own state (R400-R410): last accepted operator sequence number, live reports, ephemeral keys ever made,
tenants, serial of the per-boot LMS tree, trees ever made (each key and tree is a new draw of the true random generator, in whichever boot:
R399, R401, R409), signatures made with the tree, next device leaf index, the leaf that endorsed the tree (none when they are used up),
the operator record of boot flash, the CREATE or DESTROY that waits for engine work to end (R404), and the requests behind it (log 146). -/
structure Harbour where
  seq : Word
  reports : List Report
  keys : Nat
  tenants : List Tenant
  tree : Nat
  trees : Nat
  signed : Nat
  leaf : BitVec 32
  endorsed : Option (BitVec 32)
  operator : List Byte
  busy : Option ReqMsg
  queue : List ReqMsg
deriving DecidableEq, Repr

/-- The state of one package. `gone` is how many of the messages of `out` every Ethernet port has had its turn to send (R389). -/
structure State where
  tnow : Word
  turn : Turn
  agenda : List Instr
  orders : List Outside
  choices : List Nat
  cores : Vector Core 2048
  hbm : PMem
  fw : List FwRecord
  bars : List Barrier
  l3 : List (Word × BitVec 21 × BitVec 32)
  parts : Vector Part 32
  capbase : Word
  window : List Byte
  chip : BitVec 21
  rings : Vector Nat 3
  groups : SMap (List (BitVec 21))
  farDown : List (BitVec 21 × Port)
  pages : SMap (BitVec 64)
  frames : SMap Nat
  handles : SMap (BitVec 256)
  rkeys : List Rkey
  nextKey : Nat
  faults : List PageFault
  nextFault : Nat
  ringTables : SMap (List (BitVec 32))
  wgt : Vector (BitVec 8) 4
  ports : Vector TorusPort 6
  sent : List Sent
  dups : List DupEntry
  heldOps : List HeldOp
  flying : List FabOp
  strays : List Packet
  bulks : List (Bulk × Option Held)
  lanes : List LaneFlit
  chunks : List (CoreId × Chunk)
  missed : List (CoreId × Chunk)
  hostOps : List HostOp
  nextHost : Nat
  hostWait : List (HostMsg × Nat)
  loads : List PlaneLoad
  nextLoad : Nat
  vfs : SMap Nat
  nets : SMap VfNet
  paused : BitVec 4
  pfcPrio : BitVec 3
  gone : Nat
  hostMem : PMem
  peerMem : PMem
  out : List OutMsg
  inj : SMap Injector
  tele : Telemetry
  clock : Clock
  power : Power
  harbour : Harbour
  boot : BootStop
  quays : BitVec 32
  hbmStacks : BitVec 8
deriving DecidableEq, Repr

-- Reset ---------------------------------------------------------------------------------------------------------------

/-- The register files after reset and at launch (R15): zero, no poison. -/
def Regs.reset : Regs :=
  ⟨Vector.replicate 32 0, 0, 0, 0, Vector.replicate 32 0, Vector.replicate 32 0, Vector.replicate 8 0, 0⟩

/-- The task CSRs after reset (R20, Table 2). -/
def Csrs.reset : Csrs :=
  { hm := false, hmx := false, hvx := false, pha := false, cause := 0, epc := 0, faddr := 0, hvec := 0, taskid := 0,
    tcyc := 0, slip := 0, latemax := 0, lc := Vector.replicate 2 0, le := Vector.replicate 2 0, ardom := 0,
    dom := Vector.replicate 3 0, dph := Vector.replicate 3 0, fpmode := 0, fpflags := 0, bnd := Vector.replicate 16 0,
    bndmode := 0, bndhit := 0, weight := 0, rootloc := 0, phbase := 0, srseed := 0, collto := 0 }

/-- A semaphore after reset (R23). -/
def Sem.reset : Sem := ⟨0, false, 0, false⟩
/-- A berth after reset (R25). -/
def Berth.reset : Berth := ⟨0, 0, false, false, false, false, 0, 0, false⟩
/-- The array after reset (R27, R46, R170): stores cleared, default tables, gate open. -/
def Mx.reset : Mx :=
  { acc := [], w0 := [], w1 := [], act := false, mcfg := 0, mcfgTail := 0, t0 := defaultTable, t1 := defaultTable, sticky := 0, fresh := 0,
    hoist := [], popAt := 0, popped := 0, items := [], work := [], parked := [], gate := .isOpen, gateParked := false, loadDue := 0, otherDue := 0, gateAr := [], drainTraps := [], parkedTraps := [], nextSeq := 10, parkSeq := 10 }

/-- A core after reset: idle, every register and memory zero (R13, R15, R19, R23, R25, R27). -/
def Core.reset : Core :=
  { regs := .reset, csr := .reset, bank := ⟨Vector.replicate 8 0, 0, Vector.replicate 4 0⟩, pc := 0, via := none, run := .idle,
    origin := false, task := 0, bubble := false, bundle := none, freeze := none, first := none, relT := none, entering := none, landing := none, ct := 0, mt := 0, pend := [], buf := [],
    arrivals := [], releases := [], lastArr := Vector.replicate 3 none, phase := none, part := 0, inj := 0,
    sems := Vector.replicate 64 .reset, berths := Vector.replicate 32 .reset, sp := .empty, hold := .empty, holdErr := [],
    planes := Vector.replicate 2 .empty, act := false, shrdy := false, swreq := false, loading := none, spawnq := [],
    spawnAt := none, spawnSeq := 0, missed := 0, suspended := none, resumeWait := false, exits := [],
    mx := .reset, queue := [], nextCmd := 0, nextTask := 1, fences := [], cache := [], caps := Vector.replicate 64 0,
    sweep := none, context := [], fabSeq := [], ranges := [], notes := [], laneConf := 0, faultRecs := 0, spCorr := 0, accCorr := 0, gen := 1 }

/-- A capability entry (R419, Table 5). -/
def capEntry (id next : Nat) (body : List Byte) : List Byte :=
  bytesOf id 2 ++ [1, 0] ++ bytesOf (16 + body.length) 2 ++ [0, 0] ++ bytesOf next 2 ++ List.replicate 6 0 ++ body

/-- The capability window of D2048-A1 (R419, R420): the entries of Table 6, one after another from offset 16. -/
def windowOf (quays : BitVec 32) (hbmStacks : BitVec 8) (pcap : BitVec 16) (sec : BitVec 32 × BitVec 32) : List Byte :=
  List.replicate 16 0
    ++ capEntry 1 48 (bytesOf 0x5A1C03E977D2B4F0 8 ++ bytesOf 0x00A1 2 ++ List.replicate 6 0)
    ++ capEntry 2 80 (bytesOf quays.toNat 4 ++ List.replicate 12 0)
    ++ capEntry 3 112 (bytesOf hbmStacks.toNat 1 ++ List.replicate 3 0 ++ bytesOf 48 4 ++ List.replicate 8 0)
    ++ capEntry 4 144 ([0x3F, 0x0F] ++ List.replicate 14 0)
    ++ capEntry 5 176 (bytesOf pcap.toNat 2 ++ bytesOf 2400 2 ++ List.replicate 12 0)
    ++ capEntry 6 0 (bytesOf sec.1.toNat 4 ++ bytesOf sec.2.toNat 4 ++ List.replicate 8 0)

/-- Logs and filters after reset. -/
def Telemetry.reset : Telemetry :=
  { filters := [], cleared := Vector.replicate 12 0, clrint := 0x100000, first := ⟨[], 0⟩, repeats := ⟨[], 0⟩, logCap := 4096,
    sampleK := 20, accesses := [], samples := [] }

/-- The clock after reset (R284, Table 6 of chapter 14). -/
def Clock.reset : Clock :=
  { cycle := 0, lastStep := none, step := none, src := 0, hold := false, flock := false, tlock := false, loaded := false,
    launched := false }

/-- The power controllers after reset. -/
def Power.reset : Power :=
  { pcap := 2400, steal := Vector.replicate 4 0, hot := false, heat := 0, throttle := false, hot110 := false, window := 0, on := true }

/-- The harbourmaster after reset (R403, R410). -/
def Harbour.reset : Harbour := { seq := 0, reports := [], keys := 0, tenants := [], tree := 0, trees := 0, signed := 0, leaf := 1, endorsed := some 0, operator := Config.operatorKey, busy := none, queue := [] }

/-- The machine right after the reset sequence (R414): every memory and table cleared, every core idle, every frame free. -/
def State.reset : State :=
  { tnow := 0, turn := .core 0, agenda := [], orders := [], choices := [], cores := Vector.replicate 2048 .reset, hbm := .empty, fw := [],
    bars := [], l3 := [], parts := Vector.replicate 32 .empty, capbase := 16,
    window := windowOf 0xFFFFFFFF 0xFF 2400 securityVersions, chip := 0, rings := Vector.replicate 3 1, groups := [], farDown := [], pages := [],
    frames := [], handles := [], rkeys := [], nextKey := 0, faults := [], nextFault := 0, ringTables := [],
    wgt := #v[8, 4, 2, 1], ports := Vector.replicate 6 .reset, sent := [], dups := [], heldOps := [], flying := [], strays := [], bulks := [], lanes := [], chunks := [], missed := [],
    hostOps := [], nextHost := 0, hostWait := [], loads := [], nextLoad := 0, vfs := [], nets := [], paused := 0, pfcPrio := 0, gone := 0, hostMem := .empty, peerMem := .empty, out := [], inj := [], tele := .reset,
    clock := .reset, power := .reset, harbour := .reset, boot := .none, quays := 0xFFFFFFFF, hbmStacks := 0xFF }

end Sys2Proof.Machine
end

