-- ==== Sys2Proof/Machine/Access.lean ====
section
/-! DEFINITION. The named operations over registers and core memories: reading (R15, R16, R90), landing (R85), stores of the
program thread and when other agents see them (R122, R163, R266), semaphores (R23, R24), choices the spec leaves open. -/
namespace Sys2Proof.Machine
open Sys2Proof

-- The package's parts -------------------------------------------------------------------------------------------------

/-- A core of the package. -/
def State.core (s : State) (c : CoreId) : Core := s.cores[c.toNat]'(c.isLt)
/-- Replaces a core. -/
def State.setCore (s : State) (c : CoreId) (k : Core) : State := { s with cores := s.cores.set c.toNat k c.isLt }
/-- Changes a core. -/
def State.modCore (s : State) (c : CoreId) (f : Core → Core) : State := s.setCore c (f (s.core c))

/-- The core whose turn it is; core 0 in the package's own turn. -/
def State.cur (s : State) : CoreId :=
  match s.turn with
  | .core c => c | .trim c => c | .eng c => c | .pkg => 0

/-- The next choice among outcomes the spec allows (log 2); 0 when none is given. -/
def State.choice (s : State) : Nat := s.choices.headD 0
/-- Consumes a choice. -/
def State.chosen (s : State) : State := { s with choices := s.choices.tail }

/-- Row of a core (R3). -/
def coreY (c : CoreId) : Nat := c.toNat / 64
/-- Column of a core (R3). -/
def coreX (c : CoreId) : Nat := c.toNat % 64
/-- Basin of a core (R3, Table 1). -/
def coreBasin (c : CoreId) : Nat := coreX c / 32 + 2 * (coreY c / 16)
/-- Quay of a core (R3, Table 1). -/
def coreQuay (c : CoreId) : Nat := coreX c / 8 + 8 * (coreY c / 8)
/-- The core at position i of a quay (R216). -/
def quayCore (q i : Nat) : CoreId := BitVec.ofNat 11 ((q / 8 * 8 + i / 8) * 64 + (q % 8 * 8 + i % 8))
/-- Whether a partition owns a core (R404): its quay was named at CREATE. -/
def State.ownsCore (s : State) (p : BitVec 5) (c : CoreId) : Bool :=
  let t := s.parts[p.toNat]'(p.isLt)
  t.state != .none && bit t.quays (coreQuay c)

/-- All cores in ascending id. -/
def allCores : List CoreId := (List.range 2048).map (BitVec.ofNat 11)

/-- A counter of R394: 64 bits, saturating. -/
def satAdd (a : Word) (n : Nat) : Word := if a.toNat + n < 2 ^ 64 then a + BitVec.ofNat 64 n else BitVec.allOnes 64

/-- Counts a fault record of a core (R394). -/
def Core.countRecord (k : Core) : Core := { k with faultRecs := satAdd k.faultRecs 1 }
/-- Posts a fault record of a core to the firmware (R14, R289, R291). -/
def State.postRecord (s : State) (c : CoreId) (r : FwRecord) : State := { s.modCore c Core.countRecord with fw := s.fw ++ [r] }

-- Bytes and granules --------------------------------------------------------------------------------------------------

/-- The 256-bit mask of a byte mask. -/
def wideMask (m : BitVec 32) : Gran :=
  (List.range 32).foldl (fun acc i => if m.getLsbD i then acc ||| (0xFF#256 <<< (8 * i)) else acc) 0#256

/-- Bytes of `new` where the mask is set, of `old` elsewhere. -/
def merge (old new : Gran) (m : BitVec 32) : Gran := (old &&& ~~~ wideMask m) ||| (new &&& wideMask m)

/-- Writes the masked bytes of a granule of a memory, and its poison where it changes. -/
def PMem.mergeGran (m : PMem) (g : Nat) (v : Gran) (mask : BitVec 32) (poison : Option Bool) : PMem :=
  let m1 := m.writeBytes (32 * g) (bytesOf (merge (m.gran g) v mask).toNat 32)
  match poison with
  | none => m1
  | some b => m1.setPoison g b

/-- A byte mask of `n` bytes from byte `o` of a granule. -/
def runMask (o n : Nat) : BitVec 32 := BitVec.ofNat 32 ((2 ^ n - 1) * 2 ^ o)

/-- The core memory a flag names: the hold, or the scratchpad. -/
def Core.mem (k : Core) (hold : Bool) : PMem := if hold then k.hold else k.sp
/-- Replaces a core memory. -/
def Core.setMem (k : Core) (hold : Bool) (m : PMem) : Core := if hold then { k with hold := m } else { k with sp := m }

/-- A granule as the program thread sees it when its home reads as `home`: under the stores it alone sees so far (R262, R266). -/
def Core.viewOver (k : Core) (hold : Bool) (g : Nat) (home : Gran × Bool) : Gran × Bool :=
  k.buf.foldl (fun v b => if b.hold == hold && b.gran == g then (merge v.1 b.val b.mask, b.poison.getD v.2) else v) home

/-- A granule as the program thread sees it. -/
def Core.viewGran (k : Core) (hold : Bool) (g : Nat) : Gran × Bool := k.viewOver hold g ((k.mem hold).gran g, (k.mem hold).poisoned g)

/-- `n` bytes at `off` of a core memory as the program thread sees them, little-endian, inside one granule; with the
granule's poison. -/
def Core.viewBytes (k : Core) (hold : Bool) (off n : Nat) : Nat × Bool :=
  let v := k.viewGran hold (off / 32)
  ((v.1.toNat >>> (8 * (off % 32))) % 2 ^ (8 * n), v.2)

/-- Any run of bytes as the program thread sees it, granule by granule, with the poisoned granules it touches. -/
def Core.viewRun (k : Core) (hold : Bool) (off n : Nat) : List Byte × Bool :=
  let gs := (List.range ((off + n + 31) / 32 - off / 32)).map (fun i => k.viewGran hold (off / 32 + i))
  let bs := gs.foldr (fun v acc => bytesOf v.1.toNat 32 ++ acc) []
  ((bs.drop (off % 32)).take n, gs.any (fun v => v.2))

-- Registers -----------------------------------------------------------------------------------------------------------

/-- Bit `i` of a vector set to `b`. -/
def putBit {n : Nat} (v : BitVec n) (i : Nat) (b : Bool) : BitVec n :=
  if b then v ||| (1#n <<< i) else v &&& ~~~ (1#n <<< i)

/-- Whether X register `n` is one of the handler bank now (R19). -/
def Core.banked (k : Core) (n : Reg) : Bool := k.csr.hm && decide (n.toNat ≥ 24)

/-- The handler-bank index of X24..X31. -/
def bankIx (n : Reg) : BitVec 3 := n.extractLsb' 0 3

/-- read_x (R90): X0 reads 0 (R15); X24..X31 are the handler's in handler mode (R19). -/
def Core.readX (k : Core) (n : Reg) : XW :=
  if n = 0 then ⟨0, false⟩
  else if k.banked n then ⟨k.bank.x[(bankIx n).toNat]'((bankIx n).isLt), k.bank.xp.getLsbD (bankIx n).toNat⟩
  else ⟨k.regs.x[n.toNat]'(n.isLt), k.regs.xp.getLsbD n.toNat⟩

/-- A predicate: P0 reads 1 (R15). -/
def Core.readP (k : Core) (n : BitVec 3) : Bool := n == 0 || k.regs.p.getLsbD n.toNat
/-- A predicate's poison. -/
def Core.poisonP (k : Core) (n : BitVec 3) : Bool := n != 0 && k.regs.pp.getLsbD n.toNat
/-- A lane mask: K0 reads all ones (R15). -/
def Core.readK (k : Core) (n : BitVec 3) : BitVec 128 := if n = 0 then BitVec.allOnes 128 else k.regs.k[n.toNat]'(n.isLt)
/-- A lane mask's poison. -/
def Core.poisonK (k : Core) (n : BitVec 3) : Bool := n != 0 && k.regs.kp.getLsbD n.toNat
/-- A vector register. -/
def Core.readV (k : Core) (n : Reg) : BitVec 1024 := k.regs.v[n.toNat]'(n.isLt)
/-- The poison of a vector register's 16 granules. -/
def Core.poisonV (k : Core) (n : Reg) : BitVec 16 := k.regs.vp[n.toNat]'(n.isLt)

/-- Writes X register `n` of the task's file. -/
def Regs.setX (r : Regs) (n : Reg) (v : Word) (p : Bool) : Regs :=
  { r with x := r.x.set n.toNat v n.isLt, xp := putBit r.xp n.toNat p }
/-- Writes granule `g` of vector register `n`. -/
def Regs.setV (r : Regs) (n : Reg) (g : BitVec 4) (v : Word) (p : Bool) : Regs :=
  let old := r.v[n.toNat]'(n.isLt)
  let sh := 64 * g.toNat
  let new := (old &&& ~~~ ((BitVec.ofNat 1024 (2 ^ 64 - 1)) <<< sh)) ||| ((v.setWidth 1024) <<< sh)
  { r with v := r.v.set n.toNat new n.isLt, vp := r.vp.set n.toNat (putBit (r.vp[n.toNat]'(n.isLt)) g.toNat p) n.isLt }
/-- Writes a predicate; P0 discards (R16). -/
def Regs.setP (r : Regs) (n : BitVec 3) (v p : Bool) : Regs :=
  if n = 0 then r else { r with p := putBit r.p n.toNat v, pp := putBit r.pp n.toNat p }
/-- Writes a lane mask; K0 discards (R16). -/
def Regs.setK (r : Regs) (n : BitVec 3) (v : BitVec 128) (p : Bool) : Regs :=
  if n = 0 then r else { r with k := r.k.set n.toNat v n.isLt, kp := putBit r.kp n.toNat p }

/-- Where a write of X register `n` goes (R19). -/
def Core.xDest (k : Core) (n : Reg) : PDest := if k.banked n then .hx (bankIx n) else .x n

-- Accumulator cells and weight cells ----------------------------------------------------------------------------------

/-- One accumulator element; `i` is 64·row + column. -/
def Mx.el (m : Mx) (i : Nat) : AccEl := SMap.get .zero m.acc i
/-- Writes one accumulator element. -/
def Mx.setEl (m : Mx) (i : Nat) (e : AccEl) : Mx := { m with acc := SMap.set .zero m.acc i e }
/-- The weight plane a flag names. -/
def Mx.plane (m : Mx) (b : Bool) : SMap EForm := if b then m.w1 else m.w0
/-- Replaces a weight plane. -/
def Mx.setPlane (m : Mx) (b : Bool) (w : SMap EForm) : Mx := if b then { m with w1 := w } else { m with w0 := w }

-- Homes ---------------------------------------------------------------------------------------------------------------

/-- A store's effect at the home: the hold re-encodes its check bits; an error found uncorrectable stays as poison unless the whole word is
written, and a miscorrected word is merged as it reads (R122, R328). -/
def Core.performHome (k : Core) (hold : Bool) (g : Nat) (v : Gran) (mask : BitVec 32) (poison : Option Bool) : Core :=
  let errs := if hold then SMap.get 0 k.holdErr g else 0
  if errs = 0 then k.setMem hold ((k.mem hold).mergeGran g v mask poison)
  else
    let m0 := if errs == 3 then k.hold.mergeGran g (Config.eccMiscorrect g) (BitVec.allOnes 32) none else k.hold
    let m1 := m0.mergeGran g v mask poison
    let logs := errs == 1 || (errs == 3 && !Config.eccReported g && Config.eccCorrected g)
    { k with hold := if (errs == 2 || (errs == 3 && Config.eccReported g)) && mask != BitVec.allOnes 32 then m1.setPoison g true else m1,
             holdErr := SMap.set 0 k.holdErr g 0, notes := if logs && mask != BitVec.allOnes 32 then k.notes ++ [g] else k.notes }

/-- Whether a buffered store has a later one to its granule among those `p` selects: it then must not be overtaken. -/
def mustFlush (p : Buffered → Bool) : List Buffered → List Buffered
  | [] => []
  | b :: rest => if p b || (rest.any (fun e => p e && e.hold == b.hold && e.gran == b.gran)) then b :: mustFlush p rest else mustFlush p rest

/-- The buffered stores that stay. -/
def mayStay (p : Buffered → Bool) : List Buffered → List Buffered
  | [] => []
  | b :: rest => if p b || (rest.any (fun e => p e && e.hold == b.hold && e.gran == b.gran)) then mayStay p rest else b :: mayStay p rest

/-- Performs for all agents the buffered stores `p` selects, in program order within each granule (R266). -/
def Core.flush (k : Core) (p : Buffered → Bool) : Core :=
  (mustFlush p k.buf).foldl (fun k b => k.performHome b.hold b.gran b.val b.mask b.poison) { k with buf := mayStay p k.buf }

/-- Performs every buffered store: a release that covers every class (R266 item 3). -/
def Core.flushAll (k : Core) : Core := k.flush (fun _ => true)

-- Landing -------------------------------------------------------------------------------------------------------------

/-- Writes a landed result into its granule (R85). X0 discards (R16). -/
def Core.writeDest (k : Core) (d : PDest) (v : Gran) (p : Bool) : Core :=
  match d with
  | .x n => if n = 0 then k else { k with regs := k.regs.setX n (v.setWidth 64) p }
  | .hx n => { k with bank := { k.bank with x := k.bank.x.set n.toNat (v.setWidth 64) n.isLt, xp := putBit k.bank.xp n.toNat p } }
  | .v n g => { k with regs := k.regs.setV n g (v.setWidth 64) p }
  | .k n => { k with regs := k.regs.setK n (v.setWidth 128) p }
  | .gran hold g mask =>
    let e := SMap.get 0 k.holdErr g
    let logs := hold && mask == BitVec.allOnes 32 && (e == 1 || (e == 3 && !Config.eccReported g && Config.eccCorrected g))
    (({ k with notes := if logs then k.notes ++ [g] else k.notes } : Core).flush (fun b => b.hold == hold && b.gran == g)).performHome hold g v mask
      (if p then some true else if mask = BitVec.allOnes 32 then some false else none)
  | .cell b i => { k with mx := k.mx.setPlane b (SMap.set .zeroCell (k.mx.plane b) i ⟨v.setWidth 16, p⟩) }
  | .acc i => { k with mx := k.mx.setEl i ⟨v.setWidth 64, v.getLsbD 64, p⟩ }

/-- What is left of a pending result once a later-issued write has been made to its granule (R85): nothing, or for a memory
granule the bytes that write did not make. -/
def Pend.under (e : Pend) (d : PDest) : Option Pend :=
  match e.dest, d with
  | .gran h g m, .gran h' g' m' =>
    if h == h' && g == g' then
      (let left := m &&& ~~~ m'; if left = 0 then none else some { e with dest := .gran h g left })
    else some e
  | a, b => if a = b then none else some e

/-- Drops what a write to `d` supersedes among pending results. -/
def supersede (ps : List Pend) (d : PDest) : List Pend := ps.filterMap (fun e => e.under d)

/-- A write that lands at once: it supersedes every pending result of the granule. -/
def Core.landNow (k : Core) (d : PDest) (v : Gran) (p : Bool) : Core :=
  ({ k with pend := supersede k.pend d }).writeDest d v p

/-- Issues a result with its landing bound in task cycles (R85): it lands at once when the bound is one cycle, else later. -/
def Core.land (k : Core) (d : PDest) (v : Gran) (p : Bool) (bound : Nat) : Core :=
  if bound ≤ 1 then k.landNow d v p
  else { k with pend := k.pend ++ [⟨d, v, p, k.ct + bound, false, 0⟩] }

/-- Lands the pending result at position `i`: results of the same granule issued before it are superseded (R85). -/
def Core.landAt (k : Core) (i : Nat) : Core :=
  match k.pend[i]? with
  | none => k
  | some e => ({ k with pend := supersede (k.pend.take i) e.dest ++ k.pend.drop (i + 1) }).writeDest e.dest e.val e.poison

/-- Position of the first pending result whose bound has come. -/
def Core.dueIx (k : Core) : Option Nat := k.pend.findIdx? (fun e => decide (e.due ≤ if e.mx then k.mt else k.ct))

/-- Whether two destinations have a granule in common. -/
def PDest.meets (a b : PDest) : Bool :=
  match a, b with
  | .gran h g _, .gran h' g' _ => h == h' && g == g'
  | a, b => decide (a = b)

/-- Whether the slot of an arrival has retired (R70): its bound has come, or its results have landed. -/
def Core.retired (k : Core) (a : Arrival) : Bool :=
  decide (a.due ≤ k.ct) || (!a.waits.isEmpty && !k.pend.any (fun e => a.waits.any (fun d => d.meets e.dest)))

/-- Lands every pending result, in issue order (R87). -/
def Core.landAll (k : Core) : Core :=
  k.pend.foldl (fun k e => k.writeDest e.dest e.val e.poison) { k with pend := [] }

/-- Writes X register `n` with landing bound `bound` (write_x, R90). X0 discards (R16). -/
def Core.writeX (k : Core) (n : Reg) (v : XW) (bound : Nat) : Core :=
  if n = 0 then k else k.land (k.xDest n) (v.val.setWidth 256) v.poison bound

/-- Writes X register `n` with the result of an MX instruction that lands `bound` cycles of the array later (R184, R188). X0 discards
(R16). -/
def Core.writeXm (k : Core) (n : Reg) (v : XW) (bound : Nat) : Core :=
  let k1 := if n = 0 then k else { k with pend := k.pend ++ [⟨k.xDest n, v.val.setWidth 256, v.poison, k.mt + bound, true, 0⟩] }
  { k1 with mx := { k1.mx with otherDue := max k1.mx.otherDue (k.mt + bound) } }

/-- Writes lane mask `n` with landing bound `bound`. K0 discards (R16). All 128 bits land as one granule: R85 speaks of 64-bit granules and gives a K
register one poison bit, and does not say whether its halves may land apart (log 152). -/
def Core.writeK (k : Core) (n : BitVec 3) (v : BitVec 128) (p : Bool) (bound : Nat) : Core :=
  if n = 0 then k else k.land (.k n) (v.setWidth 256) p bound

-- Stores of the program thread ----------------------------------------------------------------------------------------

/-- Marks bytes stored by the program thread in the queued matrix instructions, whose older writes they outlive (R85). -/
def Mx.overwrite (m : Mx) (hold : Bool) (g : Nat) (mask : BitVec 32) : Mx :=
  { m with items := m.items.map (fun it =>
      let key := 2 * g + hold.toNat
      { it with cover := SMap.set 0 it.cover key (SMap.get 0 it.cover key ||| mask) }) }

/-- Performs a store for the program thread (R84, R123, R163). `late` keeps it from other agents for now (R266). -/
def Core.store (k : Core) (hold : Bool) (g : Nat) (v : Gran) (mask : BitVec 32) (poison : Option Bool) (cls : BitVec 4)
    (now : Word) (late : Bool) : Core :=
  let k1 := { k with pend := supersede k.pend (.gran hold g mask), mx := k.mx.overwrite hold g mask }
  if late || k1.buf.any (fun b => b.hold == hold && b.gran == g) then
    { k1 with buf := k1.buf ++ [⟨g, v, mask, poison, hold, cls, now⟩] }
  else k1.performHome hold g v mask poison

-- Semaphores ----------------------------------------------------------------------------------------------------------

/-- A signed add with saturation at 0 and 2^32 - 1 (R23, R239). -/
def Sem.add (m : Sem) (a : Int) : Sem :=
  let v : Int := m.val.toNat + a
  if v < 0 then { m with val := 0, sat := true }
  else if v > 4294967295 then { m with val := 0xFFFFFFFF, sat := true }
  else { m with val := BitVec.ofInt 32 v }

/-- SEMST (R23, Table 7). -/
def Sem.status (m : Sem) : BitVec 32 := 0#15 ++ bitOf 1 m.sat ++ 0#7 ++ m.err ++ bitOf 1 m.done

/-- Clears DONE, ERR and SAT (R242). -/
def Sem.clear (m : Sem) : Sem := { m with sat := false, err := 0, done := false }

/-- Status codes (R203, Table 3). -/
def statusCode (s : Status) : Nat :=
  match s with
  | .ok => 0 | .poison => 1 | .timeout => 2 | .rights => 3 | .page => 4 | .partial_ => 5 | .record => 6 | .aborted => 7 | .link => 8

/-- An engine completion's effect on its semaphore: DONE and the ERR bit first, then the add of 1 (R24). -/
def Sem.complete (m : Sem) (s : Status) : Sem :=
  let e := if statusCode s = 0 then m.err else m.err ||| (1#8 <<< (statusCode s - 1))
  ({ m with done := true, err := e }).add 1

/-- A semaphore of a core. -/
def Core.sem (k : Core) (n : BitVec 6) : Sem := k.sems[n.toNat]'(n.isLt)
/-- Changes a semaphore of a core. -/
def Core.modSem (k : Core) (n : BitVec 6) (f : Sem → Sem) : Core := { k with sems := k.sems.set n.toNat (f (k.sem n)) n.isLt }
/-- A berth of a core. -/
def Core.berth (k : Core) (n : BitVec 5) : Berth := k.berths[n.toNat]'(n.isLt)
/-- Changes a berth of a core. -/
def Core.modBerth (k : Core) (n : BitVec 5) (f : Berth → Berth) : Core :=
  { k with berths := k.berths.set n.toNat (f (k.berth n)) n.isLt }

/-- sr_draw (R142): the next SRSEED; the draw is its low 32 bits. -/
def srNext (seed : Word) : Word :=
  let x0 := if seed = 0 then 1 else seed
  let x1 := x0 ^^^ (x0 <<< 13)
  let x2 := x1 ^^^ (x1 >>> 7)
  x2 ^^^ (x2 <<< 17)

-- Error injection (R325, R326) ----------------------------------------------------------------------------------------

/-- The bit of INJ that enables a memory. -/
def InjMem.bit (m : InjMem) : Nat := match m with | .hold => 1 | .pad => 2 | .hbm => 3 | .acc => 4

/-- One draw of an injector whose configuration has the layout of INJ (R325, R326): the next generator and configuration, and, when
the access is corrupted, whether it becomes uncorrectable. -/
def injectDraw (cfg gen : Word) : Word × Word × Option Bool :=
  let x := srNext gen
  if (fld x 32 32 : BitVec 32).ult (fld cfg 32 32) then
    let n : BitVec 16 := fld cfg 16 16
    let cfg1 := if n = 0xFFFF then cfg else cfg + 0x10000
    (x, cfg1, some (match (fld cfg 6 2).toNat with | 0 => false | 1 => true | 2 => Sys2Proof.bit x 12 | _ => false))
  else (x, cfg, none)

/-- Whether a core's injector is on for a memory. -/
def Core.injects (k : Core) (m : InjMem) : Bool := bit k.inj 0 && bit k.inj m.bit

/-- Poisons a check word as an uncorrectable injection does (R326), or counts a corrected error of the scratchpad or the accumulator
store (R323). -/
def Core.injected (k : Core) (m : InjMem) (g : Nat) (bad : Bool) : Core :=
  match m, bad with
  | .hold, true => { k with hold := k.hold.setPoison g true }
  | .pad, true => { k with sp := k.sp.setPoison g true }
  | .acc, true => { k with mx := k.mx.setEl g { k.mx.el g with poison := true } }
  | .pad, false => { k with spCorr := satAdd k.spCorr 1 }
  | .acc, false => { k with accCorr := satAdd k.accCorr 1 }
  | _, _ => k

/-- The draw of one read of a core's own memory (R326); whether it was corrected. -/
def Core.injectRead (k : Core) (m : InjMem) (g : Nat) : Core × Bool :=
  if !k.injects m then (k, false)
  else
    let d := injectDraw k.inj k.gen
    let k1 := { k with gen := d.1, inj := d.2.1 }
    match d.2.2 with | none => (k1, false) | some b => (k1.injected m g b, !b)

/-- The draws of the reads of some check words, in order. -/
def Core.injectReads (k : Core) (m : InjMem) (gs : List Nat) : Core := gs.foldl (fun k g => (k.injectRead m g).1) k

/-- The draws a list of effects makes. -/
def drawsOf (as : List Action) : List (InjMem × List Nat) := as.filterMap (fun a => match a with | .drawn m gs => some (m, gs) | _ => none)

/-- The core as a slot's read finds it once its draws are made, after those of the earlier slots of its bundle: a word that becomes
uncorrectable reads poisoned (R326). -/
def Core.afterDraws (k : Core) (m : InjMem) (gs : List Nat) : Core :=
  if !k.injects m then k
  else
    let before : List SlotOut := match k.bundle with | some b => b.outs.map (·.2) | none => []
    let ds := before.flatMap (fun o => match o with | .ok as => drawsOf as | _ => [])
    (ds.foldl (fun k d => k.injectReads d.1 d.2) k).injectReads m gs

/-- The granules a run of bytes meets. -/
def granList (off n : Nat) : List Nat := (List.range ((off + n + 31) / 32 - off / 32)).map (fun i => off / 32 + i)

-- Planes --------------------------------------------------------------------------------------------------------------

/-- A plane by its index. -/
def Core.plane (k : Core) (b : Bool) : Plane := if b then k.planes[1] else k.planes[0]
/-- Changes a plane. -/
def Core.modPlane (k : Core) (b : Bool) (f : Plane → Plane) : Core :=
  if b then { k with planes := k.planes.set 1 (f k.planes[1]) } else { k with planes := k.planes.set 0 (f k.planes[0]) }
/-- The active plane. -/
def Core.active (k : Core) : Plane := k.plane k.act
/-- A little-endian field of a plane at a plane offset. -/
def Plane.field (p : Plane) (off n : Nat) : Nat := leNat (p.bytes.readRun off n)
/-- CODELEN (R88, Table 16). -/
def Plane.codelen (p : Plane) : Nat := p.field 0x15008 4
/-- A 32-bit word of the code region. -/
def Plane.word (p : Plane) (off : Nat) : BitVec 32 := BitVec.ofNat 32 (p.field off 4)
/-- Whether an offset is a marked header (R89). -/
def Plane.marked (p : Plane) (off : Nat) : Bool := p.marks.contains off

end Sys2Proof.Machine
end

