-- ==== Sys2Proof/Machine/Flags.lean ====
section
/-! DEFINITION. Conditions and truth tables (R111-R117): what compares, PLOG and KLOG compute. -/
namespace Sys2Proof.Machine
open Sys2Proof

/-- A value at a compare width, sign-extended or zero-extended (R111). -/
def CmpSize.bits (z : CmpSize) : Nat := match z with | .d => 64 | .w => 32 | .h => 16 | .b => 8

/-- The condition on two operands of `n` bits (R111, Table 5). -/
def condHolds (c : Cond) {n : Nat} (a b : BitVec n) : Bool :=
  match c with
  | .eq => a == b | .ne => a != b | .lt => a.slt b | .ge => b.sle a | .ltn => a.ult b | .gen => b.ule a
  | .le => a.sle b | .gt => b.slt a | .len => a.ule b | .gtn => b.ult a
  | .tst => (a &&& b) != 0 | .ntst => (a &&& b) == 0

/-- A compare at its width (R111). -/
def compareAt (c : Cond) (z : CmpSize) (a b : Word) : Bool :=
  match z with
  | .d => condHolds c a b
  | .w => condHolds c (a.setWidth 32) (b.setWidth 32)
  | .h => condHolds c (a.setWidth 16) (b.setWidth 16)
  | .b => condHolds c (a.setWidth 8) (b.setWidth 8)

/-- tt[2a + b] of a 4-bit truth table (R113). -/
def truth (tt : BitVec 4) (a b : Bool) : Bool := tt.getLsbD (2 * a.toNat + b.toNat)

/-- A truth table on every bit of two masks (R115). -/
def truthMask (tt : BitVec 4) (a b : BitVec 128) : BitVec 128 :=
  (if tt.getLsbD 0 then ~~~ a &&& ~~~ b else 0) ||| (if tt.getLsbD 1 then ~~~ a &&& b else 0)
    ||| (if tt.getLsbD 2 then a &&& ~~~ b else 0) ||| (if tt.getLsbD 3 then a &&& b else 0)

/-- The mask whose first `n` bits are set (R116). -/
def firstBits (n : Word) : BitVec 128 := if n.toNat ≥ 128 then BitVec.allOnes 128 else BitVec.ofNat 128 (2 ^ n.toNat - 1)

/-- Number of set bits j·w of a mask (R117). -/
def countLanes (k : BitVec 128) (w : Nat) : Nat := ((List.range (128 / w)).filter (fun j => k.getLsbD (j * w))).length

/-- Index of the lowest set bit, 128 if none (R117). -/
def lowestBit (k : BitVec 128) : Nat := ((List.range 128).find? (fun j => k.getLsbD j)).getD 128

end Sys2Proof.Machine
end

