-- ==== Sys2Proof/Machine/Array.lean ====
section
/-! DEFINITION. The array (R169-R195): contributions and semirings (R47-R51), the queue's start rule (R173), rows entering,
drains, the hoist FIFO, the power gate, parking, and the matrix record. -/
namespace Sys2Proof.Machine
open Sys2Proof

-- MCFG (R176, Table 3) ------------------------------------------------------------------------------------------------

/-- SEMI. -/
def mcSemi (m : BitVec 32) : Nat := (fld m 0 3).toNat
/-- WFMT. -/
def mcWfmt (m : BitVec 32) : Nat := (fld m 4 4).toNat
/-- AFMT. -/
def mcAfmt (m : BitVec 32) : Nat := (fld m 8 4).toNat
/-- PAIR. -/
def mcPair (m : BitVec 32) : Bool := bit m 12
/-- TSEL. -/
def mcTsel (m : BitVec 32) : Bool := bit m 13
/-- ALSB, signed. -/
def mcAlsb (m : BitVec 32) : Int := (fld m 16 8).toInt
/-- DFMT. -/
def mcDfmt (m : BitVec 32) : Nat := (fld m 24 4).toNat
/-- Whether an MCFG word is valid (R176). -/
def mcValid (m : BitVec 32) : Bool :=
  decide (mcSemi m ≤ 4) && decide (mcWfmt m ≤ 5) && decide (mcAfmt m ≤ 13) && decide (mcDfmt m ≤ 8)
    && !bit m 3 && (fld m 14 2 == 0#2) && (fld m 28 4 == 0#4)
/-- Formats that pair mode takes (R61). -/
def pairFmt (f : Nat) : Bool := f == 0 || f == 1 || f == 6
/-- Whether the word asks for pair rate and its formats allow it (R61). -/
def mcPaired (m : BitVec 32) : Bool := mcPair m && pairFmt (mcWfmt m) && pairFmt (mcAfmt m)

-- Sticky bits of MSTAT[31:24] (R188, Table 5) -------------------------------------------------------------------------

/-- RANGE. -/
def stRange : BitVec 8 := 0x01#8
/-- UNDER. -/
def stUnder : BitVec 8 := 0x02#8
/-- OVF. -/
def stOvf : BitVec 8 := 0x04#8
/-- PAIRX. -/
def stPairx : BitVec 8 := 0x08#8
/-- OSAT. -/
def stOsat : BitVec 8 := 0x10#8
/-- OZERO. -/
def stOzero : BitVec 8 := 0x20#8
/-- GCANCEL. -/
def stGcancel : BitVec 8 := 0x40#8
/-- LOST. -/
def stLost : BitVec 8 := 0x80#8
/-- The sticky bits of a conversion. -/
def stOf (s : Sticky) : BitVec 8 := (if s.osat then stOsat else 0) ||| (if s.ozero then stOzero else 0)
/-- ORs sticky bits into MSTAT: events of this cycle. -/
def Mx.stick (m : Mx) (b : BitVec 8) : Mx := { m with fresh := m.fresh ||| b }
/-- MSTAT[31:24]. -/
def Mx.events (m : Mx) : BitVec 8 := m.sticky ||| m.fresh
/-- The end of a cycle: what it raised no longer survives a clear (R188). -/
def Mx.age (m : Mx) : Mx := { m with sticky := m.events, fresh := 0 }

-- Cells ---------------------------------------------------------------------------------------------------------------

/-- What a LINEAR contribution is (R47). -/
inductive Contrib where
  | poison | nar | skip | value (c : Int)
deriving DecidableEq, Repr

/-- contribution (R47), with its sticky bits. -/
def contribution (ew ea : EForm) (alsb : Int) (tbl : List (BitVec 16)) : Contrib × BitVec 8 :=
  if ew.poison || ea.poison then (.poison, 0)
  else if ew.nar || ea.nar then (.nar, 0)
  else if ew.zero || ea.zero then (.skip, 0)
  else
    let e := ew.e16 + ea.e16
    let k := (e.fmod 16).toNat
    let s := e.fdiv 16 - 15 - alsb
    let t : Int := (tbl.getD k 0).toNat
    let r : Int × BitVec 8 :=
      if s > 31 then (2 ^ 47 - 1, stRange)
      else if s ≥ 0 then (t * 2 ^ s.toNat, 0)
      else if s > -16 then (t.fdiv (2 ^ (-s).toNat), 0)
      else (0, stUnder)
    (.value (if ew.sign != ea.sign then -r.1 else r.1), r.2)

/-- sat64 (R48). -/
def sat64 (v : Int) : Int × Bool := clampInt (-9223372036854775807) 9223372036854775807 v

/-- The identity of a semiring (R51, Table 9). -/
def semiIdentity (semi : Nat) : BitVec 64 :=
  match semi with
  | 1 => 0x8000000000000000#64
  | 2 => 0x7FFFFFFFFFFFFFFF#64
  | 3 => 0x8000000000000000#64
  | _ => 0

/-- One cell's action on an element (R48, R51). -/
def cellStep (semi : Nat) (alsb : Int) (tbl : List (BitVec 16)) (ew ea : EForm) (a : AccEl) : AccEl × BitVec 8 :=
  if semi = 0 then
    match contribution ew ea alsb tbl with
    | (.poison, f) => ({ a with poison := true }, f)
    | (.nar, f) => ({ a with nar := true }, f)
    | (.skip, f) => (a, f)
    | (.value c, f) => let r := sat64 (a.val.toInt + c); ({ a with val := BitVec.ofInt 64 r.1 }, if r.2 then f ||| stOvf else f)
  else if ew.poison || ea.poison then ({ a with poison := true }, 0)
  else if ew.nar || ea.nar then ({ a with nar := true }, 0)
  else
    let zero := ew.zero || ea.zero
    let e := ew.e16 + ea.e16
    let put (v : Int) : AccEl × BitVec 8 := ({ a with val := BitVec.ofInt 64 v }, 0)
    match semi with
    | 1 => if zero then (a, 0) else put (max a.val.toInt e)
    | 2 => if zero then (a, 0) else put (min a.val.toInt e)
    | 3 =>
      let key : Int := if zero then 0 else if ew.sign != ea.sign then -e - 2 ^ 32 else e + 2 ^ 32
      put (max a.val.toInt key)
    | _ => if zero then (a, 0) else ({ a with val := a.val ||| 1#64 }, 0)

/-- The contributions of one row to element `c`, cell rows k = 0..63 in order (R49, R169). -/
def columnStep (semi : Nat) (alsb : Int) (tbl : List (BitVec 16)) (w : SMap EForm) (c : Nat) :
    List EForm → Nat → AccEl × BitVec 8 → AccEl × BitVec 8
  | [], _, r => r
  | ea :: rest, k, r =>
    let s := cellStep semi alsb tbl (SMap.get .zeroCell w (64 * k + c)) ea r.1
    columnStep semi alsb tbl w c rest (k + 1) (s.1, r.2 ||| s.2)

/-- Applies an entered row to its destination row (R169, R180). -/
def Mx.applyRow (m : Mx) (r : RowWork) : Mx :=
  let semi := mcSemi r.mcfg
  (List.range 64).foldl (fun m c =>
    let i := 64 * r.row + c
    let a := if r.z then ⟨semiIdentity semi, false, false⟩ else m.el i
    let o := columnStep semi (mcAlsb r.mcfg) r.tbl r.w c r.ea 0 (a, 0)
    (m.setEl i o.1).stick o.2) m

/-- Clears a row to the identity (R187). -/
def Mx.clearRow (m : Mx) (row : Nat) (semi : Nat) : Mx :=
  (List.range 64).foldl (fun m c => m.setEl (64 * row + c) ⟨semiIdentity semi, false, false⟩) m

-- Outputs (R52-R55, R185, R186) ---------------------------------------------------------------------------------------

/-- decode(acc) (R52, Table 10). -/
def accDecode (semi : Nat) (alsb : Int) (v : BitVec 64) : XVal :=
  let i := v.toInt
  match semi with
  | 0 => .fin (i < 0) i.natAbs alsb
  | 1 => .lg false (64 * i)
  | 2 => .lg false (64 * i)
  | 3 => if i = 0 || i = -9223372036854775808 then .fin false 0 0
         else if i > 0 then .lg false (64 * (i - 2 ^ 32)) else .lg true (64 * (-i - 2 ^ 32))
  | _ => .fin (i < 0) i.natAbs 0

/-- Compares |a| with |b|, both finite and not zero, exactly. -/
def magCmp (a b : XVal) : Ordering :=
  let ta := floorLog2 a
  let tb := floorLog2 b
  if ta < tb then .lt else if tb < ta then .gt
  else
    match a, b with
    | .fin _ m e, .fin _ n f => dyCmp m e n f
    | .lg _ j, .lg _ k => compare j k
    | .lg _ k, .fin _ n f => dyCmp (2 ^ (k - 1024 * tb).toNat) 0 (n ^ 1024) (1024 * (f - tb))
    | .fin _ m e, .lg _ k => dyCmp (m ^ 1024) (1024 * (e - ta)) (2 ^ (k - 1024 * ta).toNat) 0
    | _, _ => .eq

/-- a < b for two values that are no NaN; -0 equals +0. -/
def XVal.lt (a b : XVal) : Bool :=
  let rank (v : XVal) : Int :=
    match v with
    | .inf true => -2 | .inf false => 2
    | v => if v.qualifies then (if v.neg then -1 else 1) else 0
  if rank a < rank b then true
  else if rank a > rank b then false
  else if rank a == 1 then magCmp a b == .lt
  else if rank a == -1 then magCmp a b == .gt
  else false

/-- An output element: value, or NaR or poison. -/
inductive OutEl where
  | val (v : XVal) | nar | poison
deriving DecidableEq, Repr

/-- The mode of bound register i (R20: BNDMODE). -/
def bndMode (m : BitVec 32) (i : Nat) : Nat := (m.toNat / 4 ^ i) % 4

/-- The bounds lo and hi of a bound register, FP32 (R20, R161). A NaN bound puts every element out of range, and no value is below or above it. -/
def bndLo (b : Word) : XVal := fp32.decode (fld b 0 32).toNat
/-- Upper bound. -/
def bndHi (b : Word) : XVal := fp32.decode (fld b 32 32).toNat

/-- The bound check of an exact value (R186): the value kept or clamped, and whether it was out of range. -/
def boundOut (b : Word) (mode : Nat) (e : OutEl) : OutEl × Bool :=
  if mode = 0 then (e, false)
  else
    let lo := bndLo b
    let hi := bndHi b
    match e with
    | .poison => (.poison, true)
    | .nar => (if mode = 1 then .nar else .val lo, true)
    | .val v =>
      if lo == .nan || hi == .nan then
        (if mode ≠ 1 && lo != .nan && v.lt lo then .val lo else if mode ≠ 1 && hi != .nan && hi.lt v then .val hi else .val v, true)
      else if v.lt lo then (if mode = 1 then .val v else .val lo, true)
      else if hi.lt v then (if mode = 1 then .val v else .val hi, true)
      else (.val v, false)

/-- Bytes of an element of each drain format (R185). -/
def dfmtBytes (d : Nat) : Nat :=
  match d with
  | 0 => 4 | 1 => 2 | 2 => 2 | 3 => 2 | 4 => 1 | 5 => 1 | 6 => 4 | 7 => 8 | _ => 2
/-- Whether a drain format is block-scaled (R34). -/
def dfmtBlock (d : Nat) : Bool := d == 3 || d == 4 || d == 5

/-- A block element's bits under scale byte `x` (R55). -/
def blockElem (d x : Nat) (e : OutEl) : Nat × Sticky :=
  let s : Int := (x : Int) - 127
  match e with
  | .poison => (0, .none)
  | .nar => (if d = 3 then 0x8000 else if d = 4 then 0x80 else 0x7F, .none)
  | .val v =>
    if v == .nan then (if d = 3 then 0x8000 else if d = 4 then 0x80 else 0x7F, .none)
    else
      match d with
      | 3 => if v.isZero then (0, .none) else if v.qualifies then roundLog v s 16 10 else (if v.neg then 0xFFFF else 0x7FFF, ⟨true, false⟩)
      | 4 => if v.isZero then (0, .none) else if v.qualifies then roundLog v s 8 3 else (if v.neg then 0xFF else 0x7F, ⟨true, false⟩)
      | _ =>
        let r := mxRound 9 v s
        (r.1, { r.2 with osat := r.2.osat || (XVal.fin false 448 0).lt ((v.scale (-s)).withSign false) })

/-- A plain element's bits (R52, R53); `raw` are the accumulator bits for FX64. -/
def plainElem (d : Nat) (raw : BitVec 64) (e : OutEl) : Nat × Sticky :=
  match d, e with
  | _, .poison => (0, .none)
  | 7, _ => (raw.toNat, .none)
  | 0, .nar => (fp32.qnan, .none) | 1, .nar => (bf16.qnan, .none) | 2, .nar => (fp16.qnan, .none)
  | 6, .nar => (0x80000000, .none) | _, .nar => (efNar.toNat, .none)
  | 0, .val v => roundIeee fp32 v | 1, .val v => roundIeee bf16 v | 2, .val v => roundIeee fp16 v
  | 6, .val v => let r := roundI32 v; (r.1.toNat, r.2)
  | _, .val v => let r := efOf v; (r.1.toNat, r.2)

/-- The values of 32 elements of a block that take part in its scale (R55). -/
def outVals (es : List OutEl) : List XVal := es.filterMap (fun e => match e with | .val v => some v | _ => none)

/-- The scale byte of a block of outputs (R55): an element that a bound has clamped to an infinity is its M, so X is 254. -/
def outScale (es : List OutEl) (emax : Int) : Nat :=
  if es.any (fun e => match e with | .val (.inf _) => true | _ => false) then 254 else blockScale (outVals es) emax

/-- A drained row: its element bytes with their poison, its two scale bytes, sticky bits, and whether a bound was hit. -/
structure RowOut where
  bytes : List (Byte × Bool)
  scales : List Byte
  sticky : BitVec 8
  hit : Bool
deriving DecidableEq, Repr

/-- Drains one row (R52-R55, R186); `be` is the bound and its mode when BE is set. -/
def Mx.drainRow (m : Mx) (mcfg : BitVec 32) (row : Nat) (be : Option (Word × Nat)) : RowOut :=
  let d := mcDfmt mcfg
  let els := (List.range 64).map (fun c => m.el (64 * row + c))
  let outs := els.map (fun a =>
    let e : OutEl := if a.poison then .poison else if a.nar then .nar else .val (accDecode (mcSemi mcfg) (mcAlsb mcfg) a.val)
    match be with
    | none => (e, false)
    | some (b, mode) => boundOut b mode e)
  let es := outs.map (·.1)
  let n := dfmtBytes d
  let emax : Int := if d = 5 then 8 else 0
  let x0 := outScale (es.take 32) emax
  let x1 := outScale (es.drop 32) emax
  let conv : List (Nat × Sticky) :=
    if dfmtBlock d then (es.take 32).map (blockElem d x0) ++ (es.drop 32).map (blockElem d x1)
    else (els.zip es).map (fun p => plainElem d p.1.val p.2)
  { bytes := ((conv.zip es).map (fun p => (bytesOf p.1.1 n).map (fun b => (b, p.2 == .poison)))).flatten,
    scales := if dfmtBlock d then [BitVec.ofNat 8 x0, BitVec.ofNat 8 x1] else [],
    sticky := conv.foldl (fun f p => f ||| stOf p.2) 0,
    hit := outs.any (·.2) }

-- Rows in memory ------------------------------------------------------------------------------------------------------

/-- Bytes of an activation or weight row of 64 elements (R178, R181). -/
def rowBytes (f : Nat) : Nat := fmtBits f * 8
/-- Bits of an element that count: LG5 and LG7 use the low bits of their container (R36). -/
def elemBits (f : Nat) : Nat := match f with | 1 => 5 | 3 => 7 | f => fmtBits f

/-- Element `j` of a packed row held in a number (R36, R59, R60). -/
def rowElem (f : Nat) (row : Nat) (j : Nat) : Nat := (row >>> (fmtBits f * j)) % 2 ^ elemBits f

/-- Whether element `j` of a row at byte offset `off` lies in a poisoned granule (R38). -/
def rowElemBad (f off j : Nat) (bad : Nat → Bool) : Bool :=
  bad ((off + fmtBits f * j / 8) / 32) || bad ((off + (fmtBits f * j + fmtBits f - 1) / 8) / 32)

/-- The E-forms of a row of 64 elements at `off`, with scale bytes at `sc` for block formats (R45). -/
def Core.rowEforms (k : Core) (f off sc : Nat) : List EForm :=
  let row := leNat (k.viewRun false off (rowBytes f)).1
  let bad (g : Nat) : Bool := (k.viewGran false g).2
  let x0 := k.viewBytes false sc 1
  let x1 := k.viewBytes false (sc + 1) 1
  (List.range 64).map (fun j =>
    let x := if j < 32 then x0 else x1
    let p := rowElemBad f off j bad || (decide (f ≤ 0x0B) && x.2)
    if p then ⟨efZero, true⟩ else ⟨eformOf f (rowElem f row j) x.1, false⟩)

/-- The E-forms of a hoist entry (R183): block elements from byte 0 with scale bytes at 120 and 121. -/
def hoistEforms (f : Nat) (v : BitVec 1024) (p : BitVec 16) : List EForm :=
  let bad (b : Nat) : Bool := p.getLsbD (b / 8)
  let byte (b : Nat) : Nat := (v.toNat >>> (8 * b)) % 256
  (List.range 64).map (fun j =>
    let sc := if j < 32 then 120 else 121
    let q := bad (fmtBits f * j / 8) || bad ((fmtBits f * j + fmtBits f - 1) / 8) || (decide (f ≤ 0x0B) && bad sc)
    if q then ⟨efZero, true⟩ else ⟨eformOf f (rowElem f v.toNat j) (byte sc), false⟩)

/-- The down-converter of MSTRMA (R181). -/
def Mx.downRow (m : Mx) (mcfg : BitVec 32) (row : Nat) : List EForm × BitVec 8 :=
  (List.range 64).foldr (fun c acc =>
    let a := m.el (64 * row + c)
    if a.poison then (⟨efZero, true⟩ :: acc.1, acc.2)
    else if a.nar then (⟨efNar, false⟩ :: acc.1, acc.2)
    else
      let r := efOf (accDecode (mcSemi mcfg) (mcAlsb mcfg) a.val)
      (⟨r.1, false⟩ :: acc.1, acc.2 ||| stOf r.2)) ([], 0)

-- Landing checks (R302) -----------------------------------------------------------------------------------------------

/-- What the landing check of a read comes to (R302). -/
inductive LandCheck where
  | pass (ns : List (BitVec 5)) | late (n : BitVec 5) | bad (n : BitVec 5)
deriving DecidableEq, Repr

/-- Whether bytes off .. off + n - 1 of the scratchpad meet a berth's buffer (R25). -/
def Berth.meets (b : Berth) (off n : Nat) : Bool :=
  decide (off < 32 * (b.base.toNat + b.lenm1.toNat + 1)) && decide (32 * b.base.toNat < off + n)

/-- The armed berths with the check pending whose buffers a read meets. -/
def Core.berthsAt (k : Core) (off n : Nat) : List (BitVec 5) :=
  ((List.range 32).map (BitVec.ofNat 5)).filter (fun i => (k.berth i).arm && (k.berth i).pending && (k.berth i).meets off n)

/-- The check of one berth (R302). -/
def Core.checkBerth (k : Core) (n : BitVec 5) : LandCheck :=
  let b := k.berth n
  if b.atag = b.etag then .pass [n] else if b.atag = b.etag - 1 then .late n else .bad n

/-- The check of a list of berths: a wrong tag decides first, then a late one (R302). Of several of one kind the first is named, in the
order of the read's parts and then of berth numbers: R22 decides between slots only (log 158). -/
def Core.checkBerths (k : Core) (ns : List (BitVec 5)) : LandCheck :=
  match ns.find? (fun n => match k.checkBerth n with | .bad _ => true | _ => false) with
  | some n => .bad n
  | none =>
    match ns.find? (fun n => match k.checkBerth n with | .late _ => true | _ => false) with
    | some n => .late n
    | none => .pass ns

/-- Clears check-pending of the berths that passed. -/
def Core.passBerths (k : Core) (ns : List (BitVec 5)) : Core :=
  ns.foldl (fun k n => k.modBerth n (fun b => { b with pending := false })) k

-- The queue (R173) ----------------------------------------------------------------------------------------------------

/-- Rows an MX instruction names: Xn[7:0] + 1. -/
def MxItem.count (it : MxItem) : Nat := (fld it.xn 0 8).toNat + 1
/-- Whether an instruction is a stream. -/
def isStream (i : Instr) : Bool := match i with | .mstrm .. | .mstrma .. | .mstrmh .. => true | _ => false
/-- Whether an instruction is a drain. -/
def isDrain (i : Instr) : Bool := match i with | .mdrn .. | .mdrnh .. => true | _ => false
/-- The first row an MX instruction names. -/
def mxRow (i : Instr) : Nat :=
  match i with
  | .mstrm o _ | .mstrma o _ | .mstrmh o _ | .mdrn o _ | .mdrnh o _ | .mclr o | .msave o _ | .mrest o _ => o.acc.toNat
  | _ => 0
/-- Whether row r lies in a run of n rows from a, modulo 256. -/
def inRows (a n r : Nat) : Bool := decide ((r + 256 - a % 256) % 256 < n)
/-- The accumulator rows a queued instruction writes: first row and count. -/
def writesRows (i : Instr) (n : Nat) : Nat × Nat :=
  match i with
  | .mstrm .. | .mstrma .. | .mstrmh .. | .mclr .. => (mxRow i, n)
  | .mdrn _ clr | .mdrnh _ clr => (mxRow i, if clr then n else 0)
  | _ => (0, 0)
/-- The accumulator rows whose earlier writers a queued instruction waits for (R173 item 4). -/
def waitsRows (i : Instr) (xa : Word) (n : Nat) : Nat × Nat :=
  match i with
  | .mstrma .. => ((fld xa 0 8).toNat, n)
  | .mdrn .. | .mdrnh .. | .mclr .. => (mxRow i, n)
  | _ => (0, 0)
/-- Whether two runs of rows meet. -/
def rowsMeet (a b : Nat × Nat) : Bool := (List.range a.2).any (fun i => inRows b.1 b.2 ((a.1 + i) % 256))

/-- Whether a stream runs at pair rate under an MCFG word: MSTRMA never does (R180). -/
def streamPaired (i : Instr) (mcfg : BitVec 32) : Bool := match i with | .mstrma .. => false | _ => mcPaired mcfg
/-- Input occupancy of M rows. -/
def occupancy (i : Instr) (mcfg : BitVec 32) (m : Nat) : Nat := if streamPaired i mcfg then (m + 1) / 2 else m
/-- Own bound (R171, Table 1). -/
def ownBound (i : Instr) (mcfg : BitVec 32) (n : Nat) : Nat :=
  match i with
  | .mstrm .. => occupancy i mcfg n + 140 | .mstrma .. => n + 148 | .mstrmh .. => occupancy i mcfg n + 140
  | .mdrn .. => n + 24 | .mdrnh .. => n + 40 | .mclr .. => (n + 7) / 8 + 2 | _ => 1

/-- When a stream's occupancy of the input ends. -/
def MxItem.inputEnd (it : MxItem) (tail : BitVec 32) : Nat :=
  if !it.started then it.next + occupancy it.ins tail it.count
  else if it.rows ≥ it.count then it.next
  else it.next + (if streamPaired it.ins it.mcfg then (it.count - it.rows / 2 * 2 + 1) / 2 else it.count - it.rows)
/-- When a drain's occupancy ends. -/
def MxItem.drainEnd (it : MxItem) : Nat := if it.started then it.next else it.next + it.count

/-- The end of a wake that holds queued work (R173 item 5, R190). -/
def Gate.wakeEnd (g : Gate) : Nat := match g with | .waking t => t | .pending _ t => t | _ => 0

/-- The start cycle of a queued instruction issued at array time t (R173). -/
def Mx.startOf (m : Mx) (t : Nat) (i : Instr) (xa : Word) (n : Nat) : Nat :=
  let s0 := if m.gateParked then t else max t m.gate.wakeEnd
  m.items.foldl (fun s it =>
    let s1 := if it.started then s else max s it.next
    let s2 := if (isStream i || (match i with | .mwswap _ => true | _ => false)) && isStream it.ins then max s1 (it.inputEnd it.mcfg) else s1
    let s3 := if isDrain i && isDrain it.ins then max s2 it.drainEnd else s2
    if rowsMeet (waitsRows i xa n) (writesRows it.ins it.count) then max s3 it.due else s3) s0

/-- Whether nothing may start because the wake that must end first is parked (R173 item 5, R191). -/
def Mx.wakeHeld (m : Mx) : Bool := m.gateParked && decide (m.gate.wakeEnd > 0)

/-- Queued instructions waiting: their start lies later than now (R175). -/
def Mx.waiting (m : Mx) (t : Nat) : Nat := (m.items.filter (fun it => !it.started && (decide (it.next > t) || m.wakeHeld))).length

/-- Whether an MX instruction is queued (R171, Table 1). -/
def isQueued (i : Instr) : Bool :=
  match i with
  | .mcfg _ | .mtbl .. | .mwswap _ | .mclr _ => true
  | i => isStream i || isDrain i

/-- Places a queued instruction (R173, R174): MCFG also becomes the word at the queue tail (R175). -/
def Mx.enqueue (m : Mx) (t : Nat) (i : Instr) (xa xn xn1 : Word) (tbl : List (BitVec 16)) (ar : BitVec 2) : Mx :=
  let n := (fld xn 0 8).toNat + 1
  let tail := match i with | .mcfg _ => fld xa 0 32 | _ => m.mcfgTail
  let s := m.startOf t i xa n
  let it : MxItem := { ins := i, next := s, due := s + ownBound i m.mcfgTail n, xa := xa, xn := xn, xn1 := xn1, tbl := tbl,
                       started := false, rows := 0, mcfg := m.mcfgTail, ar := ar, cover := [], seq := m.nextSeq }
  { m with items := m.items ++ [it], mcfgTail := tail, nextSeq := m.nextSeq + 1 }

/-- Gives the instructions that have not started their start cycles again, when a parked wake is taken up (R173, R191). -/
def Mx.requeue (m : Mx) (t : Nat) : Mx :=
  m.items.foldl (fun m it =>
    if it.started then { m with items := m.items ++ [it] }
    else
      let s := m.startOf t it.ins it.xa it.count
      { m with items := m.items ++ [{ it with next := s, due := s + (it.due - it.next) }] }) { m with items := [] }

/-- Replaces the item at a position. -/
def Mx.setItem (m : Mx) (i : Nat) (it : MxItem) : Mx := { m with items := m.items.set i it }

-- Starting ------------------------------------------------------------------------------------------------------------

/-- The poison of a run of output bytes. -/
def anyBad (bs : List (Byte × Bool)) : Bool := bs.any (·.2)

/-- Cuts a run of output bytes that starts on a granule into pending granule writes, leaving out bytes stored since the
drain's issue; `src` is the drain's place in issue order. -/
def granPends (hold : Bool) (cover : SMap (BitVec 32)) (src due : Nat) : Nat → List (Byte × Bool) → Nat → List Pend
  | 0, _, _ => []
  | _ + 1, [], _ => []
  | n + 1, bs, g =>
    let mask := runMask 0 (min 32 bs.length) &&& ~~~ SMap.get 0 cover (2 * g + hold.toNat)
    let here : Pend := ⟨.gran hold g mask, BitVec.ofNat 256 (leNat ((bs.take 32).map (·.1))), anyBad (bs.take 32), due, true, src⟩
    (if mask = 0 then [] else [here]) ++ granPends hold cover src due n (bs.drop 32) (g + 1)

/-- Cuts a run of scale bytes from byte `off` into pending granule writes, leaving out bytes stored since the drain's issue: one write to
each granule it meets (R85). -/
def scalePends (hold : Bool) (cover : SMap (BitVec 32)) (src due : Nat) : Nat → List Byte → Nat → List Pend
  | 0, _, _ => []
  | _ + 1, [], _ => []
  | n + 1, bs, off =>
    let len := min (32 - off % 32) bs.length
    let mask := runMask (off % 32) len &&& ~~~ SMap.get 0 cover (2 * (off / 32) + hold.toNat)
    let here : Pend := ⟨.gran hold (off / 32) mask, BitVec.ofNat 256 (leNat (bs.take len) * 2 ^ (8 * (off % 32))), false, due, true, src⟩
    (if mask = 0 then [] else [here]) ++ scalePends hold cover src due n (bs.drop len) (off + len)

/-- The row stride of a drain (R185). -/
def drainStride (xn : Word) (mcfg : BitVec 32) : Nat :=
  let s := (fld xn 16 16).toNat
  if s = 0 then 64 * dfmtBytes (mcDfmt mcfg) else s

/-- Before rows are cleared, each started MSTRMA keeps those it still has to read (R174). -/
def Mx.keepRows (m : Mx) (rows : List Nat) : Mx :=
  { m with items := m.items.map (fun it =>
      match it.ins with
      | .mstrma .. =>
        if it.started then
          { it with held := ((List.range it.count).drop it.rows).foldl (fun h r =>
              let src := ((fld it.xa 0 8).toNat + r) % 256
              if rows.contains src && !h.any (fun e => e.1 == r) then h ++ [(r, m.downRow it.mcfg src)] else h) it.held }
        else it
      | _ => it) }

/-- Clears rows to the identity (R187). -/
def Mx.clearRows (m : Mx) (rows : List Nat) (semi : Nat) : Mx := rows.foldl (fun m r => m.clearRow r semi) (m.keepRows rows)

/-- Starts a drain: every row is read, converted and, with CLR, cleared; the bytes land by the bound (R185-R187). -/
def Core.startDrain (k : Core) (it : MxItem) (hold clr : Bool) : Core × MxItem :=
  let mcfg := k.mx.mcfg
  let breg := (fld it.xn 8 4).toNat
  let mode := if bit it.xn 12 then bndMode k.csr.bndmode breg else 0
  let be := if bit it.xn 12 then some (k.csr.bnd.toList.getD breg 0, mode) else none
  let sp := if hold then 2 ^ 22 else 2 ^ 19
  let base := it.xa.toNat % sp
  let stride := drainStride it.xn mcfg
  let rows := (List.range it.count).map (fun j => (mxRow it.ins + j) % 256)
  let outs := rows.map (fun r => k.mx.drainRow mcfg r be)
  let pends := ((List.range it.count).zip outs).map (fun p =>
      granPends hold it.cover it.seq it.due 16 p.2.bytes ((base + p.1 * stride) / 32))
  let scales := scalePends hold it.cover it.seq it.due 17 (outs.flatMap (·.scales)) (it.xn1.toNat % sp)
  let mx1 := outs.foldl (fun m o => m.stick o.sticky) k.mx
  let mx2 := if clr then mx1.clearRows rows (mcSemi mcfg) else mx1
  let hit := outs.any (·.hit)
  let mx3 := if hit && mode == 3 then { mx2 with drainTraps := mx2.drainTraps ++ [(BitVec.ofNat 4 breg, it.due)] } else mx2
  let k1 := { k with mx := mx3, pend := k.pend ++ pends.flatten ++ scales,
                     csr := if hit then { k.csr with bndhit := k.csr.bndhit ||| (1#16 <<< breg) } else k.csr }
  (k1, { it with started := true, next := it.next + it.count, mcfg := mcfg })

/-- The accumulator elements a drain reads. -/
def MxItem.elements (it : MxItem) : List Nat :=
  (List.range it.count).flatMap (fun j => (List.range 64).map (fun c => 64 * ((mxRow it.ins + j) % 256) + c))

/-- Of the rows on their way, those that land when those `p` selects do: with them, each one entered before it into the same destination row
(R49). -/
def landing (p : RowWork → Bool) : List RowWork → List RowWork
  | [] => []
  | w :: rest => if p w || rest.any (fun v => v.row == w.row && p v) then w :: landing p rest else landing p rest

/-- The rows that stay on their way. -/
def staying (p : RowWork → Bool) : List RowWork → List RowWork
  | [] => []
  | w :: rest => if p w || rest.any (fun v => v.row == w.row && p v) then staying p rest else w :: staying p rest

/-- Applies the rows on their way that `p` selects, in the order in which they entered. -/
def Mx.landRows (m : Mx) (p : RowWork → Bool) : Mx := (landing p m.work).foldl Mx.applyRow { m with work := staying p m.work }

/-- Applies every row on its way whose own bound has come (R180). -/
def Core.landDueWork (k : Core) : Core := { k with mx := k.mx.landRows (fun w => decide (w.due ≤ k.mt)) }

/-- Applies, beside those that are due, whatever is on its way to a row that an instruction reads or clears from its start on: it sees every
contribution issued before it (R174). -/
def Core.landBefore (k : Core) (it : MxItem) : Core :=
  let rows := waitsRows it.ins it.xa it.count
  { k with mx := k.mx.landRows (fun w => decide (w.due ≤ k.mt) || inRows rows.1 rows.2 w.row) }

/-- An MCFG word with its reserved bits clear (R8, R176). -/
def mcMask (m : BitVec 32) : BitVec 32 := m &&& 0x0FFF3FF7#32

/-- Starts the queued instruction at position i (R173, R174). -/
def Core.startItem (k0 : Core) (i : Nat) : Core :=
  match k0.mx.items[i]? with
  | none => k0.landDueWork
  | some it =>
    let k := k0.landBefore it
    let done := { it with started := true, mcfg := k.mx.mcfg }
    match it.ins with
    | .mcfg _ => { k with mx := { k.mx with mcfg := mcMask (fld it.xa 0 32) }.setItem i done }
    | .mtbl _ t => { k with mx := (if t then { k.mx with t1 := it.tbl } else { k.mx with t0 := it.tbl }).setItem i done }
    | .mwswap _ => { k with mx := { k.mx with act := !k.mx.act }.setItem i done }
    | .mclr _ =>
      let m := k.mx.clearRows ((List.range it.count).map (fun j => (mxRow it.ins + j) % 256)) (mcSemi k.mx.mcfg)
      { k with mx := m.setItem i done }
    | .mdrn _ clr => let r := (k.injectReads .acc it.elements).startDrain it false clr; { r.1 with mx := r.1.mx.setItem i r.2 }
    | .mdrnh _ clr => let r := (k.injectReads .acc it.elements).startDrain it true clr; { r.1 with mx := r.1.mx.setItem i r.2 }
    | ins =>
      let x := if mcPair k.mx.mcfg && !streamPaired ins k.mx.mcfg then stPairx else 0
      { k with mx := (k.mx.stick x).setItem i { done with tbl := if mcTsel k.mx.mcfg then k.mx.t1 else k.mx.t0 } }

/-- Source offset and scale offset of row i of an MSTRM (R181). -/
def strmRow (it : MxItem) (i : Nat) : Nat × Nat :=
  let ra := rowBytes (mcAfmt it.mcfg)
  let st := (fld it.xn 16 16).toNat
  ((it.xa.toNat + i * (if st = 0 then ra else st)) % 2 ^ 19, (it.xn1.toNat + 2 * i) % 2 ^ 19)

/-- The landing check a row's entry makes (R182): its source bytes and, for block formats, its scale bytes. -/
def Core.rowCheck (k : Core) (it : MxItem) : LandCheck :=
  match it.ins with
  | .mstrm .. =>
    let f := mcAfmt it.mcfg
    let (off, sc) := strmRow it it.rows
    k.checkBerths (k.berthsAt off (rowBytes f) ++ (if f ≤ 0x0B then k.berthsAt sc 2 else []))
  | _ => .pass []

/-- Hoist entries taken by rows that enter in this cycle. -/
def Core.popsNow (k : Core) : Nat := if k.mx.popAt = k.mt then k.mx.popped else 0

/-- Entries held at issue (R183): rows that enter in the same cycle have not entered before. -/
def Core.hoistHeld (k : Core) : Nat := k.mx.hoist.length + k.popsNow

/-- Whether a row of a hoist stream finds no entry (R183). -/
def Core.hoistEmpty (k : Core) (it : MxItem) : Bool := match it.ins with | .mstrmh .. => k.mx.hoist.isEmpty | _ => false

/-- The array time of the entry after the one just made (R180). -/
def MxItem.advance (it : MxItem) : MxItem :=
  let last := it.rows + 1 ≥ it.count
  let same := streamPaired it.ins it.mcfg && it.rows % 2 == 0 && !last
  { it with rows := it.rows + 1, next := if same then it.next else it.next + 1, shade := [] }

/-- A granule under the stores a late row does not see: each stored byte that nobody has changed since is read as it was before the store, and
the poison with it (R180, log 126). -/
def shadeGran (ss : List Shade) (g : Nat) (v : Gran × Bool) : Gran × Bool :=
  ss.foldr (fun s v =>
    if s.gran != g then v
    else
      let byte (x : Gran) (i : Nat) : BitVec 8 := x.extractLsb' (8 * i) 8
      let kept : BitVec 32 := BitVec.ofNat 32 ((List.range 32).foldl (fun a i => if s.mask.getLsbD i && byte v.1 i == byte s.new i then a + 2 ^ i else a) 0)
      (merge v.1 s.old kept, if kept = s.mask then s.bad else v.2)) v

/-- The core with its scratchpad as a late row reads it. -/
def Core.shaded (k : Core) (ss : List Shade) : Core :=
  ss.foldl (fun u g =>
    let v := shadeGran ss g.gran (k.viewGran false g.gran)
    { u with buf := u.buf ++ [⟨g.gran, v.1, BitVec.allOnes 32, some v.2, false, 0, 0⟩] }) k

/-- The draws the entry of a row makes (R326): of the granules or of the accumulator elements it reads. -/
def Core.rowDraws (k : Core) (it : MxItem) : Core :=
  match it.ins with
  | .mstrm .. =>
    let f := mcAfmt it.mcfg
    let p := strmRow it it.rows
    k.injectReads .pad (granList p.1 (rowBytes f) ++ (if f ≤ 0x0B then granList p.2 2 else []))
  | .mstrma .. => k.injectReads .acc ((List.range 64).map (fun c => 64 * (((fld it.xa 0 8).toNat + it.rows) % 256) + c))
  | _ => k

/-- Enters the next row of the stream at position i (R180, R181), its berths having passed. `late` leaves its contributions on
their way. -/
def Core.enterRow (k0 : Core) (i : Nat) (late : Bool) : Core :=
  let k1 := k0.landDueWork
  match k1.mx.items[i]? with
  | none => k1
  | some it =>
    let k := k1.rowDraws it
    let r := it.rows
    let (ea, st, m0) : List EForm × BitVec 8 × Mx :=
      match it.ins with
      | .mstrm .. => let p := strmRow it r; ((k.shaded it.shade).rowEforms (mcAfmt it.mcfg) p.1 p.2, 0, k.mx)
      | .mstrma .. =>
        match it.held.find? (fun e => e.1 == r) with
        | some d => (d.2.1, d.2.2, k.mx)
        | none => let d := k.mx.downRow it.mcfg (((fld it.xa 0 8).toNat + r) % 256); (d.1, d.2, k.mx)
      | _ =>
        match k.mx.hoist with
        | [] => ([], 0, k.mx)
        | (v, p) :: rest => (hoistEforms (mcAfmt it.mcfg) v p, 0, { k.mx with hoist := rest, popAt := k.mt, popped := k.popsNow + 1 })
    let z := match it.ins with | .mstrm _ z | .mstrma _ z | .mstrmh _ z => z | _ => false
    let w : RowWork :=
      { row := (mxRow it.ins + r) % 256, ea := ea, w := m0.plane m0.act, mcfg := it.mcfg,
        tbl := it.tbl, z := z, due := it.due, seq := it.seq }
    let m1 := (m0.stick st).setItem i it.advance
    { k with mx := if late || m1.work.any (fun v => v.row == w.row) then { m1 with work := m1.work ++ [w] } else m1.applyRow w }

/-- Applies every row on its way. -/
def Mx.landAllWork (m : Mx) : Mx := m.landRows (fun _ => true)

/-- Whether an item still has something to do in the array. -/
def MxItem.open' (it : MxItem) : Bool := !it.started || (isStream it.ins && decide (it.rows < it.count))

/-- What the array does next at this array time, in issue order: start an item, or enter a row. -/
inductive MxDue where
  | start (i : Nat) | row (i : Nat)
deriving DecidableEq, Repr

/-- The first item, in issue order, with something due now (R173, R180). -/
def mxDueFrom (t : Nat) (items : List MxItem) (i : Nat) : Option MxDue :=
  match items with
  | [] => none
  | it :: rest =>
    if it.open' && decide (it.next ≤ t) then some (if it.started then .row i else .start i) else mxDueFrom t rest (i + 1)

/-- The array's next due action. -/
def Core.mxDue (k : Core) : Option MxDue := if k.mx.wakeHeld then none else mxDueFrom k.mt k.mx.items 0

/-- Whether a queued instruction has landed (R70, R173): it has nothing left to do, and its results have landed, those of a stream or a drain one
by one, that of any other at its bound. -/
def Core.itemLanded (k : Core) (it : MxItem) : Bool :=
  !it.open' && (isStream it.ins || isDrain it.ins || decide (it.due ≤ k.mt))
    && !k.pend.any (fun e => e.src == it.seq && e.mx) && !k.mx.work.any (fun w => w.seq == it.seq)

/-- Drops the items that have landed, which then arrive (R70). -/
def Core.retireItems (k : Core) : Core :=
  let gone := k.mx.items.filter k.itemLanded
  { k with mx := { k.mx with items := k.mx.items.filter (fun it => !k.itemLanded it) },
           arrivals := k.arrivals ++ (gone.filter (fun it => it.ar != 0)).map (fun it => ⟨k.ct, it.ar, []⟩) }

/-- Whether every MX instruction issued so far has landed (R189, R190). -/
def Core.mxLanded (k : Core) : Bool :=
  k.mx.items.all k.itemLanded && k.mx.work.isEmpty
    && decide (k.mx.loadDue ≤ k.mt) && decide (k.mx.otherDue ≤ k.mt) && !k.pend.any (·.mx)

/-- The numbers of the queued instructions whose writes an access issued now comes after: those of a task, or in handler mode those of the
handler, since the writes of parked work count as issued later (R266). -/
def Core.mxSpan (k : Core) : Nat × Nat := (if k.csr.hm then k.mx.parkSeq else 0, k.mx.nextSeq)

/-- A gate with the end of its wake counted from `t`, or taken up again. -/
def Gate.shift (g : Gate) (f : Nat → Nat) : Gate :=
  match g with
  | .waking w => .waking (f w) | .pending r w => .pending r (f w) | g => g

/-- Whether a number lies in one of the spans. -/
def inSpans (spans : List (Nat × Nat)) (n : Nat) : Bool := spans.any (fun r => decide (r.1 ≤ n) && decide (n < r.2))

/-- Whether a result on its way is a memory write of matrix work numbered in one of the spans, or of work without a number due by array time
`due`. -/
def Pend.writesFor (e : Pend) (spans : List (Nat × Nat)) (due : Nat) : Bool :=
  (match e.dest with | .gran .. => true | _ => false) && (if e.src = 0 then decide (e.due ≤ due) else inSpans spans e.src)

/-- Whether memory writes of matrix work numbered in one of the spans, or due by array time `due`, are still to land (R266, R275). Parked
work is not waited for. -/
def Core.mxWrites (k : Core) (spans : List (Nat × Nat)) (due : Nat) : Bool :=
  k.mx.items.any (fun it => isDrain it.ins && inSpans spans it.seq && it.open') || k.pend.any (fun e => e.writesFor spans due)

/-- Whether rows that matrix work numbered in a span reads from memory are still to enter (R249). -/
def Core.mxReads (k : Core) (span : Nat × Nat) : Bool :=
  k.mx.items.any (fun it => (match it.ins with | .mstrm .. => true | _ => false) && inSpans [span] it.seq && it.open')

/-- Whether an arrival that has been made still waits for accesses of matrix work issued before it (R249, R266). -/
def Core.mxHolds (k : Core) (span : Nat × Nat) (due : Nat) : Bool := k.mxWrites [span] due || k.mxReads span

/-- The numbers of the queued instructions that must go on for those `wanted` selects to be done with the array (R173): these, and each one
before them that holds back the start of one. Second, those of them that have still to start. -/
def neededSeqs (wanted : MxItem → Bool) : List MxItem → List Nat × List MxItem
  | [] => ([], [])
  | it :: rest =>
    let r := neededSeqs wanted rest
    let holds (j : MxItem) : Bool :=
      !it.started || (isStream it.ins && (isStream j.ins || (match j.ins with | .mwswap _ => true | _ => false)))
        || (isDrain it.ins && isDrain j.ins) || rowsMeet (waitsRows j.ins j.xa j.count) (writesRows it.ins it.count)
    if wanted it || r.2.any holds then (it.seq :: r.1, if it.started then r.2 else it :: r.2) else r

/-- A frozen cycle of the array's work that a wait outlasts: its starts, its row entries and its landing come one cycle earlier in array time,
which stands still; so does the end of a wake it waits for (log 125). No other work goes on. -/
def Core.hasten (k : Core) (spans : List (Nat × Nat)) (due : Nat) (reads : List (Nat × Nat)) : Core :=
  let r := neededSeqs (fun it =>
    (isDrain it.ins && inSpans spans it.seq) || ((match it.ins with | .mstrm .. => true | _ => false) && inSpans reads it.seq)) k.mx.items
  { k with
    pend := k.pend.map (fun e => if e.writesFor spans due then { e with due := e.due - 1 } else e)
    mx := { k.mx with
      items := k.mx.items.map (fun it => if r.1.contains it.seq then { it with next := it.next - 1, due := it.due - 1 } else it)
      work := k.mx.work.map (fun w => if r.1.contains w.seq then { w with due := w.due - 1 } else w)
      gate := if r.2.isEmpty || k.mx.gateParked then k.mx.gate else k.mx.gate.shift (fun w => w - 1) } }

/-- The matrix work that commands of the engine queue, arrivals that have been made and, with `own`, the program thread wait for goes on in a
frozen cycle. -/
def Core.hastenAwaited (k : Core) (own : Bool) : Core :=
  let qs := k.queue.filter (fun q => !q.started)
  let spans := qs.flatMap (·.mxSeq) ++ k.releases.map (·.span) ++ (if own then [k.mxSpan] else [])
  let due := (qs.map (·.mxDue) ++ k.releases.map (·.due) ++ (if own then [k.mx.otherDue] else [])).foldl max 0
  let reads := k.releases.map (·.span)
  if k.mxWrites spans due || reads.any k.mxReads then k.hasten spans due reads else k

/-- Lands the i-th of the rows on their way, before its bound, with each row entered before it into the same destination row (R49, R85). -/
def Mx.landRow (m : Mx) (i : Nat) : Mx :=
  match m.work[i]? with
  | none => m
  | some w =>
    let head := m.work.take (i + 1)
    (head.filter (fun v => v.row == w.row)).foldl Mx.applyRow { m with work := head.filter (fun v => v.row != w.row) ++ m.work.drop (i + 1) }

/-- Whether a gate request is pending. -/
def Gate.isPending (g : Gate) : Bool := match g with | .pending .. => true | _ => false
/-- Whether the array is gated: MX instructions trap (R190). -/
def Gate.isGated (g : Gate) : Bool := match g with | .gated _ => true | _ => false
/-- Whether the array is waking. -/
def Gate.isWaking (g : Gate) : Bool := match g with | .waking _ => true | _ => false

/-- Ends a gate request: its arrivals are made (R190). -/
def Core.gateEnds (k : Core) (g : Gate) : Core :=
  { k with mx := { k.mx with gate := g, gateAr := [] }, arrivals := k.arrivals ++ k.mx.gateAr.map (fun l => ⟨k.ct, l, []⟩) }

/-- What remains of a wake after a request is dropped (R14); that a cancelled request goes back to the wake too is the model's choice (log 132). -/
def Core.gateAfter (k : Core) (wakeEnd : Nat) : Gate := if wakeEnd > k.mt then .waking wakeEnd else .isOpen

/-- Cancels a pending gate (R190): an MX instruction other than MSTAT, MHCNT, MSYNC or MGATE was issued. -/
def Core.gateCancel (k : Core) : Core :=
  match k.mx.gate with
  | .pending _ w => ({ k with mx := k.mx.stick stGcancel }).gateEnds (k.gateAfter w)
  | _ => k

/-- A gate without retention leaves zero cells and cleared elements (R190). -/
def Core.gateEffect (k : Core) : Core :=
  match k.mx.gate with
  | .pending ret _ =>
    let m := if ret then k.mx else { k.mx with acc := [], w0 := [], w1 := [] }.stick stLost
    ({ k with mx := m }).gateEnds (.gated ret)
  | _ => k

/-- Whether a pending gate takes effect now (R190). -/
def Core.gateDue (k : Core) : Bool :=
  match k.mx.gate with
  | .pending _ w => !k.mx.gateParked && k.mx.hoist.isEmpty && k.mxLanded && decide (w ≤ k.mt)
  | _ => false

/-- Whether the trap of a drain's bound is taken now: at the latest boundary R186 allows, the drain's bound (log 133). -/
def Core.drainDue (k : Core) : Bool := k.run == .running && k.mx.drainTraps.any (fun p => decide (p.2 ≤ k.mt))

/-- Whether a wake ends now (R190). -/
def Core.wakeDue (k : Core) : Bool := match k.mx.gate with | .waking w => !k.mx.gateParked && decide (w ≤ k.mt) | _ => false

-- Parking (R191) ------------------------------------------------------------------------------------------------------

/-- An item with its times made relative to `t`. -/
def MxItem.relative (it : MxItem) (t : Nat) : MxItem := { it with next := it.next - t, due := it.due - t }
/-- An item with relative times taken up again at `t`. -/
def MxItem.absolute (it : MxItem) (t : Nat) : MxItem := { it with next := it.next + t, due := it.due + t }

/-- The gate with times of this array: a parked one is taken up again, and what waits for the end of its wake starts accordingly (R173,
R191). -/
def Core.gateLive (k : Core) : Core :=
  if k.mx.gateParked then
    (let m := { k.mx with gate := k.mx.gate.shift (fun w => if w = 0 then 0 else w + k.mt), gateParked := false }
     { k with mx := if k.mx.wakeHeld then m.requeue k.mt else m })
  else k

/-- Lands what has entered or started, and parks the rest (R191). In handler mode nothing more is parked: the caller decides
(R14). -/
def Core.park (k : Core) : Core :=
  let k1 := k.landAll
  let m := k1.mx.landAllWork
  let gone := m.items.filter (fun it => !it.open' && it.ar != 0)
  { k1 with
    mx := { m with items := [], parked := (m.items.filter MxItem.open').map (fun it => { it.relative k.mt with shade := [] }),
                   loadDue := 0, otherDue := 0, gate := m.gate.shift (fun w => w - k.mt), gateParked := true, parkSeq := m.nextSeq,
                   drainTraps := [], parkedTraps := m.drainTraps.map (fun p => (p.1, p.2 - k.mt)) },
    arrivals := k1.arrivals ++ gone.map (fun it => ⟨k.ct, it.ar, []⟩) }

/-- Resumes parked work behind whatever the handler left in the queue (R191). -/
def Core.unpark (k0 : Core) : Core :=
  let k := k0.gateLive
  { k with mx := { k.mx with items := k.mx.items ++ k.mx.parked.map (fun it => it.absolute k.mt), parked := [],
                             parkedTraps := [],
                             drainTraps := k.mx.drainTraps ++ k.mx.parkedTraps.map (fun p => (p.1, p.2 + k.mt)) } }

/-- Drops work that has not started, lands the rest, and withdraws a gate request (R14). -/
def Core.dropArray (k : Core) : Core :=
  let k1 := k.gateLive.landAll
  let m := k1.mx.landAllWork
  let k2 : Core := { k1 with mx := { m with items := [], parked := [], loadDue := 0, otherDue := 0, drainTraps := [], parkedTraps := [] } }
  match k2.mx.gate with
  | .pending _ w => k2.gateEnds (k2.gateAfter w)
  | _ => k2

-- The matrix record (R195, Tables 7 and 8) ----------------------------------------------------------------------------

/-- The gate's code in the record. -/
def Gate.code (g : Gate) : Nat :=
  match g with
  | .isOpen => 0 | .pending false _ => 1 | .pending true _ => 2 | .gated false => 3 | .gated true => 4 | .waking _ => 5

/-- A parked entry's 64 bytes (R195, Table 8). -/
def MxItem.record (it : MxItem) : List Byte :=
  let w := ((encodeSlot it.ins).map (·.word)).getD 0
  bytesOf w.toNat 4 ++ bytesOf it.rows 2 ++ bytesOf it.next 2 ++ bytesOf it.xa.toNat 8 ++ bytesOf it.xn.toNat 8
    ++ bytesOf it.xn1.toNat 8
    ++ (match it.ins with
        | .mtbl .. => (it.tbl.map (fun t => bytesOf t.toNat 2)).flatten
        | _ => if it.started then bytesOf it.mcfg.toNat 4 ++ List.replicate 28 0 else List.replicate 32 0)

/-- Pads a list of bytes with zeros to a length. -/
def padTo (n : Nat) (bs : List Byte) : List Byte := bs ++ List.replicate (n - bs.length) 0

/-- The matrix record (R195, Table 7) of parked work, at array time `t`. -/
def Mx.record (m : Mx) (t : Nat) : List Byte :=
  let wake := if m.gateParked then m.gate.wakeEnd else m.gate.wakeEnd - t
  let head := 0x4D58 + 2 ^ 16 + m.parked.length * 2 ^ 24 + m.hoist.length * 2 ^ 32 + m.gate.code * 2 ^ 37
    + (if bit m.events 7 then 2 ^ 40 else 0)
  bytesOf head 8 ++ bytesOf m.mcfgTail.toNat 8 ++ bytesOf (m.events.toNat * 2 ^ 24) 8 ++ bytesOf wake 8
    ++ (m.t0.map (fun t => bytesOf t.toNat 2)).flatten ++ (m.t1.map (fun t => bytesOf t.toNat 2)).flatten
    ++ List.replicate 32 0 ++ padTo 576 ((m.parked.map MxItem.record).flatten) ++ List.replicate 320 0

/-- A field of a byte list. -/
def fieldAt (bs : List Byte) (off n : Nat) : Nat := leNat ((bs.drop off).take n)

/-- Whether a record fails the check of MREST (R194): identifier, version, entry count, or a reserved byte: a bit that Table 7 reserves or
gives as zero beside a field (log 148). -/
def recordBad (bs : List Byte) : Bool :=
  let head := fieldAt bs 0 8
  head % 2 ^ 16 != 0x4D58 || head / 2 ^ 16 % 256 != 1 || decide (head / 2 ^ 24 % 16 > 9)
    || head / 2 ^ 28 % 16 != 0 || head / 2 ^ 41 != 0
    || fieldAt bs 0x0C 4 != 0 || fieldAt bs 0x10 3 != 0 || fieldAt bs 0x14 4 != 0 || fieldAt bs 0x18 8 / 2 ^ 11 != 0
    || fieldAt bs 0x60 32 != 0 || fieldAt bs 0x2C0 320 != 0

/-- The table of 32 bytes. -/
def tableOf (bs : List Byte) : List (BitVec 16) := (List.range 16).map (fun i => BitVec.ofNat 16 (fieldAt bs (2 * i) 2))

/-- The parked item of 64 bytes (R195, Table 8); `t0` and `t1` are the tables of the record, which a stream that had started uses (log 127).
The slot word does not hold MTBL's lend bit: which table it names is a free value (log 13). A stream of no rows entered had started when its
bytes 32 to 35 hold an MCFG (log 127). -/
def itemOf (bs : List Byte) (tail : BitVec 32) (ardom : BitVec 2) (t0 t1 : List (BitVec 16)) (seq : Nat) : Option MxItem :=
  let w := BitVec.ofNat 32 (fieldAt bs 0 4)
  let ld : BitVec 6 := if (fld w 26 6).toNat = 2 && Config.mtblSlot w then 1 else 0
  (decodeSlot .mx ld w none).map fun i =>
    let rows := fieldAt bs 4 2
    let off := fieldAt bs 6 2
    let mc : BitVec 32 := mcMask (BitVec.ofNat 32 (fieldAt bs 32 4))
    let xn := BitVec.ofNat 64 (fieldAt bs 16 8)
    let n := (fld xn 0 8).toNat + 1
    let started := isStream i && (rows != 0 || fieldAt bs 32 4 != 0)
    let xa : Word := BitVec.ofNat 64 (fieldAt bs 8 8)
    { ins := i, next := off, xa := (match i with | .mcfg _ => fld xa 32 32 ++ mcMask (fld xa 0 32) | _ => xa), xn := xn, xn1 := BitVec.ofNat 64 (fieldAt bs 24 8),
      due := off + (if started then ownBound i mc n - (occupancy i mc n - (occupancy i mc (n - rows))) else ownBound i tail n),
      tbl := if started then (if mcTsel mc then t1 else t0) else tableOf (bs.drop 32), started := started, rows := if isStream i then rows else 0,
      mcfg := if started then mc else tail, ar := if bit w 22 then ardom else 0, cover := [], seq := seq }

/-- The matrix state a record restores (R194): configuration, tables, sticky bits and parked entries. The record holds MCFG at
the queue tail; the word in force is that one unless a parked MCFG is still to start, and then a free value (log 14). -/
def Mx.restore (m : Mx) (bs : List Byte) (ardom : BitVec 2) : Mx :=
  let n := fieldAt bs 0 8 / 2 ^ 24 % 16
  let tail := mcMask (BitVec.ofNat 32 (fieldAt bs 8 4))
  let t0 := tableOf (bs.drop 0x20)
  let t1 := tableOf (bs.drop 0x40)
  let items := (List.range n).filterMap (fun i => itemOf (bs.drop (0x80 + 64 * i)) tail ardom t0 t1 (i + 1))
  let free := Config.mcfgInForce tail
  let now := if items.any (fun it => match it.ins with | .mcfg _ => true | _ => false) && mcValid free then free else tail
  { m with mcfg := now, mcfgTail := tail, sticky := BitVec.ofNat 8 (fieldAt bs 0x10 4 / 2 ^ 24),
           t0 := t0, t1 := t1, parked := items }

/-- MSTAT (R188, Table 5). -/
def Core.mstat (k : Core) : Word :=
  let m := k.mx
  let g := m.gate
  (m.events.setWidth 64 <<< 24)
    ||| (BitVec.ofNat 64 k.hoistHeld <<< 17) ||| (BitVec.ofNat 64 (m.waiting k.mt) <<< 13)
    ||| ((bitOf 64 !m.parked.isEmpty) <<< 7) ||| ((bitOf 64 (decide (g.wakeEnd > if m.gateParked then 0 else k.mt))) <<< 6)
    ||| ((bitOf 64 (match g with | .pending r _ => r | _ => false)) <<< 5) ||| ((bitOf 64 g.isPending) <<< 4)
    ||| ((bitOf 64 (decide (m.loadDue > k.mt))) <<< 2)
    ||| ((bitOf 64 (m.items.any (fun it => isStream it.ins) || !m.work.isEmpty)) <<< 1) ||| bitOf 64 !k.mxLanded

end Sys2Proof.Machine
end

