-- ==== Sys2Proof/Machine/Torus.lean ====
section
/-! DEFINITION. The torus seen from one package: chip positions, ports, routes (R382) and the packets handed to a port (R380, R383, R386). -/
namespace Sys2Proof.Machine
open Sys2Proof

-- Positions and ports -------------------------------------------------------------------------------------------------

/-- X, Y, Z of a chip id (R382). -/
def chipPos (c : BitVec 21) : Vector Nat 3 := #v[c.toNat % 128, c.toNat / 128 % 128, c.toNat / 16384]
/-- The chip at another position of a dimension. -/
def ringChip (c : BitVec 21) (d : Fin 3) (x : Nat) : BitVec 21 :=
  BitVec.ofNat 21 (c.toNat - (chipPos c)[d] * 128 ^ d.val + x * 128 ^ d.val)
/-- The ports of a dimension: positive, negative. -/
def dimPorts (d : Fin 3) : Port × Port := match d with | 0 => (.xp, .xn) | 1 => (.yp, .yn) | 2 => (.zp, .zn)
/-- Index of a port. -/
def portIx (p : Port) : Fin 6 := match p with | .xp => 0 | .xn => 1 | .yp => 2 | .yn => 3 | .zp => 4 | .zn => 5
/-- A port's state. -/
def State.port (s : State) (p : Port) : TorusPort := s.ports[portIx p]
/-- Changes a port. -/
def State.modPort (s : State) (p : Port) (f : TorusPort → TorusPort) : State := { s with ports := s.ports.set (portIx p) (f (s.port p)) }

/-- Whether the management firmware runs (R402, R414): the whole reset sequence has succeeded, and the links are in service. -/
def State.firmware (s : State) : Bool := s.boot == .none

-- Routes (R382) -------------------------------------------------------------------------------------------------------

/-- Whether a port of a package is in service: this package's own, or another's as the package has been told. -/
def State.portIsUp (s : State) (c : BitVec 21) (p : Port) : Bool := if c == s.chip then (s.port p).up else !s.farDown.contains (c, p)

/-- Length of the ring of a dimension. -/
def State.ringLen (s : State) (d : Fin 3) : Nat := max 1 s.rings[d]

/-- Whether `k` hops from a chip round the ring of a dimension, in the positive direction or the other, pass no port that is down. -/
def State.wayUp (s : State) (c : BitVec 21) (d : Fin 3) (positive : Bool) (k : Nat) : Bool :=
  let n := s.ringLen d
  let x := (chipPos c)[d] % n
  let place (i : Nat) : BitVec 21 := ringChip c d (if positive then (x + i) % n else (x + n - i % n) % n)
  let ps := dimPorts d
  (List.range k).all (fun i =>
    s.portIsUp (place i) (if positive then ps.1 else ps.2) && s.portIsUp (place (i + 1)) (if positive then ps.2 else ps.1))

/-- The dimension a packet at a chip moves in first, with its distance in the positive direction. -/
def State.firstDim (s : State) (c dst : BitVec 21) : Option (Fin 3 × Nat) :=
  [(0 : Fin 3), 1, 2].findSome? (fun d =>
    let n := s.ringLen d
    let a := ((chipPos dst)[d] + n - (chipPos c)[d] % n) % n
    if a = 0 then none else some (d, a))

/-- The direction a packet takes round a ring for a distance in the positive direction: the shorter, positive on a tie, the other way past a
down port; none when both are broken. -/
def State.ringWay (s : State) (c : BitVec 21) (d : Fin 3) (a : Nat) : Option Bool :=
  let n := s.ringLen d
  let short := decide (2 * a ≤ n)
  let len (positive : Bool) : Nat := if positive then a else n - a
  if s.wayUp c d short (len short) then some short else if s.wayUp c d (!short) (len (!short)) then some (!short) else none

/-- The port a packet leaves this package by: dimension order, then the way round the ring; none without a route (R382). -/
def State.route (s : State) (dst : BitVec 21) : Option Port :=
  match s.firstDim s.chip dst with
  | none => none
  | some (d, a) => (s.ringWay s.chip d a).map (fun positive => if positive then (dimPorts d).1 else (dimPorts d).2)

/-- Whether a route leads from a chip to another, dimension after dimension. -/
def State.reachFrom (s : State) (c dst : BitVec 21) : Nat → Bool
  | 0 => true
  | n + 1 =>
    match s.firstDim c dst with
    | none => true
    | some (d, a) => (s.ringWay c d a).isSome && s.reachFrom (ringChip c d ((chipPos dst)[d] % s.ringLen d)) dst n

/-- Whether a chip can be reached (R382). -/
def State.reachable (s : State) (dst : BitVec 21) : Bool := dst == s.chip || s.reachFrom s.chip dst 3

-- Packets (R380, R383, R386) ------------------------------------------------------------------------------------------

/-- The data of an operation that follow its transaction fields (R380). -/
def opData (op : FabOp) : List Byte :=
  match op.kind with
  | .fwr _ d => d.bytes
  | .fwrBerth _ _ _ _ _ d => d.bytes
  | .ffaa _ a => bytesOf a.toNat 8
  | .fflg _ _ v => bytesOf v.toNat 8
  | .chunk _ ch => ch.elems.bytes ++ ch.scales.bytes

/-- The destination address of an operation (R380): the IA, or the offset in a berth. -/
def opAddr (op : FabOp) : Nat :=
  match op.kind with
  | .fwr ia _ => ia | .fwrBerth _ _ off _ _ _ => off | .ffaa ia _ => ia | .fflg ia _ _ => ia | .chunk .. => 0

/-- The channel of an operation (R383). -/
def opChannel (op : FabOp) : BitVec 2 := match op.kind with | .chunk .. => 2 | _ => 0

/-- The payloads of a packet's flits: 24 bytes of fields, then the data (R380). -/
def packetFlits (bs : List Byte) : Nat → List (BitVec 448)
  | 0 => []
  | n + 1 => BitVec.ofNat 448 (leNat (bs.take 56)) :: (if bs.length ≤ 56 then [] else packetFlits (bs.drop 56) n)

/-- Bits `at_` to `at_ + n - 1` of a head replaced by those of a field of n bits. -/
def setField {n : Nat} (w : BitVec 192) (at_ : Nat) (v : BitVec n) : BitVec 192 :=
  (w &&& ~~~ (((BitVec.allOnes n).setWidth 192) <<< at_)) ||| (v.setWidth 192 <<< at_)

/-- The 24 bytes of transaction fields (R380): destination chip and class at their places, by which a package on the route reads them, and the
rest. -/
def headFields (h : Head) : BitVec 192 := setField (setField (Config.headRest h) Config.headChipAt h.dst) Config.headClassAt h.cls
/-- The destination chip that transaction fields name. -/
def headChip (f : BitVec 192) : BitVec 21 := fld f Config.headChipAt 21
/-- The bandwidth class that transaction fields name. -/
def headClass (f : BitVec 192) : BitVec 2 := fld f Config.headClassAt 2

/-- A packet with its transaction fields and data. -/
def packetOf (vc : BitVec 2) (h : Head) (data : List Byte) (fate : Fate) : Packet :=
  let bs := bytesOf (headFields h).toNat 24 ++ data
  ⟨vc, packetFlits bs (bs.length / 56 + 1), h.dst, h.cls, fate⟩

/-- Queues a packet on a port: the response channel before every class (R386). -/
def TorusPort.queue (t : TorusPort) (p : Packet) : TorusPort :=
  if p.vc = 1 then { t with resp := t.resp ++ [p] }
  else { t with classes := t.classes.set p.cls.toNat (t.classes[p.cls.toNat]'(p.cls.isLt) ++ [p]) p.cls.isLt }

/-- Sends a packet by the route of its destination; without one, a packet that is delivered in the end waits for a route (R388). -/
def State.xmit (s : State) (p : Packet) : State :=
  match s.route p.dst with
  | some q => s.modPort q (fun t => t.queue p)
  | none => if p.fate == .delivered then { s with strays := s.strays ++ [p] } else s

/-- Sends the packets that waited for a route (R388). -/
def State.sendStrays (s : State) : State := s.strays.foldl State.xmit { s with strays := [] }

/-- All torus ports. -/
def allPorts : List Port := [.xp, .xn, .yp, .yn, .zp, .zn]

/-- The packets a port has not begun. -/
def TorusPort.queued (t : TorusPort) : List Packet := t.resp ++ t.classes.toList.flatten

/-- Packets that wait at a port their route no longer leads by are sent the other way (R382). -/
def State.reroute (s : State) : State :=
  allPorts.foldl (fun s p =>
    let t := s.port p
    let stays (k : Packet) : Bool := s.route k.dst == some p
    if t.queued.all stays then s
    else (t.queued.filter (fun k => !stays k)).foldl State.xmit
      (s.modPort p (fun t => { t with resp := t.resp.filter stays, classes := t.classes.map (fun l => l.filter stays) }))) s

/-- A packet received whole: one for another package goes on along its route without entering any core (R382). -/
def State.forward (s : State) (vc : BitVec 2) (flits : List (BitVec 448)) : State :=
  let fields : BitVec 192 := fld (flits.headD 0) 0 192
  if headChip fields = s.chip then s else s.xmit ⟨vc, flits, headChip fields, headClass fields, .held⟩

end Sys2Proof.Machine
end

