-- ==== Sys2Proof/Machine/Queue.lean ====
section
/-! DEFINITION. What completes across the package: barriers (R249, R298), semaphore adds, engine completions (R24, R203),
aborts (R234) and the weight a task returns (R252). -/
namespace Sys2Proof.Machine
open Sys2Proof

/-- The level of ARDOM[1:0] (R70). -/
def levelOf (b : BitVec 2) : Option Level := match b.toNat with | 1 => some .l1 | 2 => some .l2 | 3 => some .l3 | _ => none

/-- The DOM register of a level. -/
def Csrs.domOf (c : Csrs) (l : Level) : Word := c.dom[l.ix]
/-- The phase number of a level. -/
def Csrs.dphOf (c : Csrs) (l : Level) : BitVec 32 := c.dph[l.ix]
/-- Whether a DOM value holds a domain (R296). -/
def domV (d : Word) : Bool := bit d 31
/-- COUNT of a DOM value (R296). -/
def domCount (d : Word) : BitVec 32 := fld d 32 32

/-- A phase change of the barrier keyed by a value: every running or suspended member's phase number rises by one (R298). -/
def Core.phaseChange (k : Core) (key : Word) (l : Level) : Core :=
  let k1 := if k.run != .idle && k.csr.domOf l == key then { k with csr := { k.csr with dph := k.csr.dph.set l.ix (k.csr.dphOf l + 1) } } else k
  match k1.suspended with
  | some u => if u.dom[l.ix] == key then { k1 with suspended := some { u with dph := u.dph.set l.ix (u.dph[l.ix] + 1) } } else k1
  | none => k1

/-- Every core observes a phase change (R298: at once, of the 64 ticks allowed; log 4). -/
def State.phaseChange (s : State) (key : Word) (l : Level) : State :=
  { s with cores := s.cores.map (fun k => k.phaseChange key l) }

/-- Arrivals counted so far at a barrier. -/
def barCount (bs : List Barrier) (key : Word) (l : Level) : BitVec 32 :=
  ((bs.find? (fun b => b.key == key && b.level == l)).map (·.count)).getD 0

/-- Sets the count of a barrier; a count of zero is not listed. -/
def setBar (bs : List Barrier) (key : Word) (l : Level) (n : BitVec 32) : List Barrier :=
  let rest := bs.filter (fun b => !(b.key == key && b.level == l))
  if n = 0 then rest else rest ++ [⟨key, l, n⟩]

/-- Total of the arrivals the root knows at a level 3 barrier: its own and those other packages sent (R388). -/
def State.l3Total (s : State) (key : Word) : Nat :=
  (barCount s.bars key .l3).toNat + ((s.l3.filter (fun e => e.1 == key)).map (fun e => e.2.2.toNat)).sum

/-- The packages of the pod group of a DOM3 value, by the firmware's group table (R388): this one alone where the table has no entry (log 19). -/
def State.groupOf (s : State) (key : Word) : List (BitVec 21) :=
  match SMap.get [] s.groups (fld key 0 16 : BitVec 16).toNat with
  | [] => [s.chip]
  | l => l

/-- The root of a level 3 barrier: the package of lowest chip id in the group (R388). -/
def State.groupRoot (s : State) (key : Word) : BitVec 21 :=
  BitVec.ofNat 21 ((s.groupOf key).foldl (fun m c => min m c.toNat) (2 ^ 21 - 1))

/-- Whether this package is the root of a level 3 barrier (R388). -/
def State.isRoot (s : State) (key : Word) : Bool := s.groupRoot key == s.chip

/-- The root sends a phase change to another package of the group, on the collective channel (R383, R388). -/
def State.sendPhase (s : State) (key : Word) (chip : BitVec 21) : State :=
  ({ s with out := s.out ++ [OutMsg.phase chip key] }).xmit (packetOf 2 ⟨chip, s.chip, 0, .phase, 0, 0, key.toNat⟩ [] .delivered)

/-- A package sends its arrival count to the root (R383, R388). -/
def State.sendCount (s : State) (key : Word) (n : BitVec 32) : State :=
  let root := s.groupRoot key
  ({ s with out := s.out ++ [OutMsg.count root key n] }).xmit (packetOf 2 ⟨root, s.chip, 0, .count n, 0, 0, key.toNat⟩ [] .delivered)

/-- The root of a level 3 barrier decides (R388): at COUNT arrivals the phase changes here and the change is sent to every other package of the
group. -/
def State.l3Decide (s : State) (key : Word) : State :=
  if s.l3Total key < (domCount key).toNat then s
  else
    ((s.groupOf key).filter (fun c => c != s.chip)).foldl (fun s c => s.sendPhase key c)
      (({ s with l3 := s.l3.filter (fun e => e.1 != key), bars := setBar s.bars key .l3 0 }).phaseChange key .l3)

/-- One arrival at a barrier (R249, R298). At levels 1 and 2 the count that reaches COUNT changes the phase and restarts; at
level 3 the package counts its own arrivals, and the root of the group decides (R388). -/
def State.arriveKey (s : State) (key : Word) (l : Level) : State :=
  let n := barCount s.bars key l + 1
  let s1 := { s with bars := setBar s.bars key l n }
  if l == .l3 then
    if s.isRoot key then s1.l3Decide key else s1.sendCount key n
  else if n == domCount key then ({ s with bars := setBar s.bars key l 0 }).phaseChange key l
  else s1

/-- An arrival at a barrier is a release for every class (R249, R266): the core's stores perform, and the arrival counts at once or, while
matrix work issued before it has writes still to land or rows still to read, when it has made them. -/
def State.release (s : State) (c : CoreId) (l : Level) (key : Word) : State :=
  let k := (s.core c).flushAll
  if k.mxHolds k.mxSpan k.mx.otherDue then s.setCore c { k with releases := k.releases ++ [⟨l, key, k.mxSpan, k.mx.otherDue⟩] }
  else (s.setCore c k).arriveKey key l

/-- A core's arrival at the barrier of its domain of a level (R249). -/
def State.arrive (s : State) (c : CoreId) (l : Level) : State :=
  (s.modCore c (fun k => { k with lastArr := k.lastArr.set l.ix (some (k.csr.dphOf l)) })).release c l ((s.core c).csr.domOf l)

/-- An arrival named by ARDOM's two bits. -/
def State.arriveBits (s : State) (c : CoreId) (b : BitVec 2) : State :=
  match levelOf b with
  | none => s
  | some l => s.arrive c l

/-- Counts the arrivals whose matrix work has made its accesses (R249). -/
def State.countReleases (s : State) (c : CoreId) : State :=
  let k := s.core c
  let ready (r : Release) : Bool := !k.mxHolds r.span r.due
  (k.releases.filter ready).foldl (fun s r => s.arriveKey r.key r.lvl) (s.setCore c { k with releases := k.releases.filter (fun r => !ready r) })

/-- Makes the arrivals of the slots that have retired (R70), and counts those that waited for matrix writes. -/
def State.makeArrivals (s : State) (c : CoreId) : State :=
  let k := s.core c
  let due := k.arrivals.filter k.retired
  (due.foldl (fun s a => s.arriveBits c a.lvl) (s.setCore c { k with arrivals := k.arrivals.filter (fun a => !k.retired a) })).countReleases c

/-- Makes every arrival still to come of a task that leaves the core: its slots have retired (R70, R252). -/
def State.arriveAll (s : State) (c : CoreId) : State :=
  let k := s.core c
  (k.arrivals.foldl (fun s a => s.arriveBits c a.lvl) (s.setCore c { k with arrivals := [] })).countReleases c

/-- The arrival of a command (R70, R249): a release for every class, at the barrier whose DOM value its task had when it issued. -/
def State.arriveCmd (s : State) (c : CoreId) (q : Cmd) : State :=
  match levelOf q.ar with
  | none => s
  | some l =>
    let k := s.core c
    let k1 :=
      if k.run != .idle && k.task == q.task then
        (if k.csr.domOf l == q.arKey then { k with lastArr := k.lastArr.set l.ix (some (k.csr.dphOf l)) } else k)
      else
        match k.suspended with
        | some u => if u.task == q.task && u.dom[l.ix] == q.arKey then { k with suspended := some { u with arr := u.arr.set l.ix (some u.dph[l.ix]) } } else k
        | none => k
    (s.setCore c k1).release c l q.arKey

/-- Adds to a semaphore of a core. -/
def State.semAdd (s : State) (c : CoreId) (n : BitVec 6) (a : Int) : State := s.modCore c (fun k => k.modSem n (fun m => m.add a))

/-- Returns the weight of every ended task whose commands have all completed (R252): an add to the root semaphore. -/
def State.returnWeights (s : State) (c : CoreId) : State :=
  let k := s.core c
  let busy (e : ExitWeight) : Bool := k.queue.any (fun q => q.task == e.task)
  let done := k.exits.filter (fun e => !busy e)
  done.foldl (fun s e => s.semAdd (fld e.root 0 11) (fld e.root 16 6) e.weight.toNat)
    (s.setCore c { k with exits := k.exits.filter busy })

/-- The command of an id. -/
def Core.cmd (k : Core) (id : Nat) : Option Cmd := k.queue.find? (fun q => q.id == id)
/-- Replaces a command. -/
def Core.setCmd (k : Core) (q : Cmd) : Core := { k with queue := k.queue.map (fun r => if r.id = q.id then q else r) }

/-- BNDHIT bits of a completed command reach the task that issued it, if it runs or is suspended (R205). -/
def Core.recordHits (k : Core) (task : Nat) (h : BitVec 16) : Core :=
  if h = 0 then k
  else if k.run != .idle && k.task == task then { k with csr := { k.csr with bndhit := k.csr.bndhit ||| h } }
  else
    match k.suspended with
    | some u => if u.task = task then { k with suspended := some { u with bndhit := u.bndhit ||| h } } else k
    | none => k

/-- What the end of a MIGR does (R231, R319): M of the entries a REMAP leaves unexchanged is cleared (`nums` holds their keys),
and a completion after the deadline counts in the partition's migrate slips. -/
def State.endMigr (s : State) (c : CoreId) (q : Cmd) : State :=
  let late (s : State) : State :=
    let p := (s.core c).part
    if q.xd1.ult s.tnow then
      { s with parts := s.parts.set p.toNat (let t := s.parts[p.toNat]'(p.isLt); { t with migrSlip := satAdd t.migrSlip 1 }) p.isLt }
    else s
  match q.ins with
  | .migr _ => late s
  | .migrRemap _ => late { s with pages := q.nums.foldl (fun m p => SMap.set 0 m p (SMap.get 0 m p &&& ~~~ 0x10#64)) s.pages }
  | _ => s

/-- The status record a command writes before it completes (R216, R224, Table 7): its scratchpad offset and its bytes. -/
def Cmd.record (q : Cmd) (st : Status) : Option (Nat × List Byte) :=
  match q.ins with
  | .mcast _ =>
    if bit q.xd 63 then some (32 * (fld q.xd 48 14).toNat,
      bytesOf (statusCode st) 8 ++ bytesOf q.refused.toNat 8 ++ bytesOf q.accepted.toNat 8 ++ List.replicate 8 0) else none
  | .coll _ =>
    let p := fieldAt (q.blocks.getD 0 []) 48 8
    if p = 0 then none
    else some (p % 2 ^ 19, [BitVec.ofNat 8 (statusCode st), 0#5 ++ bitOf 1 (q.hits != 0) ++ bitOf 1 q.ozero ++ bitOf 1 q.osat, 0, 0]
      ++ bytesOf q.accepted.toNat 4 ++ bytesOf q.refused.toNat 8 ++ List.replicate 16 0)
  | _ => none

/-- Writes the status record of a command that has started. -/
def Core.writeRecord (k : Core) (q : Cmd) (st : Status) : Core :=
  match if q.started then q.record st else none with
  | some r => { k with sp := k.sp.mergeGran (r.1 / 32) (BitVec.ofNat 256 (leNat r.2)) (BitVec.allOnes 32) (some false) }
  | none => k

/-- Completes a command with a status (R24, R203): bound hits, then the semaphore, then its arrival and any weight return. A
status other than OK reaches the flags that cover it (R223). -/
def State.complete (s : State) (c : CoreId) (id : Nat) (st : Status) : State :=
  let k := s.core c
  match k.cmd id with
  | none => s
  | some q =>
    let rest := (k.queue.filter (fun r => r.id != id)).map (fun r =>
      if r.covers.contains id then { r with covers := r.covers.filter (fun i => i != id), met := if st = .ok then r.met else r.met ++ [st] }
      else r)
    let k1 := (({ k with queue := rest }).writeRecord q st).recordHits q.task q.hits
    let s1 := (s.endMigr c q).setCore c (k1.modSem q.sem (fun m => m.complete st))
    (s1.arriveCmd c q).returnWeights c

/-- Whether a command is a SNAP (R232: never aborted). -/
def isSnap (i : Instr) : Bool := match i with | .snap .. | .snapSeal .. => true | _ => false
/-- Whether a command is a CPAB: outside the class order (R201), and never aborted (R196, R234). -/
def isCpab (i : Instr) : Bool := match i with | .cpab _ => true | _ => false
/-- Whether a command is a TRIM. -/
def isTrim (i : Instr) : Bool := match i with | .trim _ => true | _ => false
/-- Whether a running command is past the point of no return (R234). -/
def Cmd.noReturn (q : Cmd) : Bool :=
  match q.ins with
  | .semr _ => q.started
  | .ffaa _ | .fflg _ | .fflgAdd _ => q.delivering
  | .send .. | .mcast _ => q.delivering
  | _ => false

/-- Whether a peer write has left for its destination and is not answered yet. -/
def State.inFlight (s : State) (c : CoreId) (q : Cmd) : Bool :=
  match q.ins with
  | .fwr _ | .fwrBerth _ => s.sent.any (fun e => e.op.srcCore == c && e.cmd == q.id && !e.waiting)
  | _ => false

/-- Aborts one command (R234): removed or stopped at a granule boundary with ABORTED; a running sweep is told to stop, and a peer write that is
under way completes when it is answered (R269). What has not been sent is not sent. -/
def State.abortOne (s : State) (c : CoreId) (q : Cmd) : State :=
  let s1 := { s with sent := s.sent.filter (fun e => !(e.op.srcCore == c && e.cmd == q.id && e.waiting)) }
  if isSnap q.ins || isCpab q.ins || q.noReturn then s
  else if isTrim q.ins && q.started then s.modCore c (fun k => k.setCmd { q with stopping := true })
  else if s.inFlight c q then s1.modCore c (fun k => k.setCmd { q with stopping := true, met := .aborted :: q.met })
  else s1.complete c q.id .aborted

/-- Aborts every command of the masked classes that `sel` selects (R234). -/
def State.abortAll (s : State) (c : CoreId) (mask : BitVec 16) (sel : Cmd → Bool) : State :=
  ((s.core c).queue.filter (fun q => mask.getLsbD q.cls.toNat && sel q)).foldl (fun s q => s.abortOne c q) s

end Sys2Proof.Machine
end

