-- ==== Sys2Proof/Machine/Marks.lean ====
section
/-! DEFINITION. Partitions, the page table (R314), the marks of a cut and the copies made ahead of its drain (R360, R366, R367), and
the logs of corrected errors (R323, R324). -/
namespace Sys2Proof.Machine
open Sys2Proof

-- Partitions ----------------------------------------------------------------------------------------------------------

/-- A partition by number. -/
def State.part (s : State) (p : BitVec 5) : Part := s.parts[p.toNat]'(p.isLt)
/-- Changes a partition. -/
def State.modPart (s : State) (p : BitVec 5) (f : Part → Part) : State := { s with parts := s.parts.set p.toNat (f (s.part p)) p.isLt }
/-- Changes the counters of the partition of a core (R394). -/
def State.countBytes (s : State) (c : CoreId) (f : Part → Part) : State := s.modPart (s.core c).part f
/-- FAULTMAX of a partition: 0 means 2^24 (R316, Table 5 of R404). -/
def State.faultMax (s : State) (p : BitVec 5) : Nat :=
  let f := (s.part p).faultmax.toNat
  if f = 0 then 2 ^ 24 else f
/-- All partition numbers. -/
def allParts : List (BitVec 5) := (List.range 32).map (BitVec.ofNat 5)

-- Marks of a cut (R360, R366) -----------------------------------------------------------------------------------------

/-- Copy-on-write granule size of a range (R360). -/
def SnapRange.unit (r : SnapRange) : Nat := if r.hold then 2048 else 65536
/-- Granules of a range. -/
def SnapRange.units (r : SnapRange) : Nat := r.len / r.unit
/-- Whether a range holds a place. -/
def SnapRange.has (r : SnapRange) (hold : Bool) (core : CoreId) (a : Nat) : Bool :=
  r.hold == hold && (!hold || r.core == core) && decide (r.base ≤ a) && decide (a < r.base + r.len)

/-- The number of the granule that holds a place, counted through the ranges in set order. -/
def granuleOf (rs : List SnapRange) (hold : Bool) (core : CoreId) (a : Nat) (n : Nat) : Option Nat :=
  match rs with
  | [] => none
  | r :: rest => if r.has hold core a then some (n + (a - r.base) / r.unit) else granuleOf rest hold core a (n + r.units)

/-- The range and the address of a granule. -/
def granuleAt (rs : List SnapRange) (g : Nat) : Option (SnapRange × Nat) :=
  match rs with
  | [] => none
  | r :: rest => if g < r.units then some (r, r.base + g * r.unit) else granuleAt rest (g - r.units)

/-- The ranges of a partition's snapshot set. -/
def Part.ranges (p : Part) : List SnapRange := match p.snapset with | some t => t.ranges | none => []

/-- Whether a granule of a cut is still marked: neither copied nor drained (R366, R367). -/
def Cut.marked (c : Cut) (g : Nat) : Bool := decide (c.pos ≤ g) && !c.copies.any (fun e => e.1 == g)

/-- The marked granule that holds a place; none where no cut marks it. -/
def Part.markOf (p : Part) (hold : Bool) (core : CoreId) (a : Nat) : Option Nat :=
  match p.cut with
  | none => none
  | some c => match granuleOf p.ranges hold core a 0 with
    | some g => if c.marked g then some g else none
    | none => none

/-- Whether a cut covers a place, marked or not. -/
def Part.inCut (p : Part) (hold : Bool) (core : CoreId) (a : Nat) : Bool :=
  p.cut.isSome && (granuleOf p.ranges hold core a 0).isSome

/-- The marked granule of a hold offset of a core (R367). -/
def State.holdMark (s : State) (c : CoreId) (off : Nat) : Option Nat := (s.part (s.core c).part).markOf true c off

/-- The granules a cut of a partition still marks. -/
def Part.marksLeft (p : Part) : List Nat :=
  match p.cut with
  | none => []
  | some c => (List.range (p.ranges.map SnapRange.units).sum).filter c.marked

/-- Asks the drydock for the copy of a granule a writer waits for (R367). -/
def State.askCopy (s : State) (p : BitVec 5) (g : Nat) : State :=
  s.modPart p (fun t => match t.cut with
    | some c => if c.copying.contains g then t else { t with cut := some { c with copying := c.copying ++ [g] } }
    | none => t)

-- The page table (R314, Table 4) --------------------------------------------------------------------------------------

/-- The key of the entry of an IA page: a 2 MiB entry covers 32 aligned pages. -/
def State.pageKey (s : State) (page : Nat) : Nat :=
  let top := page / 32 * 32
  if bit (SMap.get 0 s.pages top) 7 then top else page
/-- The entry that translates an IA. -/
def State.pageEntry (s : State) (ia : Nat) : BitVec 64 := SMap.get 0 s.pages (s.pageKey (ia / 65536))
/-- Sets bits of the entry that translates an IA. -/
def State.orEntry (s : State) (ia : Nat) (b : BitVec 64) : State :=
  let k := s.pageKey (ia / 65536)
  { s with pages := SMap.set 0 s.pages k (SMap.get 0 s.pages k ||| b) }
/-- Clears bits of the entry that translates an IA. -/
def State.clearEntry (s : State) (ia : Nat) (b : BitVec 64) : State :=
  let k := s.pageKey (ia / 65536)
  { s with pages := SMap.set 0 s.pages k (SMap.get 0 s.pages k &&& ~~~ b) }

/-- P of an entry. -/
def pteP (e : BitVec 64) : Bool := bit e 0
/-- W of an entry. -/
def pteW (e : BitVec 64) : Bool := bit e 1
/-- C of an entry. -/
def pteC (e : BitVec 64) : Bool := bit e 2
/-- X of an entry. -/
def pteX (e : BitVec 64) : Bool := bit e 3
/-- M of an entry. -/
def pteM (e : BitVec 64) : Bool := bit e 4
/-- OWNER of an entry. -/
def pteOwner (e : BitVec 64) : BitVec 5 := fld e 8 5
/-- FRAME of an entry. -/
def pteFrame (e : BitVec 64) : Nat := (fld e 16 23).toNat

/-- The HBM address an entry gives an IA: a 2 MiB page spans 32 frames. -/
def pteLoc (e : BitVec 64) (ia : Nat) : Nat :=
  (pteFrame e + (if bit e 7 then ia / 65536 % 32 else 0)) * 65536 + ia % 65536

-- Corrected errors (R323, R324) ---------------------------------------------------------------------------------------

/-- The three bits a key selects in a filter (R323). -/
def filterBits (key : BitVec 48) : List Nat :=
  [0x9E3779B97F4A7C15#64, 0xC2B2AE3D27D4EB4F, 0x165667B19E3779F9].map (fun m => (((key.setWidth 64 : Word) * m) >>> 52).toNat)

/-- A record of a log (R324): TNOW, the key, INJ and the memory. -/
def errRecord (now : Word) (key : BitVec 48) (inj hold : Bool) : BitVec 128 :=
  (bitOf 8 hold : BitVec 8) ++ (bitOf 8 inj : BitVec 8) ++ key ++ now

/-- Appends to a log that is a ring of `cap` records: a full one overwrites its oldest and counts the loss (R324). -/
def ErrLog.add (l : ErrLog) (cap : Nat) (r : BitVec 128) : ErrLog :=
  if l.records.length < cap then { l with records := l.records ++ [r] } else ⟨l.records.drop 1 ++ [r], satAdd l.lost 1⟩

/-- note_corrected (R323) on filter f: 0 to 7 the stacks, 8 to 11 the hold dies. -/
def State.noteCorrected (s : State) (f : Nat) (key : BitVec 48) (inj hold : Bool) : State :=
  let t := s.tele
  let bits := (filterBits key).map (fun b => f * 4096 + b)
  let r := errRecord s.tnow key inj hold
  if bits.all (fun b => SMap.get false t.filters b) then { s with tele := { t with repeats := t.repeats.add t.logCap r } }
  else { s with tele := { t with filters := bits.foldl (fun m b => SMap.set false m b true) t.filters, first := t.first.add t.logCap r } }

/-- A corrected error of a column word of a hold (R323): its key, on the filter of the hold die of its basin. -/
def State.noteHold (s : State) (c : CoreId) (g : Nat) (inj : Bool) : State :=
  s.noteCorrected (8 + coreBasin c) (BitVec.ofNat 48 (c.toNat * 2 ^ 17 + g % 16 * 2 ^ 13 + g / 16)) inj true

/-- Logs the errors that read-modify-writes of a core's hold have corrected (R323). -/
def State.flushNotes (s : State) (c : CoreId) : State :=
  if (s.core c).notes.isEmpty then s
  else (s.core c).notes.foldl (fun s g => s.noteHold c g false) (s.modCore c (fun k => { k with notes := [] }))

/-- The stack of an HBM address (R312). -/
def hbmStack (loc : Nat) : Nat := (16 * (loc / 65536) + loc / 4096 % 16) % 8

/-- A corrected error of HBM (R323). -/
def State.noteHbm (s : State) (loc : Nat) (inj : Bool) : State :=
  s.noteCorrected (hbmStack loc) (BitVec.ofNat 48 (hbmStack loc * 2 ^ 40 + (Config.dramRow loc).toNat)) inj false

/-- The base die of `m` accesses, to granules of one stack that follow each other, samples them (R320): one in 2^k of the accesses it counts. -/
def State.samples (s : State) (ia loc m : Nat) (write : Bool) (part : BitVec 5) : State :=
  let d := hbmStack loc
  let n := SMap.get 0 s.tele.accesses d
  let k := 2 ^ s.tele.sampleK.toNat
  let hits := if n / k = (n + m) / k then [] else (List.range m).filter (fun i => (n + i + 1) % k = 0)
  { s with tele := { s.tele with accesses := SMap.set 0 s.tele.accesses d (n + m),
                                 samples := s.tele.samples ++ hits.map (fun i => (ia + 32 * i, part, write, s.tnow)) } }

/-- The sample of one access. -/
def State.sample (s : State) (ia loc : Nat) (write : Bool) (part : BitVec 5) : State := s.samples ia loc 1 write part

/-- The samples of the accesses to a run of granules: 4 KiB lie in one stack (R312). -/
def State.sampleRun (s : State) (ia loc n : Nat) (write : Bool) (part : BitVec 5) : State :=
  (List.range ((loc % 4096 + n + 4095) / 4096)).foldl (fun s j =>
    let a := max loc (loc / 4096 * 4096 + 4096 * j)
    let b := min (loc + n) (loc / 4096 * 4096 + 4096 * (j + 1))
    s.samples (ia + (a - loc)) a ((b - a) / 32) write part) s

/-- The draws of reads of a core's own memories, with the log of those corrected in the hold (R326). -/
def State.injectReads (s : State) (c : CoreId) (m : InjMem) (gs : List Nat) : State :=
  if !(s.core c).injects m then s
  else gs.foldl (fun s g =>
    let r := (s.core c).injectRead m g
    let s1 := s.setCore c r.1
    if r.2 && m == .hold then s1.noteHold c g true else s1) s

/-- Key of the injector of a stack. -/
def injStack (n : Nat) : Nat := 16 + n
/-- Key of the injector of a torus port; `rx` for the receiving side. -/
def injPort (n : Nat) (rx : Bool) : Nat := 32 + 2 * n + rx.toNat
/-- Key of the injector of a mesh port of a core. -/
def injMesh (c : CoreId) (n : Nat) (rx : Bool) : Nat := 64 + 2 * (4 * c.toNat + n) + rx.toNat

/-- An injector by key; absent ones are off. -/
def State.injector (s : State) (key : Nat) : Injector := SMap.get ⟨0, 0, 0⟩ s.inj key

/-- What a draw on a read of HBM does (R326). -/
def State.hbmHit (s : State) (loc : Nat) (hit : Option Bool) : State :=
  match hit with
  | some true => { s with hbm := s.hbm.setPoison (loc / 32) true }
  | some false => s.noteHbm loc true
  | none => s

/-- The draws of a read of HBM (R326, R327): of the stack's injector on pages of the test partition it was set for, and of the core whose engine
reads. -/
def State.injectHbm (s : State) (part : BitVec 5) (loc : Nat) : State :=
  if !bit (s.part part).flags 0 then s
  else
    let key := injStack (hbmStack loc)
    let j := s.injector key
    let s1 :=
      if bit j.cfg 0 && j.part == part then
        (let d := injectDraw j.cfg j.gen
         ({ s with inj := SMap.set ⟨0, 0, 0⟩ s.inj key ⟨d.2.1, d.1, j.part⟩ }).hbmHit loc d.2.2)
      else s
    match s.turn with
    | .eng c =>
      if (s1.core c).injects .hbm then
        (let d := injectDraw (s1.core c).inj (s1.core c).gen
         (s1.modCore c (fun k => { k with inj := d.2.1, gen := d.1 })).hbmHit loc d.2.2)
      else s1
    | _ => s1

-- Copies (R367) -------------------------------------------------------------------------------------------------------

/-- The 32-byte granules of a run of a memory with their poison. -/
def PMem.blob (m : PMem) (a n : Nat) : Blob :=
  ⟨m.cells.readRun a n, (List.range (n / 32)).filter (fun i => m.poisoned (a / 32 + i))⟩

/-- A granule of a hold as an agent other than the program thread reads it (R328): corrected when one bit is wrong, poisoned when the error is
uncorrectable, and a free value when three or more bits are wrong. -/
def Core.homeWord (k : Core) (g : Nat) : Gran × Bool :=
  match (SMap.get 0 k.holdErr g).toNat with
  | 0 | 1 => (k.hold.gran g, k.hold.poisoned g)
  | 2 => (k.hold.gran g, true)
  | _ => (Config.eccMiscorrect g, Config.eccReported g || k.hold.poisoned g)

/-- Whether a read of a hold granule logs a corrected error (R323, R328). -/
def Core.homeCorrects (k : Core) (g : Nat) : Bool :=
  let e := SMap.get 0 k.holdErr g
  e == 1 || (e == 3 && !Config.eccReported g && Config.eccCorrected g)

/-- What a read of a hold granule leaves: the log of a corrected error, and its draw (R323, R326). -/
def State.holdRead (s : State) (c : CoreId) (g : Nat) : State :=
  (if (s.core c).homeCorrects g then s.noteHold c g false else s).injectReads c .hold [g]

/-- The 32-byte granules of a run of a hold with their poison. -/
def Core.holdBlob (k : Core) (a n : Nat) : Blob :=
  let ws := (List.range (n / 32)).map (fun i => k.homeWord (a / 32 + i))
  ⟨ws.flatMap (fun w => bytesOf w.1.toNat 32), (List.range (n / 32)).filter (fun i => (ws.getD i (0, false)).2)⟩

/-- The contents of a copy-on-write granule: of a hold, or of the frame its page has. -/
def State.granuleBlob (s : State) (r : SnapRange) (a : Nat) : Blob :=
  if r.hold then (s.core r.core).holdBlob a r.unit
  else s.hbm.blob (pteLoc (s.pageEntry a) a) r.unit

/-- What the drydock's read of a copy-on-write granule of partition `p` leaves: the log, the samples and the draws of its granules (R320, R323,
R326). -/
def State.granuleReads (s : State) (p : BitVec 5) (r : SnapRange) (a : Nat) : State :=
  if r.hold then
    (List.range (r.unit / 32)).foldl (fun s i =>
      if (s.core r.core).injects .hold || (s.core r.core).homeCorrects (a / 32 + i) then s.holdRead r.core (a / 32 + i) else s) s
  else
    let loc := pteLoc (s.pageEntry a) a
    let s := s.sampleRun a loc r.unit false p
    if bit (s.part p).flags 0 && bit (s.injector (injStack (hbmStack loc))).cfg 0 then
      (List.range (r.unit / 32)).foldl (fun s i => s.injectHbm p (loc + 32 * i)) s
    else s

/-- Granules of a partition's snapshot set. -/
def Part.units (p : Part) : Nat := (p.ranges.map SnapRange.units).sum

/-- Units of 2 KiB that the copies of a cut take in the snapshot buffer (R368). -/
def State.bufUsed (s : State) (p : BitVec 5) : Nat :=
  match (s.part p).cut with
  | none => 0
  | some c => (c.copies.map (fun e => e.2.bytes.length)).sum

/-- Whether the snapshot buffer has room for a copy (R368). -/
def State.bufRoom (s : State) (p : BitVec 5) (n : Nat) : Bool :=
  match (s.part p).snapset with | some t => decide (s.bufUsed p + n ≤ t.bufLen) | none => false

/-- The entry of a granule's page once the granule is unmarked: it loses C, and one whose W the cut holds back gets it again; a 2 MiB entry
when none of its granules is marked (R366). -/
def State.unmarkPage (s : State) (p : BitVec 5) (a : Nat) : State :=
  let k := s.pageKey (a / 65536)
  let big := bit (SMap.get 0 s.pages k) 7
  let held := if big then (List.range 32).any (fun i => ((s.part p).markOf false 0 (k * 65536 + 65536 * i)).isSome)
              else ((s.part p).markOf false 0 a).isSome
  match (s.part p).cut with
  | none => s
  | some c =>
    if held then s
    else
      let e := SMap.get 0 s.pages k
      if c.wasW.contains k then { s with pages := SMap.set 0 s.pages k ((e &&& ~~~ 0x4#64) ||| 2#64) }
      else if pteC e then { s with pages := SMap.set 0 s.pages k (e &&& ~~~ 0x4#64) }
      else s

/-- Makes the copy of a marked granule: the granule is unmarked (R367). -/
def State.makeCopy (s0 : State) (p : BitVec 5) (g : Nat) : State :=
  match (s0.part p).cut, granuleAt (s0.part p).ranges g with
  | some c, some (r, a) =>
    if !c.marked g then s0
    else
      let s := s0.granuleReads p r a
      let c1 := { c with copies := c.copies ++ [(g, s.granuleBlob r a)], copying := c.copying.filter (fun x => x != g) }
      let s1 := s.modPart p (fun t => { t with cut := some c1 })
      if r.hold then s1 else s1.unmarkPage p a
  | _, _ => s0

/-- The marked granule a pending result waits for: a write of a hold granule marked copy-on-write (R367). -/
def State.landBlocked (s : State) (c : CoreId) (e : Pend) : Option Nat :=
  match e.dest with | .gran true g _ => s.holdMark c (32 * g) | _ => none

/-- Whether a result of a core on its way waits for the copy of a marked granule (R191, R367). -/
def State.landHeld (s : State) (c : CoreId) : Bool := (s.core c).pend.any (fun e => (s.landBlocked c e).isSome)

/-- Asks for the copies that the results of a core on their way wait for (R191, R367). -/
def State.askPending (s : State) (c : CoreId) : State :=
  (s.core c).pend.foldl (fun t e => match s.landBlocked c e with | some m => t.askCopy (s.core c).part m | none => t) s

end Sys2Proof.Machine
end

