-- ==== Sys2Proof/Machine/Csr.lean ====
section
/-! DEFINITION. The control and status registers (R20, R21, Table 2): their values, the access rules of each mode, the check
of a DOM value (R297), and what a write does. -/
namespace Sys2Proof.Machine
open Sys2Proof

/-- ENCID (R2). -/
def encid : Word := 0x5A1C03E977D2B4F0#64

/-- STATUS (R20, Table 3). -/
def Csrs.status (c : Csrs) : Word := 0#60 ++ bitOf 1 c.pha ++ bitOf 1 c.hvx ++ bitOf 1 c.hmx ++ bitOf 1 c.hm

/-- COORD (R20, Table 5). -/
def coordOf (c : CoreId) (part : BitVec 5) : Word :=
  BitVec.ofNat 64 (part.toNat * 2 ^ 32 + coreBasin c * 2 ^ 24 + coreQuay c * 2 ^ 16 + coreY c * 2 ^ 8 + coreX c)

/-- PLANE (R20, Table 6). -/
def Core.planeCsr (k : Core) : Word := 0#61 ++ bitOf 1 k.swreq ++ bitOf 1 k.shrdy ++ bitOf 1 k.act

/-- The value of a CSR; none where the address is reserved (R20). -/
def State.csrRead (s : State) (c : CoreId) (a : BitVec 12) : Option Word :=
  let k := s.core c
  let r := k.csr
  let n := a.toNat
  if 0x040 ≤ n && n ≤ 0x04F then some (r.bnd.toList.getD (n - 0x040) 0)
  else
    match n with
    | 0x000 => some r.status | 0x001 => some r.cause | 0x002 => some r.epc | 0x003 => some r.faddr | 0x004 => some r.hvec
    | 0x005 => some k.bank.save[0] | 0x006 => some k.bank.save[1] | 0x007 => some k.bank.save[2] | 0x008 => some k.bank.save[3]
    | 0x010 => some (r.taskid.setWidth 64) | 0x011 => some (coordOf c k.part) | 0x012 => some r.tcyc | 0x013 => some s.tnow
    | 0x014 => some r.slip | 0x015 => some (r.latemax.setWidth 64)
    | 0x018 => some r.lc[0] | 0x019 => some r.lc[1] | 0x01A => some (r.le[0].setWidth 64) | 0x01B => some (r.le[1].setWidth 64)
    | 0x020 => some (r.ardom.setWidth 64) | 0x021 => some r.dom[0] | 0x022 => some r.dom[1] | 0x023 => some r.dom[2]
    | 0x025 => some (r.dph[0].setWidth 64) | 0x026 => some (r.dph[1].setWidth 64) | 0x027 => some (r.dph[2].setWidth 64)
    | 0x030 => some (r.fpmode.setWidth 64) | 0x031 => some (r.fpflags.setWidth 64)
    | 0x050 => some (r.bndmode.setWidth 64) | 0x051 => some (r.bndhit.setWidth 64)
    | 0x060 => some encid | 0x061 => some s.capbase | 0x070 => some k.planeCsr
    | 0x090 => some (r.weight.setWidth 64) | 0x091 => some r.rootloc | 0x0A0 => some r.phbase | 0x0B0 => some k.inj
    | 0x0C0 => some r.srseed | 0x0D0 => some (r.collto.setWidth 64)
    | _ => none

/-- HSAVE0..3: "Priv" in task mode (R20). -/
def csrPriv (a : BitVec 12) : Bool := decide (0x005 ≤ a.toNat && a.toNat ≤ 0x008)

/-- CSRs a task may write only in handler mode: RO in task mode, RW in handler mode (R20, R21). -/
def csrHandlerOnly (a : BitVec 12) : Bool :=
  decide (a.toNat ≤ 0x004) || a == 0x014#12 || isDomAddr a

/-- The access rules of R20 and R132: a fault, or none. -/
def State.csrFault (s : State) (c : CoreId) (a : BitVec 12) : Option SlotFault :=
  match s.csrRead c a with
  | none => some ⟨0x01, 0, a.setWidth 64⟩
  | some _ => if csrPriv a && !(s.core c).csr.hm then some ⟨0x03, 0, a.setWidth 64⟩ else none

/-- The reserved bits of a DOM value of levels 1 and 2, and of level 3 (R296, Tables 2 and 3). -/
def domReserved (l : Level) (v : Word) : Bool :=
  match l with
  | .l3 => !(fld v 16 14 == 0#14)
  | _ => bit v 29 || !(fld v 22 2 == 0#2) || !(fld v 13 3 == 0#3) || !(fld v 6 2 == 0#2)

/-- A DOM value with its reserved bits clear (R8). -/
def domMask (l : Level) (v : Word) : Word :=
  match l with
  | .l3 => v &&& 0xFFFFFFFFC000FFFF#64
  | _ => v &&& 0xFFFFFFFFDF3F1F3F#64

/-- The cores of a DOM rectangle (R296). -/
def domCores (v : Word) : List CoreId :=
  let x0 := (fld v 0 6).toNat
  let y0 := (fld v 8 5).toNat
  let x1 := (fld v 16 6).toNat
  let y1 := (fld v 24 5).toNat
  ((List.range (y1 + 1 - y0)).map (fun dy => (List.range (x1 + 1 - x0)).map (fun dx => BitVec.ofNat 11 ((y0 + dy) * 64 + x0 + dx)))).flatten

/-- Whether a DOM value is rejected (R297). -/
def State.domRejected (s : State) (c : CoreId) (l : Level) (v : Word) : Bool :=
  let k := s.core c
  domV v && (domCount v == 0 || domReserved l v ||
    match l with
    | .l3 => !((s.parts[k.part.toNat]'(k.part.isLt)).groups.contains (fld v 0 16))
    | _ =>
      let x0 := (fld v 0 6).toNat
      let y0 := (fld v 8 5).toNat
      let x1 := (fld v 16 6).toNat
      let y1 := (fld v 24 5).toNat
      decide (x1 < x0) || decide (y1 < y0) || decide (coreX c < x0) || decide (x1 < coreX c) || decide (coreY c < y0) || decide (y1 < coreY c)
        || (domCores v).any (fun d => !s.ownsCore k.part d)
        || (l == .l1 && (decide (x0 / 8 != x1 / 8) || decide (y0 / 8 != y1 / 8))))

/-- A write of DOMl (R250): a new value ends the old membership and begins the new one; the same value changes nothing. -/
def Core.writeDom (k : Core) (l : Level) (v : Word) : Core :=
  let v := domMask l v
  if k.csr.domOf l = v then k
  else { k with csr := { k.csr with dom := k.csr.dom.set l.ix v, dph := k.csr.dph.set l.ix 0 }, lastArr := k.lastArr.set l.ix none }

/-- Performs a CSR write that no rule faults (R8, R20, R21): RO registers and fields keep their values. -/
def Core.writeCsr (k : Core) (a : BitVec 12) (v : Word) : Core :=
  let r := k.csr
  let n := a.toNat
  if csrHandlerOnly a && !r.hm then k
  else if h : 0x040 ≤ n ∧ n ≤ 0x04F then { k with csr := { r with bnd := r.bnd.set (n - 0x040) v (by omega) } }
  else
    match n with
    | 0x000 => { k with csr := { r with hvx := bit v 2, hmx := bit v 1 } }
    | 0x001 => { k with csr := { r with cause := v &&& 0x00000000FFFF07FF#64 } }
    | 0x002 => { k with csr := { r with epc := v } }
    | 0x003 => { k with csr := { r with faddr := v } }
    | 0x004 => { k with csr := { r with hvec := v } }
    | 0x005 => { k with bank := { k.bank with save := k.bank.save.set 0 v } }
    | 0x006 => { k with bank := { k.bank with save := k.bank.save.set 1 v } }
    | 0x007 => { k with bank := { k.bank with save := k.bank.save.set 2 v } }
    | 0x008 => { k with bank := { k.bank with save := k.bank.save.set 3 v } }
    | 0x014 => { k with csr := { r with slip := v } }
    | 0x015 => { k with csr := { r with latemax := v.setWidth 32 } }
    | 0x018 => { k with csr := { r with lc := r.lc.set 0 v } }
    | 0x019 => { k with csr := { r with lc := r.lc.set 1 v } }
    | 0x01A => { k with csr := { r with le := r.le.set 0 (v.setWidth 33) } }
    | 0x01B => { k with csr := { r with le := r.le.set 1 (v.setWidth 33) } }
    | 0x020 => { k with csr := { r with ardom := v.setWidth 2 } }
    | 0x021 => k.writeDom .l1 v
    | 0x022 => k.writeDom .l2 v
    | 0x023 => k.writeDom .l3 v
    | 0x030 => { k with csr := { r with fpmode := v.setWidth 5 } }
    | 0x031 => { k with csr := { r with fpflags := r.fpflags &&& ~~~ v.setWidth 7 } }
    | 0x050 => { k with csr := { r with bndmode := v.setWidth 32 } }
    | 0x051 => { k with csr := { r with bndhit := r.bndhit &&& ~~~ v.setWidth 16 } }
    | 0x0A0 => { k with csr := { r with phbase := v } }
    | 0x0C0 => { k with csr := { r with srseed := v } }
    | 0x0D0 => { k with csr := { r with collto := v.setWidth 32 } }
    | _ => k

/-- The level of a DOM address. -/
def domLevel (a : BitVec 12) : Option Level :=
  match a.toNat with | 0x021 => some .l1 | 0x022 => some .l2 | 0x023 => some .l3 | _ => none

end Sys2Proof.Machine
end

