-- ==== Sys2Proof/Machine/Ops.lean ====
section
/-! DEFINITION. The shared operations of an instruction: its guard and arrival (R69, R70), taking a trap (R258) and returning
from one (R259), abandoning a task (R14), and completing a bundle (R22, R83, R84, R131, R236). -/
namespace Sys2Proof.Machine
open Sys2Proof

-- Causes (R256, Table 5) ----------------------------------------------------------------------------------------------

/-- A fault with no DETAIL and no FADDR. -/
def flt (code : BitVec 8) : SlotFault := ⟨code, 0, 0⟩
/-- A fault with a failing pointer. -/
def fltAt (code : BitVec 8) (p : Word) : SlotFault := ⟨code, 0, p⟩
/-- A fault with a DETAIL. -/
def fltDetail (code : BitVec 8) (d : BitVec 16) : SlotFault := ⟨code, d, 0⟩

/-- CAUSE (R20, Table 4). -/
def causeWord (code : BitVec 8) (slot : Nat) (detail : BitVec 16) : Word := 0#32 ++ detail ++ 0#5 ++ BitVec.ofNat 3 slot ++ code

-- Abandoning and trapping ---------------------------------------------------------------------------------------------

/-- The task of a core ends as abandoned (R14): its engine commands are aborted, its matrix work dropped, the core idle. Its weight is
not returned. -/
def State.dropTask (s : State) (c : CoreId) : State :=
  let task := (s.core c).task
  let s1 := s.abortAll c 0xFFFF (fun q => q.task == task)
  (s1.modCore c Core.dropArray).arriveAll c |>.modCore c (fun k =>
    { k with run := .idle, bundle := none, freeze := none, first := none, relT := none, entering := none, landing := none, bubble := false, via := none, phase := none,
                       csr := { k.csr with hm := false, hvx := false, hmx := false, pha := false } })

/-- Abandons the task of a core at a trap in handler mode (R14): a record goes to the firmware. -/
def State.abandon (s : State) (c : CoreId) (cause epc : Word) : State :=
  let k := s.core c
  (s.postRecord c (.abandoned c cause epc k.csr.epc k.csr.cause)).dropTask c

/-- The bundle of the task that was waiting, with its first cycle: of the wait that ends here, or of one before an earlier trap (R248). -/
def Core.firstSeen (k : Core) : Option (Word × Word) := match k.first with | some f => some (f.pc, f.at_) | none => k.relT

/-- take_trap (R258): in handler mode the task is abandoned; otherwise results land, matrix work parks, CAUSE, EPC and FADDR
are written, HM is set, HVX and HMX cleared, and control goes to HVEC. The first cycle of a waiting WAITT is kept (R248). -/
def State.enterTrap (s : State) (c : CoreId) (t : Entering) : State :=
  let k := s.core c
  if t.drop then s.dropTask c
  else if k.csr.hm then s.abandon c (causeWord t.code t.slot t.detail) t.epc
  else
    let k1 := k.park
    s.setCore c { k1 with
      csr := { k1.csr with cause := causeWord t.code t.slot t.detail, epc := t.epc, faddr := t.faddr, hm := true, hvx := false, hmx := false },
      pc := k1.csr.hvec, via := some t.epc, bundle := none, freeze := none, bubble := false, entering := none,
      first := none, relT := k1.firstSeen }

/-- Takes a trap: the handler is entered at once, or when the copies of the marked granules that writes on their way wait for have been made
(R191, R367). -/
def State.takeTrap (s : State) (c : CoreId) (code : BitVec 8) (slot : Nat) (detail : BitVec 16) (epc faddr : Word) : State :=
  let t : Entering := { code := code, slot := slot, detail := detail, epc := epc, faddr := faddr }
  if s.landHeld c then s.modCore c (fun k => { k with entering := some t, bundle := none, freeze := none, bubble := false })
  else s.enterTrap c t

/-- The return of ERET (R259): to the offset EPC held at issue, out of handler mode, with the parked work resumed. -/
def Core.eret (k : Core) (epc from' : Word) : Core :=
  let k1 := k.unpark
  { k1 with csr := { k1.csr with hm := false, hvx := false, hmx := false }, pc := epc, via := some from', bubble := true }

-- Cycles --------------------------------------------------------------------------------------------------------------

/-- One task cycle: TCYC and the array's time advance (R7, R133). -/
def Core.taskCycle (k : Core) : Core :=
  { k with ct := k.ct + 1, mt := k.mt + 1, mx := k.mx.age, csr := { k.csr with tcyc := k.csr.tcyc + 1 } }
/-- One frozen or stolen cycle: SLIP advances, as far as a counter goes (R285, R394). -/
def Core.slipCycle (k : Core) : Core := { k with mx := k.mx.age, csr := { k.csr with slip := satAdd k.csr.slip 1 } }

/-- Freezes a core before its bundle for this cycle (R236, R285): the measure of LATEMAX starts when a wait first holds back
issue (R303). In the waits of MSYNC and EXIT the array goes on; in another one only the work does whose accesses an engine command, an arrival or
the fence waits for (R249, R266, R275, log 125). An EXIT in handler mode takes up a parked gate request, whose end it waits for (R252). -/
def Core.freezeOn (k : Core) (w : Wait) (slot : Nat) (now : Word) (cyc : Nat) : Core :=
  let since := match k.freeze with
    | some f => if f.wait == w then f.since else if (f.row.map (·.1)) == some w then (f.row.map (·.2)).getD now else now
    | none => now
  let first := match k.freeze with | some f => if f.wait == w then f.cyc else cyc | none => cyc
  let k1 := { k.slipCycle with freeze := some ⟨w, slot, since, first, false, none⟩, bundle := none }
  match w with
  | .msync => { k1 with mt := k1.mt + 1 }
  | .exit => let k2 := k1.gateLive; { k2 with mt := k2.mt + 1 }
  | .row _ => k1
  | .hoist => k1
  | .cow _ => k1
  | .fence m => k1.hastenAwaited (m.getLsbD 0)
  | _ => k1.hastenAwaited false

/-- A frozen cycle in which a stream row waits too (R182, R189): its own measure of LATEMAX goes on beside that of the bundle's wait. -/
def Core.freezeRow (k : Core) (f : Freeze) (w : Wait) (now : Word) : Core :=
  let since := match f.row with | some (v, t) => if v == w then t else now | none => now
  { k.slipCycle with freeze := some { f with row := some (w, since) } }

/-- The planes flip (R301). -/
def Core.flip (k : Core) : Core := { k with act := !k.act, shrdy := false, swreq := false }
/-- A task boundary: the planes flip when the token is held (R301). -/
def Core.boundary (k : Core) : Core := if k.swreq then k.flip else k

-- Effects -------------------------------------------------------------------------------------------------------------

/-- Restores what a phase snapshot holds (R253, R254): X, P, K with poison, and eight CSRs. Results on their way to the task's X and K
registers are superseded; those to the handler bank are not the task's (R19). -/
def Core.snapRestore (k : Core) (bs : List Byte) : Core :=
  let w (o : Nat) : Word := BitVec.ofNat 64 (fieldAt bs o 8)
  let r := k.regs
  let xs : Vector Word 32 := Vector.ofFn (fun i => w (8 * i.val))
  let ks : Vector (BitVec 128) 8 := Vector.ofFn (fun i => BitVec.ofNat 128 (fieldAt bs (0x140 + 16 * i.val) 16))
  { k with
    pend := k.pend.filter (fun e => match e.dest with | .x _ => false | .k _ => false | _ => true)
    regs := { r with x := xs, p := BitVec.ofNat 8 (fieldAt bs 0x100 1), pp := BitVec.ofNat 8 (fieldAt bs 0x101 1),
                     xp := BitVec.ofNat 32 (fieldAt bs 0x108 4), k := ks, kp := BitVec.ofNat 8 (fieldAt bs 0x10C 1) }
    csr := { k.csr with lc := #v[w 0x1C0, w 0x1C8], le := #v[(w 0x1D0).setWidth 33, (w 0x1D8).setWidth 33],
                        ardom := (w 0x1E0).setWidth 2, fpmode := (w 0x1E8).setWidth 5, bndmode := (w 0x1F0).setWidth 32,
                        srseed := w 0x1F8 } }

/-- Ends the task (R252), its array work over and its arrivals made: the FIFO is emptied, the weight waits for the task's
commands, and the core is free. -/
def Core.exitTask (k : Core) : Core :=
  let k1 := k.flushAll
  let ws := if k1.csr.weight = 0 then k1.exits else k1.exits ++ [⟨k1.task, k1.csr.weight, k1.csr.rootloc⟩]
  ({ k1 with run := .idle, exits := ws, mx := { k1.mx with hoist := [] }, phase := none, freeze := none, first := none, relT := none, via := none,
             bubble := false, csr := { k1.csr with hm := false, hvx := false, hmx := false } }).boundary

/-- Places an entry in a spawn queue and takes its share of the spawner's weight (R251, R292). -/
def State.spawnOn (s : State) (c target : CoreId) (pc : BitVec 16) (arg : Word) (w : BitVec 32) : State :=
  let k := s.core c
  let e : SpawnEntry := ⟨pc, arg, w, k.csr.rootloc, 1#1 ++ 0#4 ++ c ++ k.spawnSeq⟩
  let s1 := s.setCore c { k with csr := { k.csr with weight := k.csr.weight - w }, spawnSeq := k.spawnSeq + 1 }
  s1.modCore target (fun t => { t with spawnq := t.spawnq ++ [e], spawnAt := some s.clock.cycle })

/-- The commands a FENCE makes a later command of class `cls` wait for (R243). -/
def Core.fencedBy (k : Core) (cls : BitVec 4) : List Nat :=
  (k.fences.filter (fun f => f.mask.getLsbD cls.toNat)).flatMap (·.before)

/-- Enters a command into the engine queue (R199, R200, R243). -/
def Core.addCmd (k : Core) (q : Cmd) (now : Word) : Core :=
  let fs := k.fences.filter (fun f => f.mask.getLsbD q.cls.toNat)
  let own := decide (q.cls = 0)
  let q1 := { q with id := k.nextCmd, task := k.task, issued := now,
                     mxSeq := q.mxSeq ++ (if own then [k.mxSpan] else []) ++ fs.flatMap (·.mxSeq),
                     mxDue := fs.foldl (fun n f => max n f.mxDue) (max q.mxDue (if own then k.mx.otherDue else 0)),
                     after := (q.after ++ k.fencedBy q.cls).filter (fun i => k.queue.any (fun r => r.id == i)) }
  { k with queue := k.queue ++ [q1], nextCmd := k.nextCmd + 1 }

/-- Installs a shape record in the cache of 16 entries, most recent last (R209). -/
def cachePut (cache : List (Word × List Byte)) (p : Word) (bs : List Byte) : List (Word × List Byte) :=
  let c := cache.filter (fun e => e.1 != p) ++ [(p, bs)]
  c.drop (c.length - 16)

/-- Performs one effect of slot `slot` of core `c` (R84). Transfers, traps and EXIT are made by `commit`. -/
def State.apply (s : State) (c : CoreId) (a : Action) : State :=
  let k := s.core c
  match a with
  | .x n v bound => s.setCore c (k.writeX n v bound)
  | .xm n v bound => s.setCore c (k.writeXm n v bound)
  | .p n v q => s.setCore c { k with regs := k.regs.setP n v q }
  | .k n v q bound => s.setCore c (k.writeK n v q bound)
  | .v n gs bound => s.setCore c (gs.foldl (fun k g => k.land (.v n (BitVec.ofNat 4 g.1)) (g.2.1.setWidth 256) g.2.2 bound) k)
  | .store hold g v m q cls =>
    (s.setCore c (k.store hold g v m q cls s.tnow (s.choice != 0))).chosen
  | .passBerths ns => s.setCore c (k.passBerths ns)
  | .flags f => s.setCore c { k with csr := { k.csr with fpflags := k.csr.fpflags ||| f } }
  | .seed v => s.setCore c { k with csr := { k.csr with srseed := v } }
  | .bndhit m => s.setCore c { k with csr := { k.csr with bndhit := k.csr.bndhit ||| m } }
  | .accStore i v q => s.setCore c { k with pend := supersede k.pend (.acc i), mx := k.mx.setEl i ⟨v, false, q⟩ }
  | .sem n amt => s.setCore c (k.modSem n (fun m => m.add amt))
  | .semClear n => s.setCore c (k.modSem n Sem.clear)
  | .fence mask =>
    let ids := (k.queue.filter (fun q => mask.getLsbD q.cls.toNat)).map (·.id)
    s.setCore c { k.flush (fun b => mask.getLsbD b.cls.toNat) with
      fences := (k.fences.filter (fun f => f.before.any (fun i => k.queue.any (fun q => q.id == i))
                   || k.mxWrites f.mxSeq f.mxDue)) ++
        [⟨mask, ids, if mask.getLsbD 0 then [k.mxSpan] else [], if mask.getLsbD 0 then k.mx.otherDue else 0⟩] }
  | .loopSet n v le =>
    s.setCore c { k with csr := if n then { k.csr with lc := k.csr.lc.set 1 v, le := k.csr.le.set 1 le }
                                else { k.csr with lc := k.csr.lc.set 0 v, le := k.csr.le.set 0 le } }
  | .csr a v => s.setCore c (k.writeCsr a v)
  | .berthArm n d tag =>
    s.setCore c (k.modBerth n (fun _ => ⟨fld d 0 14, fld d 16 14, true, bit d 33, bit d 34, bit d 35, tag, tag - 1, true⟩))
  | .berthTag n tag => s.setCore c (k.modBerth n (fun b => { b with etag := tag, pending := true }))
  | .berthOff n => s.setCore c (k.modBerth n (fun b => { b with arm := false }))
  | .arrive l bound ds => if bound = 0 then s.arriveBits c l else s.setCore c { k with arrivals := k.arrivals ++ [⟨k.ct + bound, l, ds⟩] }
  | .spawn t pc arg w => s.spawnOn c t pc arg w
  | .phase p => s.setCore c { k with phase := p, csr := { k.csr with pha := p.isSome } }
  | .snapRestore bs => s.setCore c (k.snapRestore bs)
  | .swreq on => s.setCore c { k with swreq := on }
  | .mx i xa xn xn1 tbl ar => s.setCore c { k with mx := k.mx.enqueue k.mt i xa xn xn1 tbl ar }
  | .pend ps => s.setCore c { k with pend := k.pend ++ ps, mx := { k.mx with otherDue := ps.foldl (fun d e => max d e.due) k.mx.otherDue } }
  | .hoistPush v q => s.setCore c { k with mx := { k.mx with hoist := k.mx.hoist ++ [(v, q)], otherDue := max k.mx.otherDue (k.mt + 1) } }
  | .gateOn ret =>
    let k := k.gateLive
    match k.mx.gate with
    | .isOpen => s.setCore c { k with mx := { k.mx with gate := .pending ret 0 } }
    | .pending _ w => s.setCore c { k with mx := { k.mx with gate := .pending ret w } }
    | .waking w => s.setCore c { k with mx := { k.mx with gate := .pending ret w } }
    | .gated _ => s
  | .gateOff =>
    let k := k.gateLive
    match k.mx.gate with
    | .pending _ w => s.setCore c (k.gateEnds (k.gateAfter w))
    | .gated _ => s.setCore c { k with mx := { k.mx with gate := .waking (k.mt + 2000) } }
    | _ => s
  | .gateCancel => s.setCore c (if k.mx.gate.isPending then k.gateLive.gateCancel else k)
  | .gateArrive l =>
    if l = 0 then s
    else if k.mx.gate.isPending || k.mx.gate.isWaking then s.setCore c { k with mx := { k.mx with gateAr := k.mx.gateAr ++ [l] } }
    else s.setCore c { k with arrivals := k.arrivals ++ [⟨k.ct + 1, l, []⟩] }
  | .mstatClear => s.setCore c { k with mx := { k.mx with sticky := 0 } }
  | .mrest bs ps =>
    let m := k.mx.restore bs k.csr.ardom
    s.setCore c { k with csr := { k.csr with hmx := false }, pend := k.pend ++ ps,
                         mx := { m with sticky := m.sticky &&& ~~~ stLost, otherDue := ps.foldl (fun d e => max d e.due) m.otherDue } }
  | .mload due osat ozero =>
    s.setCore c { k with mx := { k.mx.stick (stOf ⟨osat, ozero⟩) with loadDue := max k.mx.loadDue due } }
  | .note g => s.noteHold c g false
  | .drawn m gs => s.injectReads c m gs
  | .command q => s.setCore c (k.addCmd q s.tnow)
  | .cacheInstall p bs => s.setCore c { k with cache := cachePut k.cache p bs }
  | .looked _ => s
  | .cacheDrop p => s.setCore c { k with cache := match p with | none => [] | some q => k.cache.filter (fun e => e.1 != q) }
  | .transfer _ => s
  | .trapAfter _ => s
  | .eret => s
  | .exit => s

/-- Performs a list of effects in order. -/
def State.applyAll (s : State) (c : CoreId) (as : List Action) : State := as.foldl (fun s a => s.apply c a) s

-- Completing a bundle -------------------------------------------------------------------------------------------------

/-- The first slot, in slot order, whose result `f` picks (R22). -/
def firstOut {α : Type} (f : SlotOut → Option α) (outs : List (Slot × SlotOut)) : Option (Slot × α) :=
  match outs with
  | [] => none
  | (sl, o) :: rest => match f o with | some a => some (sl, a) | none => firstOut f rest

/-- A fault decided before any wait. -/
def SlotOut.isEarly (o : SlotOut) : Option SlotFault := match o with | .early f => some f | _ => none
/-- A wait of R236. -/
def SlotOut.isWait (o : SlotOut) : Option Wait := match o with | .wait w => some w | _ => none
/-- A fault decided at issue, early ones among them. -/
def SlotOut.isFault (o : SlotOut) : Option SlotFault := match o with | .early f => some f | .fault f => some f | _ => none
/-- A freeze that faults precede. -/
def SlotOut.isFreeze (o : SlotOut) : Option Wait := match o with | .freeze w => some w | _ => none
/-- The effects of a slot. -/
def SlotOut.acts (o : SlotOut) : List Action := match o with | .ok as => as | _ => []

/-- The back-edge check of R131 with LC and LE as at issue, loop 1 first: the new counters and ON bits, and the next offset. -/
def loopCheck (lc0 lc1 : Word) (le0 le1 : BitVec 33) (next : Word) : Word × Word × BitVec 33 × BitVec 33 × Word :=
  let hits (le : BitVec 33) : Bool := bit le 32 && (fld le 0 16).setWidth 64 * 4 == next
  let start (le : BitVec 33) : Word := (fld le 16 16).setWidth 64 * 4
  let off (le : BitVec 33) : BitVec 33 := le &&& 0x0FFFFFFFF#33
  if hits le1 && decide (lc1.toNat > 1) then (lc0, lc1 - 1, le0, le1, start le1)
  else
    let (lc1', le1') := if hits le1 then ((0 : Word), off le1) else (lc1, le1)
    if hits le0 && decide (lc0.toNat > 1) then (lc0 - 1, lc1', le0, le1', start le0)
    else if hits le0 then (0, lc1', off le0, le1', next)
    else (lc0, lc1', le0, le1', next)

/-- The target of a transfer among effects. -/
def transferOf (as : List Action) : Option Word := as.findSome? (fun a => match a with | .transfer t => some t | _ => none)
/-- The code of a TRAP among effects. -/
def trapOf (as : List Action) : Option (BitVec 16) := as.findSome? (fun a => match a with | .trapAfter n => some n | _ => none)
/-- Whether an ERET is among effects. -/
def hasEret (as : List Action) : Bool := as.any (fun a => match a with | .eret => true | _ => false)
/-- Whether an EXIT is among effects. -/
def hasExit (as : List Action) : Bool := as.any (fun a => match a with | .exit => true | _ => false)
/-- Whether an effect belongs to the matrix queue: it starts in its issue cycle before the bundle's stores (R180). -/
def isMxAct (a : Action) : Bool := match a with | .mx .. => true | _ => false
/-- Whether an effect belongs to a read at issue, before any write of the bundle: a clear that goes with its read (R188, R242) or the draw of a
read (R326). -/
def isReadAct (a : Action) : Bool := match a with | .semClear _ => true | .mstatClear => true | .drawn .. => true | _ => false

/-- Carries out what the array has due in this very cycle for a work item just issued (R173: S may equal t). -/
def Core.runMx (k : Core) : Nat → Core
  | 0 => k
  | n + 1 =>
    match k.mxDue with
    | some (.start i) => (k.startItem i).runMx n
    | some (.row i) =>
      match k.mx.items[i]? with
      | none => k
      | some it =>
        if k.hoistEmpty it then k
        else match k.rowCheck it with
          | .pass ns => ((k.passBerths ns).enterRow i true).runMx n
          | _ => k
    | none => k

/-- The stores of the scratchpad among effects, with what they overwrite: a row that should have entered in this cycle does not see them (R180,
R182). -/
def Core.shades (k : Core) (as : List Action) : List Shade :=
  (as.foldl (fun (p : Core × List Shade) a =>
    match a with
    | .store false g v m q cls =>
      let w := p.1.viewGran false g
      ({ p.1 with buf := p.1.buf ++ [⟨g, v, m, q, false, cls, 0⟩] }, p.2 ++ [⟨g, m, w.1, w.2, v⟩])
    | _ => p) (k, [])).2

/-- Shades the row that is due in this cycle and has not entered. -/
def Core.shadeRow (k : Core) (as : List Action) : Core :=
  match k.mxDue with
  | some (.row i) => match k.mx.items[i]? with | some it => { k with mx := k.mx.setItem i { it with shade := k.shades as } } | none => k
  | _ => k

/-- Whether the back-edge check transfers control to the start of a body (R131). -/
def loopTaken (lc0 lc1 : Word) (le0 le1 : BitVec 33) (next : Word) : Bool :=
  let hits (le : BitVec 33) : Bool := bit le 32 && (fld le 0 16).setWidth 64 * 4 == next
  (hits le1 && decide (lc1.toNat > 1)) || (hits le0 && decide (lc0.toNat > 1))

/-- The effects of a bundle with no fault and no wait (R84): the back-edge check's counters first, then what belongs to its reads, the matrix
queue, the other effects in slot order, one task cycle, and where control goes. A transfer and a back edge leave the bundle's offset for a
fault at their target (R86). -/
def State.perform (s : State) (c : CoreId) (pc next : Word) (as : List Action) : State :=
  let k := s.core c
  let r := k.csr
  let taken := transferOf as
  let lp := if r.hm || taken.isSome then (r.lc[0], r.lc[1], r.le[0], r.le[1], next) else loopCheck r.lc[0] r.lc[1] r.le[0] r.le[1] next
  let back := !r.hm && taken.isNone && loopTaken r.lc[0] r.lc[1] r.le[0] r.le[1] next
  let k0 := { k with csr := { r with lc := #v[lp.1, lp.2.1], le := #v[lp.2.2.1, lp.2.2.2.1] }, bundle := none, freeze := none,
                     first := none, relT := if r.hm then k.relT else none }
  let s1 := ((s.setCore c k0).applyAll c (as.filter isReadAct)).applyAll c (as.filter isMxAct)
  let s2 := if (as.any isMxAct) then s1.modCore c (fun k => (k.runMx 4).shadeRow as) else s1
  let s3 := (s2.applyAll c (as.filter (fun a => !isMxAct a && !isReadAct a))).modCore c Core.taskCycle
  let go := taken.getD lp.2.2.2.2
  let s4 := s3.modCore c (fun k => { k with pc := go, via := if taken.isSome || back then some pc else none, bubble := taken.isSome })
  if hasExit as then (((s4.modCore c Core.dropArray).arriveAll c).modCore c Core.exitTask).returnWeights c
  else if hasEret as then
    if (s4.core c).active.marked r.epc.toNat then s4.modCore c (fun k => k.eret r.epc pc)
    else s4.takeTrap c 0x02 7 0 r.epc pc
  else
    match trapOf as with
    | some code => s4.takeTrap c 0x0F 0 code go 0
    | none => s4

/-- What a wait does while it holds a bundle: a PHASE ABORT aborts the phase's commands (R254), a hold write asks for the copy of its
granule (R367). -/
def State.holdEffect (s : State) (c : CoreId) (w : Wait) : State :=
  match w with
  | .cow g => match s.holdMark c (32 * g) with | some m => s.askCopy (s.core c).part m | none => s
  | .phaseAbort mask _ _ =>
    let since := ((s.core c).phase.map (·.2)).getD 0
    s.abortAll c mask (fun q => decide (q.id ≥ since))
  | _ => s

/-- What a PHASE among the slots read in the bundle's first cycle (R253). -/
def phaseLook (outs : List (Slot × SlotOut)) : Option Wait :=
  outs.findSome? (fun p => match p.2 with
    | .wait (.phase m r) => some (.phase m r)
    | .wait (.phaseAbort m r qs) => some (.phaseAbort m r qs)
    | .ok as => as.findSome? (fun a => match a with | .looked w => some w | _ => none)
    | _ => none)

/-- The first cycle of the bundle at the program counter, when it is held in this one: the one seen already, of a wait or before a trap
(R236, R248). -/
def Core.looks (k : Core) (outs : List (Slot × SlotOut)) (now : Word) : FirstLook :=
  match k.first with
  | some f => f
  | none =>
    { pc := k.pc, phase := phaseLook outs,
      at_ := match k.relT with | some t => if t.1 = k.pc && !k.csr.hm then t.2 else now | none => now }

/-- Notes this cycle as the first of the bundle at the program counter, where none is noted (R236, R248). -/
def State.seeFirst (s : State) (c : CoreId) (outs : List (Slot × SlotOut)) : State :=
  s.modCore c (fun k => { k with first := some (k.looks outs s.tnow) })

/-- Completes a bundle all of whose slots have been evaluated (R22, R83, R236): in a bundle that waits an early fault,
else the wait; otherwise the fault of the lowest slot, else a freeze, else its effects. A fault leaves the bundle without effect and takes its cycle
(R133); the cycle of the fault is the bundle's first where no earlier one was (R248). -/
def State.commit (s : State) (c : CoreId) (b : OpenBundle) : State :=
  let trap (sl : Slot) (f : SlotFault) : State :=
    ((s.seeFirst c b.outs).takeTrap c f.code sl.num f.detail b.pc f.faddr).modCore c Core.taskCycle
  let hold (sl : Slot) (w : Wait) : State :=
    (s.holdEffect c w).modCore c (fun k => { k.freezeOn w sl.num s.tnow s.clock.cycle with first := some (k.looks b.outs s.tnow) })
  match firstOut SlotOut.isWait b.outs with
  | some (sl, w) =>
    match firstOut SlotOut.isEarly b.outs with
    | some (sl, f) => trap sl f
    | none => hold sl w
  | none =>
    match firstOut SlotOut.isFault b.outs with
    | some (sl, f) => trap sl f
    | none =>
      match firstOut SlotOut.isFreeze b.outs with
      | some (sl, w) => hold sl w
      | none => s.perform c b.pc b.next (b.outs.flatMap (fun p => p.2.acts))

/-- The bundle a slot belongs to: the one being executed, or one of its own at the program counter. -/
def Core.bundleOf (k : Core) (words : Nat) : OpenBundle :=
  match k.bundle with
  | some b => b
  | none => ⟨k.pc, k.pc + BitVec.ofNat 64 (4 * words), 1, []⟩

/-- Records what a slot came to; the bundle's last slot completes it. -/
def State.issue (s : State) (slot : Slot) (words : Nat) (out : SlotOut) : State :=
  let c := s.cur
  let k := s.core c
  let b := k.bundleOf words
  let b1 := { b with left := b.left - 1, outs := b.outs ++ [(slot, out)] }
  if b1.left = 0 then s.commit c b1 else s.setCore c { k with bundle := some b1 }

-- Guard and arrival ---------------------------------------------------------------------------------------------------

/-- The check of R70 on a slot with AR = 1. -/
def Core.arFault (k : Core) : Option SlotFault :=
  match levelOf k.csr.ardom with
  | none => some (fltAt 0x01 0x020)
  | some l => if domV (k.csr.domOf l) then none else some (fltAt 0x01 (0x020 + BitVec.ofNat 64 (l.ix.val + 1)))

/-- The level bits a slot arrives at when it retires; none for a slot without AR. -/
def Core.arBits (k : Core) (ctl : Ctl) : BitVec 2 := if ctl.ar then k.csr.ardom else 0

/-- Where the results of a slot's effects go that do not land at once (R85). -/
def Core.landsAt (k : Core) (as : List Action) : List PDest :=
  as.flatMap (fun a =>
    match a with
    | .x n _ b => if n = 0 || b ≤ 1 then [] else [k.xDest n]
    | .xm n _ _ => if n = 0 then [] else [k.xDest n]
    | .k n _ _ b => if n = 0 || b ≤ 1 then [] else [.k n]
    | .v n gs b => if b ≤ 1 then [] else gs.map (fun g => .v n (BitVec.ofNat 4 g.1))
    | .pend ps => ps.map (·.dest)
    | .mrest _ ps => ps.map (·.dest)
    | _ => [])

/-- A slot under its guard (R69, R70): a poisoned guard faults, a false one has no effect; a slot that does not arrive by itself
arrives when its results have landed, at most `bound` cycles after issue. -/
def Core.guarded (k : Core) (ctl : Ctl) (bound : Option Nat) (out : SlotOut) : SlotOut :=
  if k.poisonP ctl.g then .early (flt 0x08)
  else if !k.readP ctl.g then .ok []
  else if !ctl.ar then out
  else
    match k.arFault with
    | some f => .early f
    | none =>
      match out, bound with
      | .ok as, some n => .ok (as ++ [.arrive k.csr.ardom n (k.landsAt as)])
      | o, _ => o

/-- Executes a slot: `out` is what it comes to on its core under a true guard. -/
def State.slot (s : State) (ctl : Ctl) (bound : Option Nat) (out : Core → SlotOut) : State :=
  s.issue ctl.slot 2 ((s.core s.cur).guarded ctl bound (out (s.core s.cur)))

-- Pointers (R28, R90) -------------------------------------------------------------------------------------------------

/-- The space tag of a pointer. -/
def tagOf (p : Word) : Nat := (fld p 60 4).toNat

/-- Number of offset bits of a space (R28, Table 10). -/
def spaceBits (t : Nat) : Nat := match t with | 0 => 19 | 1 => 22 | 2 => 48 | _ => 13

/-- offset_out_of_space (R28). The offset of a handle-relative pointer is checked against its handle, not here. -/
def outOfSpace (p : Word) : Bool := tagOf p != 2 && decide ((fld p 0 60).toNat ≥ 2 ^ spaceBits (tagOf p))

/-- The offset of a pointer in its space. -/
def offsetOf (p : Word) : Nat := p.toNat % 2 ^ spaceBits (tagOf p)

/-- check_ptr (R90) of an address whose poison has been seen to: tag, offset, alignment (R99). -/
def checkPtr (p : Word) (accepted : List Nat) (size : Nat) : Option SlotFault :=
  if !accepted.contains (tagOf p) then some (fltAt 0x06 p)
  else if outOfSpace p then some (fltAt 0x05 p)
  else if p.toNat % size != 0 then some (fltAt 0x04 p)
  else none

end Sys2Proof.Machine
end

