-- ==== Sys2Proof/Machine/Paths.lean ====
section
/-! DEFINITION. How an engine reaches memory: translation (R315), handles (R307-R313), and reads and writes of a run of bytes
wherever it lies. -/
namespace Sys2Proof.Machine
open Sys2Proof

/-- What a translation comes to (R315). -/
inductive Xl where
  | ok (loc : Nat) | poisoned | rights | page | fault | cow (g : Nat) | wait
deriving DecidableEq, Repr

/-- translate (R315); an access that has already waited on M names itself and the start of its wait in `since`. -/
def State.translate (s : State) (ia : Nat) (write : Bool) (part : BitVec 5) (since : Option MWait) : Xl :=
  let e := s.pageEntry ia
  if !pteP e then .fault
  else if pteOwner e != part then .rights
  else if pteX e then (if write then .page else .poisoned)
  else
    let p := s.part part
    let cutOk := pteC e && p.inCut false 0 ia
    match if write && !pteW e && cutOk then p.markOf false 0 ia else none with
    | some g => .cow g
    | none =>
      if write && !pteW e && !cutOk then .fault
      else if write && pteM e then
        (match since with
         | some w => if w.ia = ia && decide ((s.tnow - w.since).toNat ≥ s.faultMax part) then .page else .wait
         | none => .wait)
      else .ok (pteLoc e ia)

/-- A and, for a write, D (R315); and the sample of R320. -/
def State.touch (s : State) (ia loc : Nat) (write : Bool) (part : BitVec 5) : State :=
  (s.orEntry ia (if write then 0x60 else 0x20)).sample ia loc write part

-- Handles (R307-R310) -------------------------------------------------------------------------------------------------

/-- Entry h of a partition's handle table. -/
def State.handle (s : State) (p : BitVec 5) (h : BitVec 12) : BitVec 256 := SMap.get 0 s.handles (p.toNat * 4096 + h.toNat)
/-- SPACE. -/
def hSpace (e : BitVec 256) : Nat := (fld e 0 4).toNat
/-- RIGHTS. -/
def hRights (e : BitVec 256) : BitVec 5 := fld e 8 5
/-- OWNER. -/
def hOwner (e : BitVec 256) : BitVec 5 := fld e 16 5
/-- GEN. -/
def hGen (e : BitVec 256) : BitVec 16 := fld e 32 16
/-- BASE. -/
def hBase (e : BitVec 256) : Nat := (fld e 64 64).toNat
/-- BOUND. -/
def hBound (e : BitVec 256) : Nat := (fld e 128 64).toNat
/-- AUX. -/
def hAux (e : BitVec 256) : Word := fld e 192 64
/-- Whether a peer handle names a berth (R313). -/
def hBerth (e : BitVec 256) : Bool := hSpace e == 2 && bit (hAux e) 30

/-- The handle a tag 0x2 pointer names. -/
def ptrHandle (p : Word) : BitVec 12 := fld p 48 12

/-- The ways a handle is used (R308, Table 3; R313). -/
inductive Use where
  | src | srcMc | dst | fwr | fwrBerth | atomic | drgRegion | drgDst | hostRead | hostWrite
deriving DecidableEq, Repr

/-- rights_ok (R308, Table 3). A host access needs RD or WR (R391), and R428 has the host write through a handle of RD and MC, so either right is
enough for it (log 150). -/
def rightsOk (e : BitVec 256) (u : Use) : Bool :=
  let r := hRights e
  let sp := hSpace e
  let rd := bit r 0
  let wr := bit r 1
  let toWrite : Bool := sp == 1 || (sp == 2 && !hBerth e) || sp == 3 || sp == 4 || (sp == 5 && bit r 4)
  match u with
  | .src => rd && !hBerth e
  | .srcMc => rd && bit r 3 && (sp == 1 || sp == 3 || sp == 6)
  | .dst => wr && toWrite
  | .hostRead => (rd || wr) && !hBerth e
  | .hostWrite => (rd || wr) && toWrite
  | .fwr => wr && sp == 2 && !hBerth e
  | .fwrBerth => wr && hBerth e
  | .atomic => bit r 2 && sp == 2 && !hBerth e
  | .drgRegion => rd && sp == 1
  | .drgDst => wr && (sp == 1 || sp == 6)

/-- handle_check (R309) of `len` bytes at offset `off`, for a partition. -/
def State.handleOkFor (s : State) (part : BitVec 5) (h : BitVec 12) (off len : Nat) (u : Use) : Bool :=
  let e := s.handle part h
  let sp := hSpace e
  decide (1 ≤ sp) && decide (sp ≤ 6) && hOwner e == part && rightsOk e u && decide (off + len ≤ hBound e)
    && ((sp != 4 && sp != 5) || s.ownsCore part (fld (hAux e) 0 11))

/-- handle_check for the partition of core c. -/
def State.handleOk (s : State) (c : CoreId) (h : BitVec 12) (off len : Nat) (u : Use) : Bool :=
  s.handleOkFor (s.core c).part h off len u

-- Places --------------------------------------------------------------------------------------------------------------

/-- A place at another address of its memory. -/
def Place.at_ (p : Place) (a : Nat) : Place :=
  match p with
  | .sp c _ => .sp c a | .hold c _ => .hold c a | .const c b _ => .const c b a
  | .ia t _ => .ia t a | .peer ch t _ => .peer ch t a | .host v _ => .host v a

/-- The address of a place in its memory. -/
def Place.addr (p : Place) : Nat :=
  match p with | .sp _ a => a | .hold _ a => a | .const _ _ a => a | .ia _ a => a | .peer _ _ a => a | .host _ a => a

/-- A place some bytes further on. -/
def Place.plus (p : Place) (n : Int) : Place := p.at_ ((p.addr : Int) + n).toNat

/-- The place at an offset of a handle that has been checked (R307, R312). One of a core whose BASE and offset pass the end of its scratchpad or hold
is not refused: what is written there is read back, and reaches nothing else (log 159). -/
def handlePlace (part : BitVec 5) (e : BitVec 256) (off : Nat) : Place :=
  let a := hBase e + off
  match hSpace e with
  | 2 => .peer (fld (hAux e) 0 21) (fld (hAux e) 24 5) a
  | 3 => .host (fld (hAux e) 0 8) a
  | 4 => .sp (fld (hAux e) 0 11) a
  | 5 => .hold (fld (hAux e) 0 11) a
  | _ => .ia part a

/-- The place a pointer of core c names (R28, R307, R312), constants in plane `pl`; a handle has been checked. -/
def State.resolve (s : State) (c : CoreId) (pl : Bool) (p : Word) : Place :=
  match tagOf p with
  | 0 => .sp c (offsetOf p)
  | 1 => .hold c (offsetOf p)
  | 3 => .const c pl (offsetOf p)
  | _ => let part := (s.core c).part; handlePlace part (s.handle part (ptrHandle p)) (offsetOf p)

/-- A hold a unit of work met: why, where (for a page fault), and the marked granule to be copied. -/
structure Holding where
  why : Held
  part : BitVec 5
  ia : Nat
  write : Bool
  mark : Option Nat
deriving DecidableEq, Repr

/-- What one unit of engine work comes to: done, ended with a status, or held; in each case with what it has done by then. -/
inductive Res (α : Type) where
  | ok (s : State) (a : α)
  | stop (s : State) (st : Status)
  | hold (s : State) (h : Holding)

/-- One unit of work after another; a stop or a hold ends it. -/
def Res.bind {α β : Type} (r : Res α) (f : State → α → Res β) : Res β :=
  match r with | .ok s a => f s a | .stop s st => .stop s st | .hold s h => .hold s h

/-- Key of a place in the image of the peers' memories. -/
def peerKey (chip : BitVec 21) (a : Nat) : Nat := chip.toNat * 2 ^ 52 + a
/-- Key of a place in the image of host memory. -/
def hostKey (vf : BitVec 8) (a : Nat) : Nat := vf.toNat * 2 ^ 64 + a

/-- A hold column word as an agent other than the program thread reads it (R328): logged when corrected (R323), poisoned when its draw makes it
uncorrectable (R326). -/
def State.readColumn (s : State) (c : CoreId) (g : Nat) : State × Gran × Bool :=
  let s1 := s.holdRead c g
  (s1, ((s1.core c).homeWord g).1, ((s1.core c).homeWord g).2)

/-- What a translation that gives no address makes of an access. -/
def Xl.outcome {α : Type} (x : Xl) (s : State) (part : BitVec 5) (ia : Nat) (write : Bool) (since : Option MWait) : Res α :=
  match x with
  | .rights => .stop s .rights
  | .cow g => .hold s ⟨.cow, part, ia, write, some g⟩
  | .wait => .hold s ⟨.migrate (match since with | some w => if w.ia = ia then w else ⟨ia, s.tnow⟩ | none => ⟨ia, s.tnow⟩), part, ia, write, none⟩
  | .fault => .hold s ⟨.fault s.nextFault, part, ia, write, none⟩
  | _ => .stop s .page

/-- An access that another machine answers (R318, R382): a choice tells what it reports. A host reports success, a remote access error (RIGHTS) or a
remote operational error (LINK); a peer also a refusal of its firmware (PAGE). A peer to which no route leads gives LINK. -/
def State.remote {α : Type} (s : State) (peer : Option (BitVec 21)) (s1 : State) (a : α) : Res α :=
  if peer.any (fun c => !s.reachable c) then .stop s .link
  else match s.choice with
  | 0 => .ok s1.chosen a
  | 1 => .stop s.chosen .rights
  | 3 => if peer.isSome then .stop s.chosen .page else .stop s.chosen .link
  | _ => .stop s.chosen .link

/-- Reads the granule at a place whose address is a multiple of 32 (R264), poisoned when the read's draw makes it so (R326); `since` is the tick since which it waits on M. -/
def State.readG (s : State) (pl : Place) (since : Option MWait) : Res (Gran × Bool) :=
  let g := pl.addr / 32
  match pl with
  | .sp c _ => let s1 := s.injectReads c .pad [g]; .ok s1 ((s1.core c).sp.gran g, (s1.core c).sp.poisoned g)
  | .hold c _ => let r := s.readColumn c g; .ok r.1 (r.2.1, r.2.2)
  | .const c b a => .ok s (BitVec.ofNat 256 (leNat (((s.core c).plane b).bytes.readRun (0x10000 + a) 32)), false)
  | .ia part a =>
    match s.translate a false part since with
    | .ok loc => let s1 := (s.touch a loc false part).injectHbm part loc; .ok s1 (s1.hbm.gran (loc / 32), s1.hbm.poisoned (loc / 32))
    | .poisoned => .ok s (0, true)
    | x => x.outcome s part a false since
  | .peer chip _ a => s.remote (some chip) s (s.peerMem.gran (peerKey chip a / 32), s.peerMem.poisoned (peerKey chip a / 32))
  | .host vf a => s.remote none s (s.hostMem.gran (hostKey vf a / 32), s.hostMem.poisoned (hostKey vf a / 32))

/-- Writes masked bytes of the granule at a place: poisoned data poisons it, whole clean data cleans it (R213, R276). -/
def State.writeG (s : State) (pl : Place) (v : Gran) (mask : BitVec 32) (bad : Bool) (since : Option MWait) : Res Unit :=
  let g := pl.addr / 32
  let q : Option Bool := if bad then some true else if mask = BitVec.allOnes 32 then some false else none
  match pl with
  | .sp c _ => .ok (s.modCore c (fun k => { k with sp := k.sp.mergeGran g v mask q })) ()
  | .hold c a =>
    match s.holdMark c a with
    | some m => .hold s ⟨.cow, (s.core c).part, 0, true, some m⟩
    | none => .ok ((s.modCore c (fun k => k.performHome true g v mask q)).flushNotes c) ()
  | .const .. => .stop s .rights
  | .ia part a =>
    match s.translate a true part since with
    | .ok loc => .ok (let s1 := s.touch a loc true part; { s1 with hbm := s1.hbm.mergeGran (loc / 32) v mask q }) ()
    | x => x.outcome s part a true since
  | .peer chip _ a => s.remote (some chip) { s with peerMem := s.peerMem.mergeGran (peerKey chip a / 32) v mask q } ()
  | .host vf a => s.remote none { s with hostMem := s.hostMem.mergeGran (hostKey vf a / 32) v mask q } ()

/-- The granules a run of n bytes at an address meets: granule address, first byte in it, number of bytes. -/
def granSplit (a n : Nat) : List (Nat × Nat × Nat) :=
  (List.range ((a + n + 31) / 32 - a / 32)).map (fun i =>
    let g := 32 * (a / 32 + i)
    let lo := max a g
    (g, lo - g, min (a + n) (g + 32) - lo))

/-- Reads a run of bytes granule by granule; poisoned if any granule of it is. -/
def State.readBytes (s : State) (pl : Place) (n : Nat) (since : Option MWait) : Res (List Byte × Bool) :=
  (granSplit pl.addr n).foldl (fun r p => r.bind fun s acc =>
    (s.readG (pl.at_ p.1) since).bind fun s g =>
      .ok s (acc.1 ++ ((bytesOf g.1.toNat 32).drop p.2.1).take p.2.2, acc.2 || g.2)) (.ok s ([], false))

/-- Writes a run of bytes granule by granule. -/
def State.writeBytes (s : State) (pl : Place) (bs : List Byte) (bad : Bool) (since : Option MWait) : Res Unit :=
  (granSplit pl.addr bs.length).foldl (fun r p => r.bind fun s _ =>
    let here := (bs.drop (p.1 + p.2.1 - pl.addr)).take p.2.2
    s.writeG (pl.at_ p.1) (BitVec.ofNat 256 (leNat here * 2 ^ (8 * p.2.1))) (runMask p.2.1 p.2.2) bad since) (.ok s ())

/-- Posts a fault record (R316). -/
def State.postFault (s : State) (part : BitVec 5) (ia : Nat) (write : Bool) (core : CoreId) (op : BitVec 8) (cls : BitVec 4) : State :=
  let f : PageFault := ⟨s.nextFault, part, ia, write, s.tnow, false⟩
  { s with faults := s.faults ++ [f], nextFault := s.nextFault + 1, fw := s.fw ++ [.pageFault s.nextFault part core op cls ia write s.tnow] }

/-- Makes the report a hold calls for: a fault record, or a request for a copy. -/
def State.report (s : State) (h : Holding) (core : CoreId) (op : BitVec 8) (cls : BitVec 4) : State :=
  match h.why, h.mark with
  | .fault _, _ => s.postFault h.part h.ia h.write core op cls
  | _, some g => s.askCopy h.part g
  | _, none => s

/-- The report of a hold of a core's own command; a fault record counts for the core (R394). -/
def State.reportOwn (s : State) (h : Holding) (core : CoreId) (op : BitVec 8) (cls : BitVec 4) : State :=
  let s1 := s.report h core op cls
  match h.why with | .fault _ => s1.modCore core Core.countRecord | _ => s1

/-- What the hold of an access says now: still held, refused, or to be tried again (with the tick since which it waits on M). -/
inductive HoldNow where
  | still | page | retry (since : Option MWait)
deriving DecidableEq, Repr

/-- Looks at a hold again (R315, R316, R367). -/
def State.holdNow (s : State) (h : Option Held) : HoldNow :=
  match h with
  | some (.migrate t) => .retry (some t)
  | some (.fault id) =>
    match s.faults.find? (fun f => f.id == id) with
    | none => .retry none
    | some f => if f.refused then .page else .still
  | _ => .retry none

/-- Drops the fault record of an access that has ended. -/
def State.dropFault (s : State) (h : Option Held) : State :=
  match h with
  | some (.fault id) => { s with faults := s.faults.filter (fun f => f.id != id) }
  | _ => s

end Sys2Proof.Machine
end

