-- ==== Sys2Proof/Machine/Operands.lean ====
section
/-! DEFINITION. Operand forms of the scalar slots: data and synchronising registers (R98), effective addresses (R120, R124),
what a load reads and a store writes (R121, R122), and the landing check of a read (R302). -/
namespace Sys2Proof.Machine
open Sys2Proof

/-- A result of registers read as data: the value with the poison of every one (R98). -/
def dataResult (v : Word) (srcs : List XW) : XW := ⟨v, srcs.any (·.poison)⟩

/-- Poison in a synchronising source raises cause 0x08 (R98). -/
def syncFault (srcs : List XW) : Option SlotFault := if srcs.any (·.poison) then some (flt 0x08) else none

/-- The first fault of a list of checks, in order, or the outcome. -/
def orFault (checks : List (Option SlotFault)) (out : SlotOut) : SlotOut :=
  match checks with
  | [] => out
  | some f :: _ => .fault f
  | none :: rest => orFault rest out

/-- Bytes of an access (R72, R120). -/
def sizeBytes (z : MemSize) : Nat := match z with | .b => 1 | .bn => 1 | .h => 2 | .hn => 2 | .w => 4 | .wn => 4 | .d => 8

/-- Extends a loaded value to 64 bits: sign for B, H, W, zero for BN, HN, WN, D (R72, R121). -/
def extendLoad (z : MemSize) (v : Nat) : Word :=
  match z with
  | .b => (BitVec.ofNat 8 v).signExtend 64 | .h => (BitVec.ofNat 16 v).signExtend 64 | .w => (BitVec.ofNat 32 v).signExtend 64
  | _ => BitVec.ofNat 64 v

/-- The address of an SM form (R120): Xb plus the displacement times the access size. -/
def smAddr (xb : Word) (off : BitVec 11) (z : MemSize) : Word := xb + off.signExtend 64 * BitVec.ofNat 64 (sizeBytes z)
/-- The address of an indexed form (R124). -/
def ixAddr (xa xb : Word) (z : MemSize) : Word := xa + xb * BitVec.ofNat 64 (sizeBytes z)

/-- A plane constant (R28, R29): `n` bytes of the active plane's constants region. -/
def Core.constBytes (k : Core) (off n : Nat) : Nat := leNat (k.active.bytes.readRun (0x10000 + off) n)

/-- What the landing check of a program-thread read adds to its outcome (R302): its fault or freeze, or the berths that pass. -/
def Core.landed (k : Core) (ns : List (BitVec 5)) (slot : Slot) (as : List Action) : SlotOut :=
  match k.checkBerths ns with
  | .bad n => .fault (fltDetail 0x0A (n.setWidth 16))
  | .late n => .freeze (.buffer n slot.num)
  | .pass [] => .ok as
  | .pass ps => .ok (.passBerths ps :: as)

/-- The draws a program-thread read makes when the core's injector is on (R326). -/
def Core.readDraws (k : Core) (m : InjMem) (gs : List Nat) : List Action := if k.injects m then [.drawn m gs] else []

/-- Hold column words as a read of the program thread delivers them (R121, R123, R326, R328): each home as its check bits leave it after the draws,
under the stores of the thread itself; with the log entries that corrections make, and the draws. -/
def Core.holdWords (k : Core) (gs : List Nat) : List (Gran × Bool) × List Action :=
  let u := k.afterDraws .hold gs
  (gs.map (fun g => k.viewOver true g (u.homeWord g)), (gs.filter k.homeCorrects).map .note ++ k.readDraws .hold gs)

/-- Whether the drydock has a hold granule marked copy-on-write (R367). -/
def State.cowHeld (s : State) (c : CoreId) (g : Nat) : Bool := (s.holdMark c (32 * g)).isSome

/-- A store's masked bytes in its granule. -/
def storeAction (hold : Bool) (off n : Nat) (v : XW) (cls : BitVec 4) : Action :=
  .store hold (off / 32) (BitVec.ofNat 256 ((v.val.toNat % 2 ^ (8 * n)) * 2 ^ (8 * (off % 32)))) (runMask (off % 32) n)
    (if v.poison then some true else none) cls

/-- A scalar load from scratchpad or plane constants (R120, R121). -/
def Core.loadOut (k : Core) (slot : Slot) (z : MemSize) (xd : Reg) (srcs : List XW) (p : Word) : SlotOut :=
  let n := sizeBytes z
  orFault [syncFault srcs, checkPtr p [0, 3] n]
    (if tagOf p = 3 then .ok [.x xd ⟨extendLoad z (k.constBytes (offsetOf p) n), false⟩ 4]
     else
       let v := (k.afterDraws .pad [offsetOf p / 32]).viewBytes false (offsetOf p) n
       k.landed (k.berthsAt (offsetOf p) n) slot (.x xd ⟨extendLoad z v.1, v.2⟩ 4 :: k.readDraws .pad [offsetOf p / 32]))

/-- A scalar store to scratchpad (R120, R122). -/
def storeOut (z : MemSize) (v : XW) (cls : BitVec 4) (srcs : List XW) (p : Word) : SlotOut :=
  orFault [syncFault srcs, checkPtr p [0] (sizeBytes z)] (.ok [storeAction false (offsetOf p) (sizeBytes z) v cls])

end Sys2Proof.Machine
end

