-- ==== Sys2Proof/Machine/Scalar.lean ====
section
/-! DEFINITION. The scalar, predicate, mask, pointer, memory, branch and CSR instructions (R97-R133). -/
namespace Sys2Proof.Machine
open Sys2Proof

-- Values --------------------------------------------------------------------------------------------------------------

/-- A 32-bit result sign-extended (Table 2, the .w rows). -/
def sextW (v : BitVec 32) : Word := v.signExtend 64

/-- Leading zero bits (R102). -/
def clz64 (a : Word) : Nat := ((List.range 64).find? (fun i => a.getLsbD (63 - i))).getD 64
/-- Trailing zero bits (R102). -/
def ctz64 (a : Word) : Nat := ((List.range 64).find? (fun i => a.getLsbD i)).getD 64
/-- Number of one bits of a value. -/
def popcount {n : Nat} (a : BitVec n) : Nat := ((List.range n).filter (fun i => a.getLsbD i)).length
/-- Bytes in reverse order (R102). -/
def rev8 (a : Word) : Word := BitVec.ofNat 64 (leNat (bytesOf a.toNat 8).reverse)

/-- The ALU functions (R102, Table 2). -/
def aluResult (fn : AluFn) (a b : Word) : Word :=
  let n := b.toNat % 64
  let m := b.toNat % 32
  let lo : BitVec 32 := a.setWidth 32
  match fn with
  | .add => a + b | .sub => a - b | .and => a &&& b | .or => a ||| b | .xor => a ^^^ b | .andn => a &&& ~~~ b
  | .orn => a ||| ~~~ b | .xnor => ~~~ (a ^^^ b)
  | .shl => a <<< n | .shr => a >>> n | .sar => a.sshiftRight n | .rol => (a <<< n) ||| (a >>> (64 - n))
  | .min => if a.slt b then a else b | .max => if b.slt a then a else b
  | .minn => if a.ult b then a else b | .maxn => if b.ult a then a else b
  | .addW => sextW ((a + b).setWidth 32) | .subW => sextW ((a - b).setWidth 32)
  | .shlW => sextW (lo <<< m) | .shrW => sextW (lo >>> m) | .sarW => sextW (lo.sshiftRight m)
  | .clz => BitVec.ofNat 64 (clz64 a) | .ctz => BitVec.ofNat 64 (ctz64 a) | .popc => BitVec.ofNat 64 (popcount a) | .rev8 => rev8 a
  | .sextB => (a.setWidth 8).signExtend 64 | .sextH => (a.setWidth 16).signExtend 64 | .sextW => sextW lo | .zextW => lo.setWidth 64
  | .addsh1 => b + (a <<< 1) | .addsh2 => b + (a <<< 2) | .addsh3 => b + (a <<< 3) | .addsh4 => b + (a <<< 4)

/-- Whether an ALU function reads only Xa (R102). -/
def aluUnary (fn : AluFn) : Bool :=
  match fn with | .clz => true | .ctz => true | .popc => true | .rev8 => true | .sextB => true | .sextH => true | .sextW => true | .zextW => true | _ => false

/-- The MULDIV functions (R103, Table 3). -/
def mulResult (fn : MulFn) (a b : Word) : Word :=
  match fn with
  | .mul => a * b
  | .mulh => BitVec.ofInt 64 ((a.toInt * b.toInt) / 2 ^ 64)
  | .mulhn => BitVec.ofNat 64 (a.toNat * b.toNat / 2 ^ 64)
  | .mulW => sextW (a.setWidth 32 * b.setWidth 32)
  | .div => if b = 0 then BitVec.allOnes 64 else BitVec.ofInt 64 (a.toInt.tdiv b.toInt)
  | .divn => if b = 0 then BitVec.allOnes 64 else BitVec.ofNat 64 (a.toNat / b.toNat)
  | .rem => if b = 0 then a else BitVec.ofInt 64 (a.toInt.tmod b.toInt)
  | .remn => if b = 0 then a else BitVec.ofNat 64 (a.toNat % b.toNat)

/-- The landing bound of a MULDIV function (R97, Table 1). -/
def mulBound (fn : MulFn) : Nat :=
  match fn with | .mul => 3 | .mulW => 3 | .mulh => 4 | .mulhn => 4 | .div => 20 | .divn => 20 | .rem => 20 | .remn => 20

/-- A bit field of `len` bits from `pos` (R107). -/
def bitField (a : Word) (pos lenM1 : BitVec 6) : Word := (a >>> pos.toNat) &&& BitVec.ofNat 64 (2 ^ (lenM1.toNat + 1) - 1)

/-- The value with a bit field replaced (R107). -/
def bitInsert (d a : Word) (pos lenM1 : BitVec 6) : Word :=
  let mask : Word := BitVec.ofNat 64 (2 ^ (lenM1.toNat + 1) - 1)
  (d &&& ~~~ (mask <<< pos.toNat)) ||| ((a &&& mask) <<< pos.toNat)

/-- Sign-extends the low `n` bits of a value, `1 ≤ n ≤ 64` (sext of R90). -/
def sextLow (v : Word) (n : Nat) : Word := (v <<< (64 - n)).sshiftRight (64 - n)

/-- One X result of bound 1 from values read as data. -/
def setOne (xd : Reg) (v : Word) (srcs : List XW) : SlotOut := .ok [.x xd (dataResult v srcs) 1]

-- Arithmetic and constants --------------------------------------------------------------------------------------------

/-- A header-only bundle (R63): no effect but a drain point when DP is set (R64, R301). -/
def execHeaderOnlyBundle (dp : Bool) (s : State) : Host.Outcome State Fault Refusal :=
  let c := s.cur
  let s1 := s.modCore c (fun k => if dp && k.swreq && !k.csr.hm then k.flip else k)
  let pc := (s1.core c).pc
  .next (s1.commit c ⟨pc, pc + 4, 0, []⟩)

/-- NOP (R101). -/
def execNop (c : Ctl) (s : State) : Host.Outcome State Fault Refusal :=
  .next (s.slot c (some 1) (fun _ => .ok []))

/-- ALU (R102). -/
def execAlu (c : Ctl) (fn : AluFn) (xd xa xb : Reg) (s : State) : Host.Outcome State Fault Refusal :=
  .next (s.slot c (some 1) (fun k =>
    setOne xd (aluResult fn (k.readX xa).val (k.readX xb).val) (if aluUnary fn then [k.readX xa] else [k.readX xa, k.readX xb])))

/-- MULDIV (R103). -/
def execMuldiv (c : Ctl) (fn : MulFn) (xd xa xb : Reg) (s : State) : Host.Outcome State Fault Refusal :=
  .next (s.slot c (some (mulBound fn)) (fun k =>
    .ok [.x xd (dataResult (mulResult fn (k.readX xa).val (k.readX xb).val) [k.readX xa, k.readX xb]) (mulBound fn)]))

/-- SEL (R104). -/
def execSel (c : Ctl) (xd : Reg) (pn : BitVec 3) (xa xb : Reg) (s : State) : Host.Outcome State Fault Refusal :=
  .next (s.slot c (some 1) (fun k =>
    let v := if k.readP pn then k.readX xa else k.readX xb
    .ok [.x xd ⟨v.val, v.poison || k.poisonP pn⟩ 1]))

/-- ADDI (R105). -/
def execAddi (c : Ctl) (xd xa : Reg) (imm : BitVec 18) (s : State) : Host.Outcome State Fault Refusal :=
  .next (s.slot c (some 1) (fun k => setOne xd ((k.readX xa).val + imm.signExtend 64) [k.readX xa]))

/-- ANDI (R105). -/
def execAndi (c : Ctl) (xd xa : Reg) (imm : BitVec 18) (s : State) : Host.Outcome State Fault Refusal :=
  .next (s.slot c (some 1) (fun k => setOne xd ((k.readX xa).val &&& imm.signExtend 64) [k.readX xa]))

/-- ORI (R105). -/
def execOri (c : Ctl) (xd xa : Reg) (imm : BitVec 18) (s : State) : Host.Outcome State Fault Refusal :=
  .next (s.slot c (some 1) (fun k => setOne xd ((k.readX xa).val ||| imm.signExtend 64) [k.readX xa]))

/-- XORI (R105). -/
def execXori (c : Ctl) (xd xa : Reg) (imm : BitVec 18) (s : State) : Host.Outcome State Fault Refusal :=
  .next (s.slot c (some 1) (fun k => setOne xd ((k.readX xa).val ^^^ imm.signExtend 64) [k.readX xa]))

/-- SHLI (R106). -/
def execShli (c : Ctl) (w : Bool) (xd xa : Reg) (n : BitVec 6) (s : State) : Host.Outcome State Fault Refusal :=
  .next (s.slot c (some 1) (fun k => setOne xd (aluResult (if w then .shlW else .shl) (k.readX xa).val (n.setWidth 64)) [k.readX xa]))

/-- SHRI (R106). -/
def execShri (c : Ctl) (w : Bool) (xd xa : Reg) (n : BitVec 6) (s : State) : Host.Outcome State Fault Refusal :=
  .next (s.slot c (some 1) (fun k => setOne xd (aluResult (if w then .shrW else .shr) (k.readX xa).val (n.setWidth 64)) [k.readX xa]))

/-- SARI (R106). -/
def execSari (c : Ctl) (w : Bool) (xd xa : Reg) (n : BitVec 6) (s : State) : Host.Outcome State Fault Refusal :=
  .next (s.slot c (some 1) (fun k => setOne xd (aluResult (if w then .sarW else .sar) (k.readX xa).val (n.setWidth 64)) [k.readX xa]))

/-- BFX (R107). -/
def execBfx (c : Ctl) (xd xa : Reg) (pos lenM1 : BitVec 6) (s : State) : Host.Outcome State Fault Refusal :=
  .next (s.slot c (some 1) (fun k => setOne xd (bitField (k.readX xa).val pos lenM1) [k.readX xa]))

/-- BFXS (R107). -/
def execBfxs (c : Ctl) (xd xa : Reg) (pos lenM1 : BitVec 6) (s : State) : Host.Outcome State Fault Refusal :=
  .next (s.slot c (some 1) (fun k => setOne xd (sextLow (bitField (k.readX xa).val pos lenM1) (lenM1.toNat + 1)) [k.readX xa]))

/-- BFI (R107): Xd is read as data. -/
def execBfi (c : Ctl) (xd xa : Reg) (pos lenM1 : BitVec 6) (s : State) : Host.Outcome State Fault Refusal :=
  .next (s.slot c (some 1) (fun k =>
    setOne xd (bitInsert (k.readX xd).val (k.readX xa).val pos lenM1) [k.readX xd, k.readX xa]))

/-- MOVI (R108). -/
def execMovi (c : Ctl) (xd : Reg) (imm : BitVec 18) (s : State) : Host.Outcome State Fault Refusal :=
  .next (s.slot c (some 1) (fun _ => setOne xd (imm.signExtend 64) []))

/-- MOVK (R109): Xd is read as data. -/
def execMovk (c : Ctl) (xd : Reg) (imm : BitVec 16) (h : BitVec 2) (s : State) : Host.Outcome State Fault Refusal :=
  .next (s.slot c (some 1) (fun k =>
    let sh := 16 * h.toNat
    setOne xd (((k.readX xd).val &&& ~~~ (0xFFFF#64 <<< sh)) ||| (imm.setWidth 64 <<< sh)) [k.readX xd]))

/-- MOVL (R110): a bundle of three words when alone. -/
def execMovl (c : Ctl) (xd : Reg) (imm : BitVec 50) (s : State) : Host.Outcome State Fault Refusal :=
  let k := s.core s.cur
  .next (s.issue c.slot 3 (k.guarded c (some 1) (setOne xd (imm.signExtend 64) [])))

-- Compares, predicates, masks -----------------------------------------------------------------------------------------

/-- CMP (R111). -/
def execCmp (c : Ctl) (cond : Cond) (sz : CmpSize) (pt pf : BitVec 3) (xa xb : Reg) (s : State) : Host.Outcome State Fault Refusal :=
  .next (s.slot c (some 1) (fun k =>
    let r := compareAt cond sz (k.readX xa).val (k.readX xb).val
    let q := (k.readX xa).poison || (k.readX xb).poison
    .ok [.p pt r q, .p pf (!r) q]))

/-- CMPI (R112). -/
def execCmpi (c : Ctl) (cond : Cond) (pt pf : BitVec 3) (xa : Reg) (imm : BitVec 13) (s : State) : Host.Outcome State Fault Refusal :=
  .next (s.slot c (some 1) (fun k =>
    let r := condHolds cond (k.readX xa).val (imm.signExtend 64)
    let q := (k.readX xa).poison
    .ok [.p pt r q, .p pf (!r) q]))

/-- PLOG (R113). -/
def execPlog (c : Ctl) (pd pa pb : BitVec 3) (tt : BitVec 4) (s : State) : Host.Outcome State Fault Refusal :=
  .next (s.slot c (some 1) (fun k => .ok [.p pd (truth tt (k.readP pa) (k.readP pb)) (k.poisonP pa || k.poisonP pb)]))

/-- PMOV (R114, Table 7). -/
def execPmov (c : Ctl) (form : PmovForm) (s : State) : Host.Outcome State Fault Refusal :=
  .next (s.slot c (some 1) (fun k =>
    match form with
    | .rd xd => .ok [.x xd ⟨((k.regs.p ||| 1).setWidth 64), !(k.regs.pp &&& 0xFE == 0)⟩ 1]
    | .wr xa =>
      let v := k.readX xa
      .ok ((List.range 7).map (fun i => .p (BitVec.ofNat 3 (i + 1)) (v.val.getLsbD (i + 1)) v.poison))
    | .set pd xa => .ok [.p pd ((k.readX xa).val != 0) (k.readX xa).poison]
    | .get xd pa => .ok [.x xd ⟨bitOf 64 (k.readP pa), k.poisonP pa⟩ 1]))

/-- KLOG (R115). -/
def execKlog (c : Ctl) (kd ka kb : BitVec 3) (tt : BitVec 4) (s : State) : Host.Outcome State Fault Refusal :=
  .next (s.slot c (some 1) (fun k => .ok [.k kd (truthMask tt (k.readK ka) (k.readK kb)) (k.poisonK ka || k.poisonK kb) 1]))

/-- KMOV (R116, Table 8). -/
def execKmov (c : Ctl) (form : KmovForm) (s : State) : Host.Outcome State Fault Refusal :=
  .next (s.slot c (some 1) (fun k =>
    match form with
    | .pair kd xa xb => .ok [.k kd ((k.readX xb).val ++ (k.readX xa).val) ((k.readX xa).poison || (k.readX xb).poison) 1]
    | .lo xd ka => .ok [.x xd ⟨(k.readK ka).extractLsb' 0 64, k.poisonK ka⟩ 1]
    | .hi xd ka => .ok [.x xd ⟨(k.readK ka).extractLsb' 64 64, k.poisonK ka⟩ 1]
    | .first kd xa => .ok [.k kd (firstBits (k.readX xa).val) (k.readX xa).poison 1]))

/-- What KPOP computes (R117). -/
def kpopResult (fn : KpopFn) (m : BitVec 128) : Nat :=
  match fn with
  | .i8 => countLanes m 1 | .i16 => countLanes m 2 | .i32 => countLanes m 4 | .i64 => countLanes m 8 | .first => lowestBit m

/-- KPOP (R117). -/
def execKpop (c : Ctl) (fn : KpopFn) (xd : Reg) (ka : BitVec 3) (s : State) : Host.Outcome State Fault Refusal :=
  .next (s.slot c (some 2) (fun k => .ok [.x xd ⟨BitVec.ofNat 64 (kpopResult fn (k.readK ka)), k.poisonK ka⟩ 2]))

-- Pointers ------------------------------------------------------------------------------------------------------------

/-- TAGSET (R118). -/
def execTagset (c : Ctl) (xd xa : Reg) (t : BitVec 2) (s : State) : Host.Outcome State Fault Refusal :=
  .next (s.slot c (some 1) (fun k => setOne xd (0#2 ++ t ++ ((k.readX xa).val.extractLsb' 0 60)) [k.readX xa]))

/-- What TAGCHK writes, or its fault (R119). The end of the extent is measured in the space of p's own tag (log 138). -/
def tagchkResult (p n : Word) (m : BitVec 4) : SlotFault ⊕ Word :=
  let t := tagOf p
  if t > 3 || !m.getLsbD t then .inl (fltAt 0x06 p)
  else if t = 2 then
    if p.toNat % 2 ^ 48 + n.toNat > 2 ^ 48 then .inl (fltAt 0x05 p) else .inr (BitVec.ofNat 64 (p.toNat % 2 ^ 48))
  else
    let o := (fld p 0 60).toNat
    if o ≥ 2 ^ spaceBits t || decide (n.toNat > 0 ∧ o + n.toNat - 1 ≥ 2 ^ spaceBits t) then .inl (fltAt 0x05 p)
    else .inr ((fld p 0 60).setWidth 64)

/-- TAGCHK (R119): both registers synchronise. -/
def execTagchk (c : Ctl) (xd xa xb : Reg) (m : BitVec 4) (s : State) : Host.Outcome State Fault Refusal :=
  .next (s.slot c (some 1) (fun k =>
    orFault [syncFault [k.readX xa, k.readX xb]]
      (match tagchkResult (k.readX xa).val (k.readX xb).val m with
       | .inl f => .fault f
       | .inr v => .ok [.x xd ⟨v, false⟩ 1])))

-- Loads and stores ----------------------------------------------------------------------------------------------------

/-- LD (R120, R121). -/
def execLd (c : Ctl) (sz : MemSize) (xd xb : Reg) (_cls : BitVec 4) (off : BitVec 11) (s : State) : Host.Outcome State Fault Refusal :=
  .next (s.slot c (some 4) (fun k => k.loadOut c.slot sz xd [k.readX xb] (smAddr (k.readX xb).val off sz)))

/-- ST (R120, R122). -/
def execSt (c : Ctl) (sz : MemSize) (xd xb : Reg) (cls : BitVec 4) (off : BitVec 11) (s : State) : Host.Outcome State Fault Refusal :=
  .next (s.slot c (some 1) (fun k => storeOut sz (k.readX xd) cls [k.readX xb] (smAddr (k.readX xb).val off sz)))

/-- LDX (R124). -/
def execLdx (c : Ctl) (sz : MemSize) (xd xa xb : Reg) (_cls : BitVec 4) (s : State) : Host.Outcome State Fault Refusal :=
  .next (s.slot c (some 4) (fun k =>
    k.loadOut c.slot sz xd [k.readX xa, k.readX xb] (ixAddr (k.readX xa).val (k.readX xb).val sz)))

/-- STX (R124). -/
def execStx (c : Ctl) (sz : MemSize) (xd xa xb : Reg) (cls : BitVec 4) (s : State) : Host.Outcome State Fault Refusal :=
  .next (s.slot c (some 1) (fun k =>
    storeOut sz (k.readX xd) cls [k.readX xa, k.readX xb] (ixAddr (k.readX xa).val (k.readX xb).val sz)))

/-- HLD (R120, R121): the column word is corrected, poisoned or miscorrected as its errors say. -/
def execHld (c : Ctl) (sz : MemSize) (xd xb : Reg) (_cls : BitVec 4) (off : BitVec 11) (s : State) : Host.Outcome State Fault Refusal :=
  .next (s.slot c (some 12) (fun k =>
    let p := smAddr (k.readX xb).val off sz
    let n := sizeBytes sz
    let o := offsetOf p
    orFault [syncFault [k.readX xb], checkPtr p [1] n]
      (let r := k.holdWords [o / 32]
       let w := r.1.headD (0, false)
       .ok (.x xd ⟨extendLoad sz ((w.1.toNat >>> (8 * (o % 32))) % 2 ^ (8 * n)), w.2⟩ 12 :: r.2))))

/-- HST (R120, R122): it may be held while the drydock copies its granule (R367). -/
def execHst (c : Ctl) (sz : MemSize) (xd xb : Reg) (cls : BitVec 4) (off : BitVec 11) (s : State) : Host.Outcome State Fault Refusal :=
  .next (s.slot c (some 1) (fun k =>
    let p := smAddr (k.readX xb).val off sz
    let n := sizeBytes sz
    let o := offsetOf p
    orFault [syncFault [k.readX xb], checkPtr p [1] n]
      (if s.cowHeld s.cur (o / 32) then .freeze (.cow (o / 32))
       else .ok (storeAction true o n (k.readX xd) cls :: k.readDraws .hold [o / 32]))))

-- Control transfer ----------------------------------------------------------------------------------------------------

/-- The offset of the bundle a slot belongs to. -/
def Core.hdrAt (k : Core) : Word := (k.bundleOf 2).pc
/-- The offset of the next sequential bundle. -/
def Core.nextAt (k : Core) : Word := (k.bundleOf 2).next

/-- BR (R125). -/
def execBr (c : Ctl) (disp : BitVec 28) (s : State) : Host.Outcome State Fault Refusal :=
  .next (s.slot c (some 1) (fun k => .ok [.transfer (k.hdrAt + 4 * disp.signExtend 64)]))

/-- CALL (R126): XL is X31. -/
def execCall (c : Ctl) (disp : BitVec 28) (s : State) : Host.Outcome State Fault Refusal :=
  .next (s.slot c (some 1) (fun k => .ok [.x 31 ⟨k.nextAt, false⟩ 1, .transfer (k.hdrAt + 4 * disp.signExtend 64)]))

/-- JMPR (R127). -/
def execJmpr (c : Ctl) (xd xa : Reg) (s : State) : Host.Outcome State Fault Refusal :=
  .next (s.slot c (some 1) (fun k =>
    orFault [syncFault [k.readX xa]] (.ok [.x xd ⟨k.nextAt, false⟩ 1, .transfer (k.readX xa).val])))

/-- The exit of a LOOP. -/
def Core.loopExit (k : Core) (disp : BitVec 18) : Word := k.hdrAt + 4 * disp.signExtend 64

/-- LOOP (R129): an exit that is no marked header is an illegal-bundle fault, whatever the guard (R69, Table 10). -/
def execLoop (c : Ctl) (n : Bool) (xa : Reg) (disp : BitVec 18) (s : State) : Host.Outcome State Fault Refusal :=
  let k0 := s.core s.cur
  if !k0.active.marked (k0.loopExit disp).toNat then .next (s.issue c.slot 2 (.early (fltAt 0x02 k0.hdrAt)))
  else .next (s.slot c (some 1) (fun k =>
    let exit := k.loopExit disp
    let cnt := (k.readX xa).val
    let le (on : Bool) : BitVec 33 := bitOf 1 on ++ (fld k.nextAt 2 16) ++ (fld exit 2 16)
    if k.csr.hm || exit.sle k.nextAt then .early (flt 0x01)
    else orFault [syncFault [k.readX xa]]
      (if cnt = 0 then .ok [.loopSet n cnt (le false), .transfer exit] else .ok [.loopSet n cnt (le true)])))

-- CSR access ----------------------------------------------------------------------------------------------------------

/-- The checks of a CSR write (R99, R132, R297): the value's poison, the address, a DOM value in handler mode. That poison comes before the
address is the model's choice (log 128). -/
def State.csrWriteCheck (s : State) (c : CoreId) (a : BitVec 12) (v : XW) : Option SlotFault :=
  match syncFault [v] with
  | some f => some f
  | none =>
    match s.csrFault c a with
    | some f => some f
    | none =>
      match domLevel a with
      | some l => if (s.core c).csr.hm && s.domRejected c l v.val then some ⟨0x01, 0, a.setWidth 64⟩ else none
      | none => none

/-- CSRR (R132, R133). -/
def execCsrr (c : Ctl) (xd : Reg) (a : BitVec 12) (s : State) : Host.Outcome State Fault Refusal :=
  .next (s.slot c (some 2) (fun _ => orFault [s.csrFault s.cur a] (.ok [.x xd ⟨(s.csrRead s.cur a).getD 0, false⟩ 2])))

/-- CSRW (R132). -/
def execCsrw (c : Ctl) (a : BitVec 12) (xa : Reg) (s : State) : Host.Outcome State Fault Refusal :=
  .next (s.slot c (some 1) (fun k => orFault [s.csrWriteCheck s.cur a (k.readX xa)] (.ok [.csr a (k.readX xa).val])))

/-- CSRX (R132): one indivisible exchange. -/
def execCsrx (c : Ctl) (xd : Reg) (a : BitVec 12) (xa : Reg) (s : State) : Host.Outcome State Fault Refusal :=
  .next (s.slot c (some 2) (fun k =>
    orFault [s.csrWriteCheck s.cur a (k.readX xa)]
      (.ok [.x xd ⟨(s.csrRead s.cur a).getD 0, false⟩ 2, .csr a (k.readX xa).val])))

end Sys2Proof.Machine
end

