-- ==== Sys2Proof/Machine/System.lean ====
section
/-! DEFINITION. System, synchronisation and task instructions (R235-R260) but for buffer phases. -/
namespace Sys2Proof.Machine
open Sys2Proof

-- Semaphores (R239-R242) ----------------------------------------------------------------------------------------------

/-- The addend of SEMADD (R240). -/
def semAddend (xa : Word) (imm : BitVec 6) : Int := ((xa + imm.signExtend 64).setWidth 32).toInt

/-- SEMADD (R240). -/
def execSemadd (c : Ctl) (n : BitVec 6) (xa : Reg) (imm : BitVec 6) (s : State) : Host.Outcome State Fault Refusal :=
  .next (s.slot c (some 1) (fun k =>
    orFault [syncFault [k.readX xa]] (.ok [.sem n (semAddend (k.readX xa).val imm)])))

/-- SEMWAIT (R241): it retires when its wait is satisfied (R70). -/
def execSemwait (c : Ctl) (n : BitVec 6) (xa : Reg) (dec chk : Bool) (s : State) : Host.Outcome State Fault Refusal :=
  .next (s.slot c (some 0) (fun k =>
    let t : BitVec 32 := (k.readX xa).val.setWidth 32
    if (k.sem n).val.ult t then .wait (.sem n t)
    else orFault [syncFault [k.readX xa],
                  if chk && (k.sem n).err != 0 then some (fltDetail 0x12 (n.setWidth 16)) else none]
      (.ok (if dec then [.sem n (-(t.toNat : Int))] else []))))

/-- SEMRD (R242). -/
def execSemrd (c : Ctl) (xd : Reg) (n : BitVec 6) (clr : Bool) (s : State) : Host.Outcome State Fault Refusal :=
  .next (s.slot c (some 2) (fun k =>
    .ok (.x xd ⟨(k.sem n).status ++ (k.sem n).val, false⟩ 2 :: (if clr then [.semClear n] else []))))

-- Fences (R243) -------------------------------------------------------------------------------------------------------

/-- FENCE (R243). -/
def execFence (c : Ctl) (mask : BitVec 16) (s : State) : Host.Outcome State Fault Refusal :=
  .next (s.slot c (some 1) (fun _ => .ok [.fence mask]))

/-- Whether commands of a masked class are still to complete, or matrix writes of class 0 to land (R243, R275). -/
def Core.classBusy (k : Core) (mask : BitVec 16) : Bool :=
  k.queue.any (fun q => mask.getLsbD q.cls.toNat)
    || (mask.getLsbD 0 && k.mxWrites [k.mxSpan] k.mx.otherDue)

/-- FENCE.wait (R243). -/
def execFenceWait (c : Ctl) (mask : BitVec 16) (s : State) : Host.Outcome State Fault Refusal :=
  .next (s.slot c (some 1) (fun k => if k.classBusy mask then .wait (.fence mask) else .ok [.fence mask]))

-- Berths (R244-R246) --------------------------------------------------------------------------------------------------

/-- LAND (R246): it retires when its wait is satisfied (R70). -/
def execLand (c : Ctl) (n : BitVec 5) (s : State) : Host.Outcome State Fault Refusal :=
  .next (s.slot c (some 0) (fun k =>
    if !(k.berth n).arm then .fault (fltDetail 0x0A (n.setWidth 16))
    else match k.checkBerth n with
      | .bad n => .fault (fltDetail 0x0A (n.setWidth 16))
      | .late n => .wait (.land n)
      | .pass ns => .ok [.passBerths ns]))

/-- BERTH arm (R244). -/
def execBerthArm (c : Ctl) (n : BitVec 5) (xa xb : Reg) (s : State) : Host.Outcome State Fault Refusal :=
  .next (s.slot c (some 1) (fun k =>
    let d := (k.readX xa).val
    orFault [syncFault [k.readX xa, k.readX xb],
             if 32 * ((fld d 0 14).toNat + (fld d 16 14).toNat + 1) > 0x80000
             then some (fltAt 0x05 (BitVec.ofNat 64 (32 * (fld d 0 14).toNat))) else none]
      (.ok [.berthArm n d ((k.readX xb).val.setWidth 16)])))

/-- BERTH tag (R244). -/
def execBerthTag (c : Ctl) (n : BitVec 5) (xb : Reg) (s : State) : Host.Outcome State Fault Refusal :=
  .next (s.slot c (some 1) (fun k =>
    orFault [syncFault [k.readX xb], if (k.berth n).arm then none else some (fltDetail 0x0A (n.setWidth 16))]
      (.ok [.berthTag n ((k.readX xb).val.setWidth 16)])))

/-- BERTH off (R244). -/
def execBerthOff (c : Ctl) (n : BitVec 5) (s : State) : Host.Outcome State Fault Refusal :=
  .next (s.slot c (some 1) (fun _ => .ok [.berthOff n]))

-- Time (R247, R248) ---------------------------------------------------------------------------------------------------

/-- TICK (R247). -/
def execTick (c : Ctl) (fn : TickFn) (xd : Reg) (s : State) : Host.Outcome State Fault Refusal :=
  .next (s.slot c (some 1) (fun k =>
    let v := match fn with | .tnow => s.tnow | .tcyc => k.csr.tcyc | .slip => k.csr.slip
    .ok [.x xd ⟨v, false⟩ 1]))

/-- The time WAITT waits for (R248): with REL counted from the first cycle the bundle could issue. -/
def State.waitTime (s : State) (k : Core) (rel : Bool) (xa : Word) : Word :=
  if rel then (k.looks [] s.tnow).at_ + xa else xa

/-- WAITT (R248): it retires when its wait is satisfied (R70). -/
def execWaitt (c : Ctl) (rel : Bool) (xa : Reg) (s : State) : Host.Outcome State Fault Refusal :=
  .next (s.slot c (some 0) (fun k =>
    let t := s.waitTime k rel (k.readX xa).val
    if s.tnow.ult t then .wait (.time t) else orFault [syncFault [k.readX xa]] (.ok [])))

-- Domains (R249, R250) ------------------------------------------------------------------------------------------------

/-- The fault of a level whose DOMl holds no domain (R250). -/
def Core.noDomain (k : Core) (l : Level) : Option SlotFault :=
  if domV (k.csr.domOf l) then none else some (fltAt 0x01 (0x020 + BitVec.ofNat 64 (l.ix.val + 1)))

/-- DOMARV (R249): one arrival, at the issue cycle. -/
def execDomarv (c : Ctl) (l : Level) (s : State) : Host.Outcome State Fault Refusal :=
  .next (s.slot c (some 1) (fun k => orFault [k.noDomain l] (.ok [.arrive (BitVec.ofNat 2 (l.ix.val + 1)) 0 []])))

/-- Whether DPHl is later than the last arrival, modulo 2^32 (R250). -/
def phaseLater (dph last : BitVec 32) : Bool := (last - dph).slt 0

/-- DOMWAIT (R250): it retires when its wait is satisfied (R70). -/
def execDomwait (c : Ctl) (l : Level) (s : State) : Host.Outcome State Fault Refusal :=
  .next (s.slot c (some 0) (fun k =>
    match k.lastArr[l.ix] with
    | some a => if domV (k.csr.domOf l) && !phaseLater (k.csr.dphOf l) a then .wait (.dom l) else orFault [k.noDomain l] (.ok [])
    | none => orFault [k.noDomain l] (.ok [])))

/-- CSRW of DOM1, DOM2 or DOM3 (R132, R250, R297). -/
def execDomWrite (c : Ctl) (l : Level) (xa : Reg) (s : State) : Host.Outcome State Fault Refusal :=
  let a : BitVec 12 := 0x021 + BitVec.ofNat 12 l.ix.val
  .next (s.slot c (some 1) (fun k => orFault [s.csrWriteCheck s.cur a (k.readX xa)] (.ok [.csr a (k.readX xa).val])))

-- Traps (R256-R259) ---------------------------------------------------------------------------------------------------

/-- TRAP (R257): the bundle completes, then the trap is taken. -/
def execTrap (c : Ctl) (code : BitVec 16) (s : State) : Host.Outcome State Fault Refusal :=
  .next (s.slot c (some 1) (fun _ => .ok [.trapAfter code]))

/-- ERET (R259). -/
def execEret (c : Ctl) (s : State) : Host.Outcome State Fault Refusal :=
  .next (s.slot c (some 1) (fun k => if k.csr.hm then .ok [.eret] else .fault (flt 0x03)))

/-- BRK (R257): the bundle has no effect and traps. -/
def execBrk (c : Ctl) (code : BitVec 16) (s : State) : Host.Outcome State Fault Refusal :=
  .next (s.slot c (some 1) (fun _ => .fault (fltDetail 0x10 code)))

-- Spawn and exit (R251, R252) -----------------------------------------------------------------------------------------

/-- Whether a spawn queue accepts this core's request now (R292): it has room, has accepted none in this cycle, and no request
has waited longer, nor as long from a lower core id. -/
def State.spawnGrant (s : State) (c target : CoreId) : Bool :=
  let t := s.core target
  let since (d : CoreId) : Option Nat :=
    (s.core d).freeze.bind (fun f => if f.wait == .spawn target then some f.cyc else none)
  let mine := (since c).getD s.clock.cycle
  decide (t.spawnq.length < 16) && t.spawnAt != some s.clock.cycle
    && allCores.all (fun d => d == c ||
      match since d with
      | none => true
      | some n => decide (mine < n) || (mine == n && c.ult d))

/-- SPAWN (R251). -/
def execSpawn (c : Ctl) (xd xa xb : Reg) (s : State) : Host.Outcome State Fault Refusal :=
  .next (s.slot c (some 1) (fun k =>
    let tw := (k.readX xa).val
    let target : CoreId := fld tw 0 11
    let w : BitVec 32 := (k.readX xd).val.setWidth 32
    if !s.spawnGrant s.cur target then .wait (.spawn target)
    else orFault [syncFault [k.readX xd, k.readX xa, k.readX xb],
                  if w = 0 || k.csr.weight.ult w then some (flt 0x0D) else none,
                  if !s.ownsCore k.part target then some (fltAt 0x07 tw) else none,
                  if fld tw 16 2 != 0#2 then some (fltAt 0x04 tw) else none]
      (.ok [.spawn target (fld tw 16 16) (k.readX xb).val w])))

/-- Whether commands of masked classes issued since a phase began are still to complete (R254). -/
def Core.phaseBusy (k : Core) (mask : BitVec 16) : Bool :=
  match k.phase with
  | none => false
  | some (_, since) => k.queue.any (fun q => mask.getLsbD q.cls.toNat && decide (q.id ≥ since))

/-- Whether EXIT may end the task (R189, R252): the array has landed and no gate request is pending, in handler mode as in task mode. -/
def Core.exitReady (k : Core) : Bool := k.mxLanded && !k.mx.gate.isPending

/-- EXIT (R252): it waits as MSYNC does. -/
def execExit (c : Ctl) (s : State) : Host.Outcome State Fault Refusal :=
  .next (s.slot c (some 1) (fun k =>
    if !k.exitReady then .wait .exit
    else if k.csr.pha then .fault (fltAt 0x01 0x0A0) else .ok [.exit]))

/-- The weight of ended tasks whose commands have all completed returns to the root (R252). -/
def execExitWeightAdd (core : CoreId) (s : State) : Host.Outcome State Fault Refusal := .next (s.returnWeights core)

-- Planes (R255) -------------------------------------------------------------------------------------------------------

/-- PLSWAP (R255). -/
def execPlswap (c : Ctl) (s : State) : Host.Outcome State Fault Refusal :=
  .next (s.slot c (some 1) (fun k =>
    if k.csr.hm then .fault (flt 0x03) else if k.shrdy then .ok [.swreq true] else .fault (flt 0x15)))

/-- PLSWAP cancel (R255). -/
def execPlswapCancel (c : Ctl) (s : State) : Host.Outcome State Fault Refusal :=
  .next (s.slot c (some 1) (fun k => if k.csr.hm then .fault (flt 0x03) else .ok [.swreq false]))

end Sys2Proof.Machine
end

