-- ==== Sys2Proof/Machine/Transcend.lean ====
section
/-! DEFINITION. The transcendental functions as real functions (R159): a dyadic approximation of each, closer to the exact value than
2^-64 of any error bound of R159 (log 10), and the test of a result against its bound. Every helper is exact integer arithmetic. -/
namespace Sys2Proof.Machine
open Sys2Proof

/-- A signed dyadic m·2^e. -/
structure Dy where
  m : Int
  e : Int
deriving DecidableEq, Repr

/-- floor(2^512 · π). -/
def piAt512 : Nat :=
  0x3243f6a8885a308d313198a2e03707344a4093822299f31d0082efa98ec4e6c89452821e638d01377be5466cf34e90c6cc0ac29b7c97c50dd3f84d5b5b5470917
/-- floor(2^320 · ln 2). -/
def ln2At320 : Nat := 0xb17217f7d1cf79abc9e3b39803f2f6af40f343267298b62d8a0d175b8baafa2be7b876206debac98

/-- The exponential series at r·2^-320, from the term `t` of index `k`. -/
def expSeries : Nat → Nat → Nat → Nat → Nat
  | 0, _, _, _ => 0
  | fuel + 1, r, k, t => if t = 0 then 0 else t + expSeries fuel r (k + 1) (t * r / (2 ^ 320 * (k + 1)))

/-- e^(y·2^-320) for an integer y below 2^330 in magnitude: mantissa in units of 2^-320, and exponent. -/
def expFixed (y : Int) : Nat × Int :=
  (expSeries 80 (y.fmod ln2At320).toNat 0 (2 ^ 320), y.fdiv ln2At320)

/-- (-1)^neg·m·2^e in units of 2^-p, toward zero. -/
def fixedAt (p : Nat) (neg : Bool) (m : Nat) (e : Int) : Int :=
  let x := (inUnits m e (-(p : Int))).1
  if neg then -(x : Int) else x

/-- e^(±m·2^e) as a dyadic; beyond 2^10 a value far outside every type stands for it. -/
def expDyadic (neg : Bool) (m : Nat) (e : Int) : Nat × Int :=
  if topExp m e ≥ 10 then (1, if neg then -2000 else 2000)
  else let x := expFixed (fixedAt 320 neg m e); (x.1, x.2 - 320)

/-- 2^(±m·2^e) as a dyadic; beyond 2^10 a value far outside every type stands for it. -/
def exp2Dyadic (neg : Bool) (m : Nat) (e : Int) : Nat × Int :=
  if topExp m e ≥ 10 then (1, if neg then -2000 else 2000)
  else
    let y := fixedAt 320 neg m e
    (expSeries 80 ((y.fmod (2 ^ 320)).toNat * ln2At320 / 2 ^ 320) 0 (2 ^ 320), y.fdiv (2 ^ 320) - 320)

/-- `n` binary digits of the logarithm of a mantissa of 384 fraction bits. -/
def log2Bits : Nat → Nat → Nat → Nat
  | 0, _, acc => acc
  | n + 1, y, acc =>
    let y2 := y * y / 2 ^ 384
    if y2 ≥ 2 ^ 385 then log2Bits n (y2 / 2) (2 * acc + 1) else log2Bits n y2 (2 * acc)

/-- log2(m·2^e) in units of 2^-192. -/
def log2At192 (m : Nat) (e : Int) : Int :=
  (log2Bits 192 (m * 2 ^ 384 / 2 ^ Nat.log2 m) 0 : Int) + topExp m e * 2 ^ 192

/-- The sine series at r·2^-512, r2 = r²·2^-512, from the term `t` of index `k`. -/
def sinSeries : Nat → Nat → Nat → Int → Int
  | 0, _, _, _ => 0
  | fuel + 1, r2, k, t =>
    if t = 0 then 0 else t + sinSeries fuel r2 (k + 2) (-(t * r2 / ((2 : Int) ^ 512 * ((k + 1) * (k + 2) : Nat))))

/-- sin(m·2^e), or cos(m·2^e) when `half`, in units of 2^-512. -/
def sinAt512 (half : Bool) (m : Nat) (e : Int) : Int :=
  let x := (inUnits m e (-512)).1 + (if half then piAt512 / 2 else 0)
  let r := x % piAt512
  let r := min r (piAt512 - r)
  let s := max 0 (min (2 ^ 512) (sinSeries 70 (r * r / 2 ^ 512) 1 r))
  if x / piAt512 % 2 = 1 then -s else s

/-- x + x³/3 + x⁵/15 + … at x in units of 2^-320, x2 = x²·2^-320. -/
def phiSeries : Nat → Nat → Nat → Nat → Nat
  | 0, _, _, _ => 0
  | fuel + 1, x2, k, t => if t = 0 then 0 else t + phiSeries fuel x2 (k + 2) (t * x2 / (2 ^ 320 * (k + 2)))

/-- Φ(±m·2^e) in units of 2^-320 for magnitudes below 16: one half more or less the density times the series. -/
def phiAt320 (neg : Bool) (m : Nat) (e : Int) : Nat :=
  let x := (inUnits m e (-320)).1
  let ex := expFixed (-((x * x / 2 ^ 321 : Nat) : Int))
  let inv := isqrt (2 ^ 1152 / (2 * piAt512))
  let tail := phiSeries 600 (x * x / 2 ^ 320) 1 x * ex.1 / 2 ^ 320 * inv / 2 ^ 320 / 2 ^ (-ex.2).toNat
  if neg then 2 ^ 319 - tail else 2 ^ 319 + tail

/-- The function's value at (-1)^neg·m·2^e, an argument of which R160 states no result. -/
def tApprox (fn : Config.TFun) (neg : Bool) (m : Nat) (e : Int) : Dy :=
  let signed (n : Bool) (x : Int) : Int := if n then -x else x
  match fn with
  | .rcp => ⟨signed neg (2 ^ 400 / m : Nat), -400 - e⟩
  | .rsq =>
    let (m, e) := if e % 2 = 0 then (m, e) else (2 * m, e - 1)
    ⟨isqrt (2 ^ 400 / m), -200 - e / 2⟩
  | .sqrt =>
    let (m, e) := if e % 2 = 0 then (m, e) else (2 * m, e - 1)
    ⟨isqrt (m * 2 ^ 400), e / 2 - 200⟩
  | .exp2 => let x := exp2Dyadic neg m e; ⟨x.1, x.2⟩
  | .exp => let x := expDyadic neg m e; ⟨x.1, x.2⟩
  | .log2 => ⟨log2At192 m e, -192⟩
  | .ln => ⟨log2At192 m e * ln2At320, -512⟩
  | .sin => ⟨signed neg (sinAt512 false m e), -512⟩
  | .cos => ⟨sinAt512 true m e, -512⟩
  | .tanh =>
    let x := expDyadic true m (e + 1)
    let t := (inUnits x.1 x.2 (-320)).1
    ⟨signed neg ((2 ^ 320 - t) * 2 ^ 320 / (2 ^ 320 + t) : Nat), -320⟩
  | .sigm =>
    let x := expDyadic true m e
    let t := (inUnits x.1 x.2 (-320)).1
    if neg then ⟨(x.1 * 2 ^ 320 / (2 ^ 320 + t) : Nat), x.2⟩ else ⟨(2 ^ 640 / (2 ^ 320 + t) : Nat), -320⟩
  | .gelu =>
    if topExp m e ≥ 4 then (if neg then ⟨-1, -200⟩ else ⟨m, e⟩)
    else ⟨signed neg (m * phiAt320 neg m e), e - 320⟩

/-- A dyadic as an exact value. -/
def Dy.val (d : Dy) : XVal := .fin (d.m < 0) d.m.natAbs d.e

/-- Where the exact value is `a`, the largest error R159 allows in a format: one unit in the last place, or in the fast grade the bound
of Table 10 where that is larger. `x` is the argument's magnitude. -/
def tBound (f : FFmt) (fn : Config.TFun) (acc : Bool) (x : Nat × Int) (a : Dy) : Nat × Int :=
  let top := topExp a.m.natAbs a.e
  let ulp : Nat × Int := (1, f.ulp top)
  let table : Nat × Int :=
    match fn with
    | .rcp | .rsq | .sqrt => (a.m.natAbs, a.e - 14)
    | .exp2 | .exp => (a.m.natAbs, a.e - 13)
    | .log2 | .ln | .tanh | .sigm => (1, -14)
    | .sin | .cos => (1, -13)
    | .gelu => if topExp x.1 x.2 ≥ 0 then (x.1, x.2 - 12) else (1, -12)
  if acc || dyCmp table.1 table.2 ulp.1 ulp.2 != .gt then ulp else table

/-- Whether two dyadics differ by at most (1 - 2^-64) of a bound: an error equal to the bound of R159 is not reached (log 157). -/
def dyNear (a c : Dy) (b : Nat × Int) : Bool :=
  let q := min a.e (min c.e (b.2 - 64))
  let at' (m e : Int) : Int := m * 2 ^ (e - q).toNat
  decide ((at' a.m a.e - at' c.m c.e).natAbs ≤ (at' (b.1 * (2 ^ 64 - 1)) (b.2 - 64)).natAbs)

/-- Whether bits of a format are a result R159 allows where the exact value is `a`; an infinity stands for the first power of two above
the format, and for everything beyond it. -/
def tAllowed (f : FFmt) (fn : Config.TFun) (acc : Bool) (x : Nat × Int) (a : Dy) (bits : Nat) : Bool :=
  let far := !acc && (fn == .sin || fn == .cos) && dyCmp x.1 x.2 1 16 == .gt
  match f.decode bits with
  | .fin n m e =>
    if far then dyCmp m e 1 0 != .gt else dyNear a ⟨if n then -(m : Int) else m, e⟩ (tBound f fn acc x a)
  | .inf n =>
    !far && (n == decide (a.m < 0)) &&
      (decide (topExp a.m.natAbs a.e ≥ f.bias + 1) || dyNear a ⟨if n then -1 else 1, f.bias + 1⟩ (tBound f fn acc x a))
  | _ => false

/-- FREE VALUE within its bound (log 10): the bits the part writes where R159 states an error bound only. They are the free bits where
these are within the bound, and else the result nearest the exact value, which always is. -/
def tWithin (f : FFmt) (fn : Config.TFun) (acc : Bool) (t : ETy) (x : Nat) (m : Nat) (e : Int) (a : Dy) : Nat :=
  let free := (Config.transcendental fn acc t (BitVec.ofNat 32 x)).toNat % 2 ^ f.width
  if tAllowed f fn acc (m, e) a free then free else (f.round .rne a.val).bits

end Sys2Proof.Machine
end

