-- ==== Sys2Proof/Machine/VecNum.lean ====
section
/-! DEFINITION. What the vector instructions compute on one element: float arithmetic with its flags (R139-R143), stochastic
rounding (R142), conversions (R154-R157), transcendentals (R159, R160) and bound clamping (R161). -/
namespace Sys2Proof.Machine
open Sys2Proof

-- Flags and modes (R139, R140) ----------------------------------------------------------------------------------------

/-- FPFLAGS bits (R140, Table 3). -/
def fNV : BitVec 7 := 0x01#7
/-- Division by zero. -/
def fDZ : BitVec 7 := 0x02#7
/-- Overflow. -/
def fOF : BitVec 7 := 0x04#7
/-- Underflow. -/
def fUF : BitVec 7 := 0x08#7
/-- Inexact. -/
def fNX : BitVec 7 := 0x10#7
/-- OSAT. -/
def fOSAT : BitVec 7 := 0x20#7
/-- OZERO. -/
def fOZERO : BitVec 7 := 0x40#7
/-- A flag when a condition holds. -/
def flagIf (b : Bool) (f : BitVec 7) : BitVec 7 := if b then f else 0
/-- The flags of a conversion's events. -/
def stickyFlags (s : Sticky) : BitVec 7 := flagIf s.osat fOSAT ||| flagIf s.ozero fOZERO

/-- An element result with the flags it raises. -/
structure ElRes where
  val : Nat
  fl : BitVec 7
deriving DecidableEq, Repr

/-- A result without flags. -/
def ElRes.pure (v : Nat) : ElRes := ⟨v, 0⟩

/-- FPMODE's parts (R139, Table 2). -/
def fpRm (m : BitVec 5) : RMode := match (m.extractLsb' 0 2).toNat with | 0 => .rne | 1 => .rz | 2 => .rup | _ => .rdn
/-- FTZ. -/
def fpFtz (m : BitVec 5) : Bool := m.getLsbD 2
/-- DAZ. -/
def fpDaz (m : BitVec 5) : Bool := m.getLsbD 3
/-- SR. -/
def fpSr (m : BitVec 5) : Bool := m.getLsbD 4

/-- The float format of an element type. -/
def floatFmt (t : ETy) : FFmt := match t with | .bf16 => bf16 | .f16 => fp16 | _ => fp32

/-- A float input under DAZ (R139), and the flag of a signalling NaN. -/
def fIn (f : FFmt) (daz : Bool) (x : Nat) : XVal × BitVec 7 :=
  (if daz && f.subnormal x then .fin (f.decode x).neg 0 0 else f.decode x, flagIf (f.snan x) fNV)

/-- FTZ (R139): a subnormal result becomes a zero of its sign, with UF and NX. -/
def ftzOut (f : FFmt) (ftz : Bool) (r : ElRes) : ElRes :=
  if ftz && f.subnormal r.val then ⟨f.zeroBits (f.decode r.val).neg, r.fl ||| fUF ||| fNX⟩ else r

/-- The flags of a rounding. -/
def roundFlags (r : Rounded) : BitVec 7 := flagIf r.nx fNX ||| flagIf r.uf fUF ||| flagIf r.of fOF

/-- One rounding (R141), before FTZ. -/
def fRound (f : FFmt) (rm : RMode) (v : XVal) : ElRes := let r := f.round rm v; ⟨r.bits, roundFlags r⟩

/-- An exact sum of two dyadic values, no NaN; the zero sum takes the sign IEEE 754 gives it. -/
def exactSum (rm : RMode) (a b : XVal) : XVal :=
  match a, b with
  | .fin n1 m1 e1, .fin n2 m2 e2 =>
    let e := min e1 e2
    let i1 : Int := (m1 * 2 ^ (e1 - e).toNat : Nat)
    let i2 : Int := (m2 * 2 ^ (e2 - e).toNat : Nat)
    let s := (if n1 then -i1 else i1) + (if n2 then -i2 else i2)
    if s = 0 then .fin (if n1 == n2 then n1 else rm == .rdn) 0 0 else .fin (s < 0) s.natAbs e
  | .inf n, _ => .inf n
  | _, v => v

/-- a + b with NaN and infinity (R141); an infinity less an infinity is invalid. -/
def fSum (rm : RMode) (a b : XVal) : XVal × BitVec 7 :=
  match a, b with
  | .nan, _ => (.nan, 0)
  | _, .nan => (.nan, 0)
  | .inf m, .inf n => if m == n then (.inf m, 0) else (.nan, fNV)
  | a, b => (exactSum rm a b, 0)

/-- The exact product; zero times an infinity is invalid. -/
def fProd (a b : XVal) : XVal × BitVec 7 :=
  match a, b with
  | .nan, _ => (.nan, 0)
  | _, .nan => (.nan, 0)
  | .inf m, v => if v.isZero then (.nan, fNV) else (.inf (m != v.neg), 0)
  | v, .inf m => if v.isZero then (.nan, fNV) else (.inf (m != v.neg), 0)
  | .fin n1 m1 e1, .fin n2 m2 e2 => (.fin (n1 != n2) (m1 * m2) (e1 + e2), 0)
  | _, _ => (.nan, 0)

/-- The value with its sign flipped. -/
def XVal.flip (v : XVal) : XVal := v.withSign (!v.neg)

/-- VADD, VSUB, VMUL on floats (R143). -/
def fAdd (f : FFmt) (md : BitVec 5) (sub : Bool) (x y : Nat) : ElRes :=
  let a := fIn f (fpDaz md) x
  let b := fIn f (fpDaz md) y
  let s := fSum (fpRm md) a.1 (if sub then b.1.flip else b.1)
  let r := fRound f (fpRm md) s.1
  ftzOut f (fpFtz md) ⟨r.val, r.fl ||| s.2 ||| a.2 ||| b.2⟩

/-- VMUL on floats. -/
def fMul (f : FFmt) (md : BitVec 5) (x y : Nat) : ElRes :=
  let a := fIn f (fpDaz md) x
  let b := fIn f (fpDaz md) y
  let p := fProd a.1 b.1
  let r := fRound f (fpRm md) p.1
  ftzOut f (fpFtz md) ⟨r.val, r.fl ||| p.2 ||| a.2 ||| b.2⟩

/-- VFMA, VFMS (R143): fused. Whether 0·∞ with a quiet NaN addend raises NV, IEEE 754 leaves open (log 16). -/
def fFma (f : FFmt) (md : BitVec 5) (sub : Bool) (d x y : Nat) : ElRes :=
  let c := fIn f (fpDaz md) d
  let a := fIn f (fpDaz md) x
  let b := fIn f (fpDaz md) y
  let p := fProd a.1 b.1
  let pf := if c.1 == .nan && !Config.fmaInvalidWithNan then 0 else p.2
  let s := fSum (fpRm md) c.1 (if sub then p.1.flip else p.1)
  let r := fRound f (fpRm md) s.1
  ftzOut f (fpFtz md) ⟨r.val, r.fl ||| s.2 ||| pf ||| a.2 ||| b.2 ||| c.2⟩

/-- Order of two values with -0 below +0. -/
def fBelow (a b : XVal) : Bool := a.lt b || (a.isZero && b.isZero && a.neg && !b.neg)

/-- IEEE minimum and maximum, and the Number forms (R143), of two inputs with their bits after DAZ. -/
def fPick (f : FFmt) (isMax num : Bool) (a b : XVal) (x y : Nat) : Nat :=
  if a == .nan && b == .nan then f.qnan
  else if a == .nan then (if num then y else f.qnan)
  else if b == .nan then (if num then x else f.qnan)
  else if isMax then (if fBelow a b then y else x) else (if fBelow b a then y else x)

/-- An input's bits after DAZ. -/
def dazBits (f : FFmt) (daz : Bool) (x : Nat) : Nat := if daz && f.subnormal x then f.zeroBits (f.decode x).neg else x

/-- VMIN, VMAX, VMINN, VMAXN on floats (R143). -/
def fMinMax (f : FFmt) (md : BitVec 5) (isMax num : Bool) (x y : Nat) : ElRes :=
  let a := fIn f (fpDaz md) x
  let b := fIn f (fpDaz md) y
  ⟨fPick f isMax num a.1 b.1 (dazBits f (fpDaz md) x) (dazBits f (fpDaz md) y), a.2 ||| b.2⟩

/-- VFMAX on floats (R143): the maximum of d and the rounded product; FTZ on the result. -/
def fMaxMul (f : FFmt) (md : BitVec 5) (d x y : Nat) : ElRes :=
  let c := fIn f (fpDaz md) d
  let a := fIn f (fpDaz md) x
  let b := fIn f (fpDaz md) y
  let p := fProd a.1 b.1
  let r := fRound f (fpRm md) p.1
  ftzOut f (fpFtz md)
    ⟨fPick f true false c.1 (f.decode r.val) (dazBits f (fpDaz md) d) r.val, r.fl ||| p.2 ||| a.2 ||| b.2 ||| c.2⟩

-- Integers ------------------------------------------------------------------------------------------------------------

/-- An element of `m` bits read as signed. -/
def sgn (m x : Nat) : Int := if x % 2 ^ m ≥ 2 ^ (m - 1) then (x % 2 ^ m : Int) - 2 ^ m else (x % 2 ^ m : Int)
/-- An integer modulo 2^m. -/
def wrap (m : Nat) (i : Int) : Nat := (i % (2 ^ m : Int)).toNat
/-- Clamps to the signed range of `m` bits; OSAT when it changes the value. -/
def satS (m : Nat) (i : Int) : ElRes :=
  let c := clampInt (-(2 ^ (m - 1) : Int)) (2 ^ (m - 1) - 1) i
  ⟨wrap m c.1, flagIf c.2 fOSAT⟩
/-- Clamps to the unsigned range of `m` bits. -/
def satU (m : Nat) (i : Nat) : ElRes := if i > 2 ^ m - 1 then ⟨2 ^ m - 1, fOSAT⟩ else .pure i

-- LGM16 lanes ---------------------------------------------------------------------------------------------------------

/-- A pair of an LGM16 result and its events as an element result. -/
def lgmRes (r : BitVec 16 × Sticky) : ElRes := ⟨r.1.toNat, stickyFlags r.2⟩
/-- Minimum or maximum by value; NaR if either is (R143). -/
def lgmPick (isMax : Bool) (a b : BitVec 16) : BitVec 16 :=
  if isLgmNar a || isLgmNar b then lgmNar else if isMax then (if lgmLe b a then a else b) else (if lgmLe a b then a else b)

-- Stochastic rounding (R142) ------------------------------------------------------------------------------------------

/-- Rounds a non-zero dyadic magnitude to a float with a draw (R142), before FTZ: up when the draw is below floor(d·2^32);
beyond the largest finite value as nearest even does. -/
def srFloat (f : FFmt) (neg : Bool) (m : Nat) (e : Int) (r : BitVec 32) : ElRes :=
  let q := f.ulp (topExp m e)
  let (n, rem, d) := inUnits m e q
  if rem = 0 then fRound f .rne (.fin neg m e)
  else
    let up := r.toNat < rem * 2 ^ 32 / d
    let top := f.pack neg (n + 1) q
    if top.2 then fRound f .rne (.fin neg m e)
    else
      let dir : RMode := if up then (if neg then .rdn else .rup) else .rz
      ⟨if up then top.1 else (f.pack neg n q).1, fNX ||| flagIf (f.tiny dir neg m e) fUF⟩

/-- Rounds a value to a float, stochastically when a draw is given. -/
def fConv (f : FFmt) (rm : RMode) (draw : Option (BitVec 32)) (v : XVal) : ElRes :=
  match draw, v with
  | some r, .fin neg m e => if m = 0 then fRound f rm v else srFloat f neg m e r
  | _, v => fRound f rm v

-- Conversions (R154, R155) --------------------------------------------------------------------------------------------

/-- VCVT of one element (R154). A float clamped to the integer range sets NV and no OSAT (log 134). -/
def cvtEl (md : BitVec 5) (src dst : ETy) (draw : Option (BitVec 32)) (x : Nat) : ElRes :=
  let ws := 8 * src.bytes
  let wd := 8 * dst.bytes
  if src.isInt then
    let i := sgn ws x
    if dst.isInt then satS wd i
    else fConv (floatFmt dst) (fpRm md) draw (.fin (i < 0) i.natAbs 0) |> ftzOut (floatFmt dst) (fpFtz md)
  else
    let a := fIn (floatFmt src) (fpDaz md) x
    if dst.isInt then
      match a.1 with
      | .nan => ⟨0, fNV⟩
      | .inf n => ⟨if n then 2 ^ (wd - 1) else 2 ^ (wd - 1) - 1, fNV⟩
      | v =>
        let c := clampInt (-(2 ^ (wd - 1) : Int)) (2 ^ (wd - 1) - 1) (roundInt (fpRm md) v)
        ⟨wrap wd c.1, flagIf c.2 fNV⟩
    else
      let r := ftzOut (floatFmt dst) (fpFtz md) (fConv (floatFmt dst) (fpRm md) draw a.1)
      ⟨r.val, r.fl ||| a.2⟩

/-- VF2L of one element (R155): log2|x| - S to an LGM16 field, nearest even or with a draw in steps of the field (R142). Above
the largest field the draw decides between it and the clamp with OSAT; below the smallest it decides at the step from field 0 to field 1, and what
stays below is zero with OZERO (log 135). -/
def f2lEl (f : FFmt) (md : BitVec 5) (s : Int) (draw : Option (BitVec 32)) (x : Nat) : ElRes :=
  let a := fIn f (fpDaz md) x
  match a.1 with
  | .nan => ⟨0x8000, a.2⟩
  | .inf _ => ⟨0x8000, 0⟩
  | .fin _ 0 _ => ⟨0, 0⟩
  | v =>
    match draw, v with
    | some r, .fin neg m e =>
      let t := floorLog2At42 m
      let fl : Int := 16384 + (t / 2 ^ 32 : Nat) + 1024 * (e - s)
      let exact := m == 2 ^ Nat.log2 m
      let l := if !exact && r.toNat < t % 2 ^ 32 then fl + 1 else fl
      if l > 32767 then ⟨(if neg then 32768 else 0) + 32767, fOSAT⟩
      else if l < 1 then ⟨0, fOZERO⟩ else ⟨(if neg then 32768 else 0) + l.toNat, 0⟩
    | _, v => let r := roundLog v s 16 10; ⟨r.1, stickyFlags r.2⟩

/-- VL2F of one element (R155). It raises the flags of the rounding, and none of the stickies of R53 (log 156). -/
def l2fEl (f : FFmt) (md : BitVec 5) (s : Int) (x : Nat) : ElRes :=
  match lgmValue (BitVec.ofNat 16 x) s with
  | .nan => .pure f.qnan
  | .fin _ _ _ => .pure 0
  | v => ftzOut f (fpFtz md) (fRound f .rne v)

-- Block quantisation (R156, R157) -------------------------------------------------------------------------------------

/-- A source element of VQNT: its value, or the special it is. -/
def qntIn (t : ETy) (md : BitVec 5) (x : Nat) : XVal × BitVec 7 :=
  if t == .lgm then (lgmValue (BitVec.ofNat 16 x) 0, 0) else fIn (floatFmt t) (fpDaz md) x

/-- Whether an MX format has no encoding for NaN or infinity (R156). -/
def mxPlain (f : Nat) : Bool := f == 6 || f == 7 || f == 8 || f == 0x0B

/-- One element of a block relative to its scale (R156). A NaN or NaR gives the NaN encoding without a sign, an infinity the one of its sign (log
136). -/
def qntEl (f : Nat) (s : Int) (v : XVal) : Nat × Sticky :=
  if f ≤ 5 then
    let p := logParams f
    match v with
    | .nan => (2 ^ (p.1 - 1), .none)
    | .inf _ => (2 ^ (p.1 - 1), .none)
    | .fin _ 0 _ => (0, .none)
    | v => roundLog v s p.1 p.2
  else if f = 0x0B then mxInt8 v s
  else
    match f, v with
    | 9, .nan => (0x7F, .none)
    | 9, .inf n => (if n then 0xFF else 0x7F, .none)
    | 10, .nan => (0x7F, .none)
    | 10, .inf n => (if n then 0xFC else 0x7C, .none)
    | _, v => mxRound f v s

/-- A quantised block (R156): elements, scale byte, events. -/
def qntBlock (f : Nat) (vs : List XVal) : List Nat × Nat × Sticky :=
  let special := vs.any (fun v => match v with | .nan => true | .inf _ => true | _ => false)
  if mxPlain f && special then (List.replicate vs.length 0, 0xFF, .none)
  else
    let x := blockScale vs (if f ≤ 5 then 0 else mxEmax f)
    let es := vs.map (qntEl f ((x : Int) - 127))
    (es.map (·.1), x, es.foldl (fun a e => a.or e.2) .none)

/-- Elements of `b` bits packed little-endian into bytes (R36, R59, R60). -/
def packBits (b : Nat) (es : List Nat) : List Byte :=
  bytesOf (es.foldr (fun e acc => e + 2 ^ b * acc) 0) (b * es.length / 8)

/-- The exact value of an element of a block (R35, R37, R43). -/
def dqntVal (f x bx : Nat) : XVal :=
  if bx = 0xFF then .nan
  else if f ≤ 5 then let p := logParams f; logValue x p.1 p.2 ((bx : Int) - 127)
  else linearValue f x bx

/-- VDQNT of one element (R157). To a float it raises the flags of the rounding, and none of the stickies of R53 (log 156). -/
def dqntEl (t : ETy) (v : XVal) : ElRes :=
  if t == .lgm then
    match v with
    | .nan => .pure 0x8000
    | .inf _ => .pure 0x8000
    | .fin _ 0 _ => .pure 0
    | v => let r := roundLog v 0 16 10; ⟨r.1, stickyFlags r.2⟩
  else fRound (floatFmt t) .rne v

-- Transcendentals (R159, R160) ----------------------------------------------------------------------------------------

/-- A result given by Table 11: its value and flag. -/
def tSpecial (fn : Config.TFun) (v : XVal) : Option (XVal × BitVec 7) :=
  let zero (n : Bool) : XVal := .fin n 0 0
  let one (n : Bool) : XVal := .fin n 1 0
  match fn, v with
  | .rcp, .inf n => some (zero n, 0)
  | .rcp, .fin n 0 _ => some (.inf n, fDZ)
  | .rsq, .inf n => some (if n then (.nan, fNV) else (zero false, 0))
  | .rsq, .fin n 0 _ => some (.inf n, fDZ)
  | .rsq, .fin true _ _ => some (.nan, fNV)
  | .sqrt, .inf n => some (if n then (.nan, fNV) else (.inf false, 0))
  | .sqrt, .fin n 0 _ => some (zero n, 0)
  | .sqrt, .fin true _ _ => some (.nan, fNV)
  | .exp2, .inf n => some (if n then zero false else .inf false, 0)
  | .exp2, .fin _ 0 _ => some (one false, 0)
  | .exp, .inf n => some (if n then zero false else .inf false, 0)
  | .exp, .fin _ 0 _ => some (one false, 0)
  | .log2, .inf n => some (if n then (.nan, fNV) else (.inf false, 0))
  | .log2, .fin _ 0 _ => some (.inf true, fDZ)
  | .log2, .fin true _ _ => some (.nan, fNV)
  | .ln, .inf n => some (if n then (.nan, fNV) else (.inf false, 0))
  | .ln, .fin _ 0 _ => some (.inf true, fDZ)
  | .ln, .fin true _ _ => some (.nan, fNV)
  | .sin, .inf _ => some (.nan, fNV)
  | .sin, .fin n 0 _ => some (zero n, 0)
  | .cos, .inf _ => some (.nan, fNV)
  | .cos, .fin _ 0 _ => some (one false, 0)
  | .tanh, .inf n => some (one n, 0)
  | .tanh, .fin n 0 _ => some (zero n, 0)
  | .sigm, .inf n => some (if n then zero false else one false, 0)
  | .sigm, .fin _ 0 _ => some (.fin false 1 (-1), 0)
  | .gelu, .inf n => some (if n then zero true else .inf false, 0)
  | .gelu, .fin n 0 _ => some (zero n, 0)
  | _, _ => none

/-- The exact result where it is a dyadic number R159 names (a power of two, an integer logarithm). -/
def tExact (fn : Config.TFun) (m : Nat) (e : Int) (neg : Bool) : Option XVal :=
  let b := Nat.log2 m
  let pow := m == 2 ^ b
  let t : Int := b + e
  match fn with
  | .rcp => if pow then some (.fin neg 1 (-t)) else none
  | .rsq => if pow && t % 2 == 0 then some (.fin false 1 (-(t / 2))) else none
  | .sqrt => if pow && t % 2 == 0 then some (.fin false 1 (t / 2)) else none
  | .exp2 =>
    let i := roundMag .rz false m e
    if i.2 || i.1 ≥ 2 ^ 16 then none else some (.fin false 1 (if neg then -(i.1 : Int) else i.1))
  | .log2 => if pow then some (.fin (t < 0) t.natAbs 0) else none
  | _ => none

/-- Whether R159 makes that exact result the written one: always for a logarithm, a root or a reciprocal root; for VEXP2 and
VRCP where it is normal. -/
def tExactBinds (f : FFmt) (fn : Config.TFun) (v : XVal) : Bool :=
  match fn, v with
  | .exp2, .fin _ _ e => decide (f.emin ≤ e) && decide (e ≤ f.bias)
  | .rcp, .fin _ _ e => decide (f.emin ≤ e) && decide (e ≤ f.bias)
  | _, _ => true

/-- floor(2^256 · ln 2) and floor(2^256 · π). -/
def ln2At256 : Nat := 0xB17217F7D1CF79ABC9E3B39803F2F6AF40F343267298B62D8A0D175B8BAAFA2B
/-- floor(2^256 · π). -/
def piAt256 : Nat := 0x3243F6A8885A308D313198A2E03707344A4093822299F31D0082EFA98EC4E6C89

/-- |m·2^e| < c·2^-256, for a constant of 256 fraction bits. -/
def belowConst (m : Nat) (e : Int) (c : Nat) : Bool := dyCmp m e c (-256) == .lt

/-- Distance, in units of 2^-256, of a magnitude below 2^20 from the nearest multiple of π, or from the nearest odd multiple of
π/2. -/
def piDistance (m : Nat) (e : Int) (half : Bool) : Nat :=
  let x := (inUnits m e (-256)).1
  let y := if half then x + piAt256 / 2 else x
  let r := y % piAt256
  min r (piAt256 - r)

/-- Whether the exact non-zero result lies below the least normal magnitude of the type (R159), decided from the argument. The
constants of VGELU are the type's least argument, in units of its last place, whose result is that small. -/
def tTiny (f : FFmt) (fn : Config.TFun) (neg : Bool) (m : Nat) (e : Int) : Bool :=
  let le (k : Int) : Bool := dyCmp m e 1 k != .gt
  let sinTiny (half : Bool) : Bool :=
    if f.eb = 5 then decide (topExp m e < 20) && decide (piDistance m e half < 2 ^ 242 + 2 ^ 213) else !half && le f.emin
  match fn with
  | .rcp => dyCmp m e 1 (-f.emin) == .gt
  | .exp2 => neg && dyCmp m e (-f.emin).toNat 0 == .gt
  | .exp => neg && !belowConst m e ((-f.emin).toNat * ln2At256)
  | .sigm => neg && !belowConst m e ((-f.emin).toNat * ln2At256)
  | .sin => sinTiny false
  | .cos => sinTiny true
  | .tanh => le f.emin
  | .gelu =>
    if neg then
      le (f.emin + 1) || dyCmp m e (if f.eb = 5 then 4382720 else if f.mb = 7 then 13828096 else 13784839) (-20) != .lt
    else dyCmp m e 1 (f.emin + 1) == .lt
  | _ => false

/-- √(m·2^e) as a dyadic that rounds like it to any format of the part. -/
def sqrtVal (m : Nat) (e : Int) : XVal :=
  let s : Nat := if e % 2 = 0 then 80 else 81
  let n := m * 2 ^ s
  let r := isqrt n
  .fin false (2 * r + (if r * r = n then 0 else 1)) ((e - s) / 2 - 1)

/-- A transcendental of one element (R159, R160). Where only an error bound is given, the written bits are a free value of the
operand within the bound (log 10). -/
def tEl (fn : Config.TFun) (t : ETy) (acc : Bool) (x : Nat) : ElRes :=
  let f := floatFmt t
  let v := if !acc && f.subnormal x then .fin (f.decode x).neg 0 0 else f.decode x
  if v == .nan then ⟨f.qnan, flagIf (f.snan x) fNV⟩
  else
    match tSpecial fn v with
    | some (r, fl) => ⟨(f.round .rne r).bits, fl⟩
    | none =>
      match v with
      | .fin neg m e =>
        let ex := tExact fn m e neg
        let within (a : Dy) : Nat := tWithin f fn acc t x m e a
        let raw :=
          match ex with
          | some r =>
            if tExactBinds f fn r then (f.round .rne r).bits
            else if !acc && decide (floorLog2 r < f.emin) then f.zeroBits r.neg
            else within ⟨if r.neg then -1 else 1, floorLog2 r⟩
          | none => if fn == .sqrt && acc then (f.round .rne (sqrtVal m e)).bits else within (tApprox fn neg m e)
        let tiny := match ex with
          | some (.fin _ p q) => decide (p ≠ 0) && decide (topExp p q < f.emin)
          | _ => tTiny f fn neg m e
        let out := if !acc && f.subnormal raw then f.zeroBits (f.decode raw).neg else raw
        let differs := match ex with | some r => f.decode out != f.decode (f.round .rne r).bits || (f.round .rne r).nx | none => true
        ⟨out, flagIf (f.decode out == .inf false || f.decode out == .inf true) fOF ||| flagIf (tiny && differs) fUF⟩
      | _ => ⟨f.qnan, 0⟩

-- Bounds (R161) -------------------------------------------------------------------------------------------------------

/-- The LGM16 value nearest v on the far side: the least not below v when `up`, the greatest not above it otherwise; the extreme
value where there is none (R161). -/
def lgmToward (up : Bool) (v : XVal) : Nat :=
  let sign (n : Bool) : Nat := if n then 32768 else 0
  match v with
  | .fin neg m e =>
    if m = 0 then 0
    else
      let t := floorLog2At42 m / 2 ^ 32
      let fl : Int := 16384 + (t : Nat) + 1024 * e
      let l := if up != neg && m != 2 ^ Nat.log2 m then fl + 1 else fl
      if l > 32767 then sign neg + 32767 else if l < 1 then (if up != neg then sign neg + 1 else 0) else sign neg + l.toNat
  | .inf neg => sign neg + 32767
  | _ => 0

/-- The least value of a type not below v, else the type's extreme value (R161). -/
def leastAbove (t : ETy) (v : XVal) : Nat :=
  match t with
  | .i32 =>
    match v with
    | .inf n => if n then 0x80000000 else 0x7FFFFFFF
    | v => wrap 32 (clampInt (-2147483648) 2147483647 (roundInt .rup v)).1
  | .lgm => lgmToward true v
  | t => ((floatFmt t).round .rup v).bits

/-- The greatest value of a type not above v, else the type's extreme value (R161). -/
def greatestBelow (t : ETy) (v : XVal) : Nat :=
  match t with
  | .i32 =>
    match v with
    | .inf n => if n then 0x80000000 else 0x7FFFFFFF
    | v => wrap 32 (clampInt (-2147483648) 2147483647 (roundInt .rdn v)).1
  | .lgm => lgmToward false v
  | t => ((floatFmt t).round .rdn v).bits

/-- The exact value of an element of a VCLMP type. -/
def clmpVal (t : ETy) (x : Nat) : XVal :=
  match t with
  | .i32 => let i := sgn 32 x; .fin (i < 0) i.natAbs 0
  | .lgm => lgmValue (BitVec.ofNat 16 x) 0
  | t => (floatFmt t).decode x

/-- Whether an element is out of the range of a bound register (R161). -/
def outOfRange (b : Word) (t : ETy) (x : Nat) (poison : Bool) : Bool :=
  let v := clmpVal t x
  poison || v == .nan || bndLo b == .nan || bndHi b == .nan || v.lt (bndLo b) || (bndHi b).lt v

/-- What clamping writes (R161). No value of the type reaches a NaN lo, so L is then its extreme value, the greatest (log 17). -/
def clampEl (b : Word) (t : ETy) (x : Nat) (poison : Bool) : Nat :=
  let v := clmpVal t x
  if poison || v == .nan || (bndLo b != .nan && v.lt (bndLo b)) then leastAbove t (if bndLo b == .nan then .inf false else bndLo b)
  else if bndHi b != .nan && (bndHi b).lt v then greatestBelow t (bndHi b) else x

end Sys2Proof.Machine
end

