-- ==== Sys2Proof/Machine/Vector.lean ====
section
/-! DEFINITION. The vector instructions on registers (R134-R161, R166-R168). -/
namespace Sys2Proof.Machine
open Sys2Proof

-- Slices, elements and merging (R134-R136) ----------------------------------------------------------------------------

/-- First byte and size of a slice (R134). -/
def sliceOf (sl : Slice) : Nat × Nat :=
  match sl with | .full => (0, 128) | .h0 => (0, 64) | .h2 => (64, 64) | .q n => (32 * n.toNat, 32)

/-- The element of `e` bytes at byte `off` of a register. -/
def vElem (v : BitVec 1024) (off e : Nat) : Nat := (v.toNat >>> (8 * off)) % 2 ^ (8 * e)

/-- Bytes an instruction writes into its destination: offset, size, value, poison. -/
structure VW where
  off : Nat
  size : Nat
  val : Nat
  poison : Bool
deriving DecidableEq, Repr

/-- A granule with one write merged in. -/
def VW.into (w : VW) (g : Word) : Word :=
  let sh := 8 * (w.off % 8)
  let m : Word := BitVec.ofNat 64 (2 ^ (8 * w.size) - 1) <<< sh
  (g &&& ~~~ m) ||| ((BitVec.ofNat 64 w.val <<< sh) &&& m)

/-- The granules written (R135, R136): each with its kept bytes as at issue, and its poison. -/
def vGranules (old : BitVec 1024) (oldp : BitVec 16) (ws : List VW) : List (Nat × Word × Bool) :=
  (List.range 16).filterMap fun g =>
    match ws.filter (fun w => w.off / 8 == g) with
    | [] => none
    | mine =>
      let v := mine.foldl (fun acc w => w.into acc) (BitVec.ofNat 64 (vElem old (8 * g) 8))
      let kept := decide ((mine.map (·.size)).foldl (· + ·) 0 < 8)
      some (g, v, mine.any (·.poison) || (kept && oldp.getLsbD g))

/-- The poison of the register granule that holds a byte. -/
def Core.poisonAt (k : Core) (n : Reg) (off : Nat) : Bool := (k.poisonV n).getLsbD (off / 8)
/-- The poison of any register granule of a run of bytes. -/
def Core.poisonIn (k : Core) (n : Reg) (off len : Nat) : Bool :=
  (List.range 16).any (fun g => (k.poisonV n).getLsbD g && decide (8 * g < off + len) && decide (off < 8 * g + 8))

/-- Executes a vector slot (R137, R260, R135): a handler needs HVX, and a poisoned mask faults. -/
def State.vslot (s : State) (c : Ctl) (k : BitVec 3) (bound : Nat) (out : Core → SlotOut) : State :=
  s.slot c (some bound) (fun co =>
    orFault [if co.csr.hm && !co.csr.hvx then some (flt 0x03) else none, if co.poisonK k then some (flt 0x08) else none] (out co))

/-- Enabled elements of a slice (R134, R17). -/
def Core.enabled (k : Core) (mask : BitVec 3) (b0 n e : Nat) : List Nat := (List.range n).filter (fun j => (k.readK mask).getLsbD (b0 + j * e))

/-- The write of a destination register and the flags raised (R135, R140). -/
def Core.vResult (k : Core) (vd : Reg) (ws : List VW) (fl : BitVec 7) (bound : Nat) : List Action :=
  .v vd (vGranules (k.readV vd) (k.poisonV vd) ws) bound :: (if fl = 0 then [] else [.flags fl])

/-- An instruction that gives each enabled element a result (R134-R136); `f` takes the element's byte offset. -/
def Core.vMap (k : Core) (o : V3) (bound : Nat) (f : Nat → ElRes × Bool) : SlotOut :=
  let e := o.ty.bytes
  let (b0, s) := sliceOf o.sl
  let rs := (k.enabled o.k b0 (s / e) e).map (fun j => (b0 + j * e, f (b0 + j * e)))
  .ok (k.vResult o.vd (rs.map (fun r => ⟨r.1, e, r.2.1.val, r.2.2⟩)) (rs.foldl (fun a r => a ||| r.2.1.fl) 0) bound)

/-- One-operand element-wise form. -/
def Core.vMap1 (k : Core) (o : V3) (bound : Nat) (f : Nat → ElRes) : SlotOut :=
  k.vMap o bound (fun off => (f (vElem (k.readV o.va) off o.ty.bytes), k.poisonAt o.va off))

/-- Two-operand element-wise form. -/
def Core.vMap2 (k : Core) (o : V3) (bound : Nat) (f : Nat → Nat → ElRes) : SlotOut :=
  k.vMap o bound (fun off =>
    (f (vElem (k.readV o.va) off o.ty.bytes) (vElem (k.readV o.vb) off o.ty.bytes), k.poisonAt o.va off || k.poisonAt o.vb off))

/-- Three-operand form that reads vd (R146). -/
def Core.vMap3 (k : Core) (o : V3) (bound : Nat) (f : Nat → Nat → Nat → ElRes) : SlotOut :=
  k.vMap o bound (fun off =>
    (f (vElem (k.readV o.vd) off o.ty.bytes) (vElem (k.readV o.va) off o.ty.bytes) (vElem (k.readV o.vb) off o.ty.bytes),
     k.poisonAt o.vd off || k.poisonAt o.va off || k.poisonAt o.vb off))

/-- A bound by type class: integer, float, lgm (R138, Table 1). -/
def byClass (t : ETy) (i f g : Nat) : Nat := if t.isInt then i else if t == .lgm then g else f

-- Element-wise arithmetic (R143-R146) ---------------------------------------------------------------------------------

/-- VADD and VSUB on an element of any class. -/
def addEl (t : ETy) (md : BitVec 5) (sub : Bool) (a b : Nat) : ElRes :=
  let m := 8 * t.bytes
  if t.isInt then .pure (if sub then wrap m ((a : Int) - b) else (a + b) % 2 ^ m)
  else if t == .lgm then lgmRes (lgmAdd (BitVec.ofNat 16 a) (BitVec.ofNat 16 b) sub)
  else fAdd (floatFmt t) md sub a b

/-- VMUL on an element. -/
def mulEl (t : ETy) (md : BitVec 5) (a b : Nat) : ElRes :=
  if t.isInt then .pure (a * b % 2 ^ (8 * t.bytes))
  else if t == .lgm then lgmRes (lgmMul (BitVec.ofNat 16 a) (BitVec.ofNat 16 b))
  else fMul (floatFmt t) md a b

/-- VMIN, VMAX, and VMINN, VMAXN when `n`. -/
def minMaxEl (t : ETy) (md : BitVec 5) (isMax n : Bool) (a b : Nat) : ElRes :=
  let m := 8 * t.bytes
  if t.isInt then
    let lt := if n then decide (a < b) else decide (sgn m a < sgn m b)
    .pure (if isMax then (if lt then b else a) else (if lt then a else b))
  else if t == .lgm then .pure (lgmPick isMax (BitVec.ofNat 16 a) (BitVec.ofNat 16 b)).toNat
  else fMinMax (floatFmt t) md isMax n a b

/-- VABS and VNEG. -/
def absNegEl (t : ETy) (neg : Bool) (a : Nat) : ElRes :=
  let m := 8 * t.bytes
  if t.isInt then .pure (wrap m (if neg then -(sgn m a) else (sgn m a).natAbs))
  else if t == .lgm && a % 32768 == 0 then .pure a
  else .pure (if neg then (if a ≥ 2 ^ (m - 1) then a - 2 ^ (m - 1) else a + 2 ^ (m - 1)) else a % 2 ^ (m - 1))

/-- A shift by an amount below the width, or the whole width out (R145). -/
def shlEl (m a n : Nat) : Nat := if n ≥ m then 0 else a * 2 ^ n % 2 ^ m
/-- Logical right shift. -/
def shrEl (m a n : Nat) : Nat := if n ≥ m then 0 else a / 2 ^ n
/-- Arithmetic right shift. -/
def sarEl (m a n : Nat) : Nat := wrap m ((sgn m a).fdiv (2 ^ (min n (m - 1)) : Nat))

/-- VADD (R143). -/
def execVadd (o : V3) (s : State) : Host.Outcome State Fault Refusal :=
  .next (s.vslot o.ctl o.k (byClass o.ty 2 4 6) (fun k => k.vMap2 o (byClass o.ty 2 4 6) (addEl o.ty k.csr.fpmode false)))

/-- VSUB (R143). -/
def execVsub (o : V3) (s : State) : Host.Outcome State Fault Refusal :=
  .next (s.vslot o.ctl o.k (byClass o.ty 2 4 6) (fun k => k.vMap2 o (byClass o.ty 2 4 6) (addEl o.ty k.csr.fpmode true)))

/-- VMUL (R143). -/
def execVmul (o : V3) (s : State) : Host.Outcome State Fault Refusal :=
  .next (s.vslot o.ctl o.k (byClass o.ty 4 4 2) (fun k => k.vMap2 o (byClass o.ty 4 4 2) (mulEl o.ty k.csr.fpmode)))

/-- VFMA (R143). -/
def execVfma (o : V3) (s : State) : Host.Outcome State Fault Refusal :=
  .next (s.vslot o.ctl o.k 5 (fun k => k.vMap3 o 5 (fFma (floatFmt o.ty) k.csr.fpmode false)))

/-- VFMS (R143). -/
def execVfms (o : V3) (s : State) : Host.Outcome State Fault Refusal :=
  .next (s.vslot o.ctl o.k 5 (fun k => k.vMap3 o 5 (fFma (floatFmt o.ty) k.csr.fpmode true)))

/-- VMIN (R143). -/
def execVmin (o : V3) (s : State) : Host.Outcome State Fault Refusal :=
  .next (s.vslot o.ctl o.k 2 (fun k => k.vMap2 o 2 (minMaxEl o.ty k.csr.fpmode false false)))

/-- VMAX (R143). -/
def execVmax (o : V3) (s : State) : Host.Outcome State Fault Refusal :=
  .next (s.vslot o.ctl o.k 2 (fun k => k.vMap2 o 2 (minMaxEl o.ty k.csr.fpmode true false)))

/-- VMINN (R143). -/
def execVminn (o : V3) (s : State) : Host.Outcome State Fault Refusal :=
  .next (s.vslot o.ctl o.k 2 (fun k => k.vMap2 o 2 (minMaxEl o.ty k.csr.fpmode false true)))

/-- VMAXN (R143). -/
def execVmaxn (o : V3) (s : State) : Host.Outcome State Fault Refusal :=
  .next (s.vslot o.ctl o.k 2 (fun k => k.vMap2 o 2 (minMaxEl o.ty k.csr.fpmode true true)))

/-- VABS (R143). -/
def execVabs (o : V3) (s : State) : Host.Outcome State Fault Refusal :=
  .next (s.vslot o.ctl o.k 2 (fun k => k.vMap1 o 2 (absNegEl o.ty false)))

/-- VNEG (R143). -/
def execVneg (o : V3) (s : State) : Host.Outcome State Fault Refusal :=
  .next (s.vslot o.ctl o.k 2 (fun k => k.vMap1 o 2 (absNegEl o.ty true)))

/-- VADDS (R143). -/
def execVadds (o : V3) (s : State) : Host.Outcome State Fault Refusal :=
  .next (s.vslot o.ctl o.k 2 (fun k => k.vMap2 o 2 (fun a b => satS (8 * o.ty.bytes) (sgn (8 * o.ty.bytes) a + sgn (8 * o.ty.bytes) b))))

/-- VSUBS (R143). -/
def execVsubs (o : V3) (s : State) : Host.Outcome State Fault Refusal :=
  .next (s.vslot o.ctl o.k 2 (fun k => k.vMap2 o 2 (fun a b => satS (8 * o.ty.bytes) (sgn (8 * o.ty.bytes) a - sgn (8 * o.ty.bytes) b))))

/-- VADDX (R143). -/
def execVaddx (o : V3) (s : State) : Host.Outcome State Fault Refusal :=
  .next (s.vslot o.ctl o.k 2 (fun k => k.vMap2 o 2 (fun a b => satU (8 * o.ty.bytes) (a + b))))

/-- VMULX (R143). -/
def execVmulx (o : V3) (s : State) : Host.Outcome State Fault Refusal :=
  .next (s.vslot o.ctl o.k 4 (fun k => k.vMap2 o 4 (fun a b => satU (8 * o.ty.bytes) (a * b))))

/-- VMULH (R143). -/
def execVmulh (o : V3) (s : State) : Host.Outcome State Fault Refusal :=
  .next (s.vslot o.ctl o.k 4 (fun k => k.vMap2 o 4 (fun a b => .pure (wrap (8 * o.ty.bytes) ((sgn (8 * o.ty.bytes) a * sgn (8 * o.ty.bytes) b).fdiv (2 ^ (8 * o.ty.bytes) : Nat))))))

/-- VAND (R145). -/
def execVand (o : V3) (s : State) : Host.Outcome State Fault Refusal :=
  .next (s.vslot o.ctl o.k 2 (fun k => k.vMap2 o 2 (fun a b => .pure (a &&& b))))

/-- VOR (R145). -/
def execVor (o : V3) (s : State) : Host.Outcome State Fault Refusal :=
  .next (s.vslot o.ctl o.k 2 (fun k => k.vMap2 o 2 (fun a b => .pure (a ||| b))))

/-- VXOR (R145). -/
def execVxor (o : V3) (s : State) : Host.Outcome State Fault Refusal :=
  .next (s.vslot o.ctl o.k 2 (fun k => k.vMap2 o 2 (fun a b => .pure (a ^^^ b))))

/-- VSHL (R145). -/
def execVshl (o : V3) (s : State) : Host.Outcome State Fault Refusal :=
  .next (s.vslot o.ctl o.k 2 (fun k => k.vMap2 o 2 (fun a b => .pure (shlEl (8 * o.ty.bytes) a (b % (8 * o.ty.bytes))))))

/-- VSHR (R145). -/
def execVshr (o : V3) (s : State) : Host.Outcome State Fault Refusal :=
  .next (s.vslot o.ctl o.k 2 (fun k => k.vMap2 o 2 (fun a b => .pure (shrEl (8 * o.ty.bytes) a (b % (8 * o.ty.bytes))))))

/-- VSAR (R145). -/
def execVsar (o : V3) (s : State) : Host.Outcome State Fault Refusal :=
  .next (s.vslot o.ctl o.k 2 (fun k => k.vMap2 o 2 (fun a b => .pure (sarEl (8 * o.ty.bytes) a (b % (8 * o.ty.bytes))))))

/-- VSHLI (R145). -/
def execVshli (o : V3) (s : State) : Host.Outcome State Fault Refusal :=
  .next (s.vslot o.ctl o.k 2 (fun k => k.vMap1 o 2 (fun a => .pure (shlEl (8 * o.ty.bytes) a o.vb.toNat))))

/-- VSHRI (R145). -/
def execVshri (o : V3) (s : State) : Host.Outcome State Fault Refusal :=
  .next (s.vslot o.ctl o.k 2 (fun k => k.vMap1 o 2 (fun a => .pure (shrEl (8 * o.ty.bytes) a o.vb.toNat))))

/-- VSARI (R145). -/
def execVsari (o : V3) (s : State) : Host.Outcome State Fault Refusal :=
  .next (s.vslot o.ctl o.k 2 (fun k => k.vMap1 o 2 (fun a => .pure (sarEl (8 * o.ty.bytes) a o.vb.toNat))))

/-- VFMAX of one element (R143). -/
def fmaxEl (t : ETy) (md : BitVec 5) (d a b : Nat) : ElRes :=
  if t == .lgm then
    let p := lgmMul (BitVec.ofNat 16 a) (BitVec.ofNat 16 b)
    ⟨(lgmPick true (BitVec.ofNat 16 d) p.1).toNat, stickyFlags p.2⟩
  else fMaxMul (floatFmt t) md d a b

/-- VFMAX (R143). -/
def execVfmax (o : V3) (s : State) : Host.Outcome State Fault Refusal :=
  .next (s.vslot o.ctl o.k 5 (fun k => k.vMap3 o 5 (fmaxEl o.ty k.csr.fpmode)))

-- Broadcast, select, rearrangement, compare (R147-R153) ----------------------------------------------------------------

/-- VBCST (R149): va names Xa, read as data. -/
def execVbcst (o : V3) (s : State) : Host.Outcome State Fault Refusal :=
  .next (s.vslot o.ctl o.k 2 (fun k => k.vMap o 2 (fun _ => (.pure ((k.readX o.va).val.toNat % 2 ^ (8 * o.ty.bytes)), (k.readX o.va).poison))))

/-- VEXT (R150). -/
def execVext (o : V3) (s : State) : Host.Outcome State Fault Refusal :=
  .next (s.vslot o.ctl o.k 2 (fun k =>
    let e := o.ty.bytes
    let (b0, sz) := sliceOf o.sl
    k.vMap o 2 (fun off =>
      let src := b0 + (((off - b0) / e + o.vb.toNat) % (sz / e)) * e
      (.pure (vElem (k.readV o.va) src e), k.poisonAt o.va src))))

/-- VCMP's condition on one element (R147, Table 7). -/
def vcmpEl (t : ETy) (md : BitVec 5) (c : BitVec 2) (x y : Nat) : Bool × BitVec 7 :=
  let m := 8 * t.bytes
  if t.isInt then
    (match c.toNat with | 0 => x == y | 1 => decide (sgn m x < sgn m y) | 2 => decide (sgn m x ≤ sgn m y) | _ => decide (x < y), 0)
  else if t == .lgm then
    let a := BitVec.ofNat 16 x
    let b := BitVec.ofNat 16 y
    let nar := isLgmNar a || isLgmNar b
    (match c.toNat with
     | 0 => !nar && a == b | 1 => !nar && !lgmLe b a | 2 => !nar && lgmLe a b | _ => nar, 0)
  else
    let a := fIn (floatFmt t) (fpDaz md) x
    let b := fIn (floatFmt t) (fpDaz md) y
    let un := a.1 == .nan || b.1 == .nan
    let fl := a.2 ||| b.2
    match c.toNat with
    | 0 => (!un && !a.1.lt b.1 && !b.1.lt a.1, fl)
    | 1 => (!un && a.1.lt b.1, fl ||| flagIf un fNV)
    | 2 => (!un && !b.1.lt a.1, fl ||| flagIf un fNV)
    | _ => (un, fl)

/-- A mask's bits of a slice replaced. -/
def maskInto (old : BitVec 128) (b0 sz : Nat) (new : BitVec 128) : BitVec 128 :=
  let m : BitVec 128 := BitVec.ofNat 128 (2 ^ sz - 1) <<< b0
  (old &&& ~~~ m) ||| (new &&& m)

/-- VCMP (R147): vd names Kd and the condition. The poison of Kd is that of the enabled elements' granules (log 129).
A narrow form writes all of Kd, the bits it keeps as read at issue, so what an earlier result still on its way would bring to them is superseded
(log 152). -/
def execVcmp (o : V3) (s : State) : Host.Outcome State Fault Refusal :=
  .next (s.vslot o.ctl o.k 2 (fun k =>
    let e := o.ty.bytes
    let (b0, sz) := sliceOf o.sl
    let kd : BitVec 3 := fld o.vd 0 3
    let js := k.enabled o.k b0 (sz / e) e
    let rs := js.map (fun j =>
      (j, vcmpEl o.ty k.csr.fpmode (fld o.vd 3 2) (vElem (k.readV o.va) (b0 + j * e) e) (vElem (k.readV o.vb) (b0 + j * e) e)))
    let bits : BitVec 128 := rs.foldl (fun acc r => if r.2.1 then acc ||| (BitVec.ofNat 128 (2 ^ e - 1) <<< (b0 + r.1 * e)) else acc) 0
    let fl := rs.foldl (fun a r => a ||| r.2.2) 0
    let q := js.any (fun j => k.poisonAt o.va (b0 + j * e) || k.poisonAt o.vb (b0 + j * e))
    .ok (.k kd (maskInto (k.readK kd) b0 sz bits) (q || (sz != 128 && k.poisonK kd)) 2 :: (if fl = 0 then [] else [.flags fl]))))

/-- VSEL (R148): every element of the slice is written. -/
def execVsel (o : V3) (s : State) : Host.Outcome State Fault Refusal :=
  .next (s.vslot o.ctl o.k 2 (fun k =>
    let e := o.ty.bytes
    let (b0, sz) := sliceOf o.sl
    let ws := (List.range (sz / e)).map (fun j =>
      let off := b0 + j * e
      let r := if (k.readK o.k).getLsbD off then o.va else o.vb
      (⟨off, e, vElem (k.readV r) off e, k.poisonAt r off⟩ : VW))
    .ok (k.vResult o.vd ws 0 2)))

/-- VPERM (R151). -/
def execVperm (o : V3) (s : State) : Host.Outcome State Fault Refusal :=
  .next (s.vslot o.ctl o.k 3 (fun k =>
    let e := o.ty.bytes
    let (b0, sz) := sliceOf o.sl
    k.vMap o 3 (fun off =>
      let u := vElem (k.readV o.vb) off e
      if u < sz / e then (.pure (vElem (k.readV o.va) (b0 + u * e) e), k.poisonAt o.vb off || k.poisonAt o.va (b0 + u * e))
      else (.pure 0, k.poisonAt o.vb off))))

/-- VSHUF's patterns (R152, Table 8): output element i comes from element j of the old Vd (false) or of Va (true). -/
def shufSrc (pat h i : Nat) : Bool × Nat :=
  match pat with
  | 0 => (i % 2 == 1, i / 2)
  | 1 => (i % 2 == 1, h + i / 2)
  | 2 => if i < h then (false, 2 * i) else (true, 2 * (i - h))
  | 3 => if i < h then (false, 2 * i + 1) else (true, 2 * (i - h) + 1)
  | 4 => (i % 2 == 1, i / 2 * 2)
  | _ => (i % 2 == 1, i / 2 * 2 + 1)

/-- VSHUF (R152): reads vd. -/
def execVshuf (o : V3) (s : State) : Host.Outcome State Fault Refusal :=
  .next (s.vslot o.ctl o.k 2 (fun k =>
    let e := o.ty.bytes
    let (b0, sz) := sliceOf o.sl
    k.vMap o 2 (fun off =>
      let p := shufSrc (o.vb.toNat % 8) (sz / e / 2) ((off - b0) / e)
      let r := if p.1 then o.va else o.vd
      (.pure (vElem (k.readV r) (b0 + p.2 * e) e), k.poisonAt r (b0 + p.2 * e)))))

/-- VRED's combine (R153); FPMODE is ignored. -/
def redEl (t : ETy) (op : Nat) (x y : Nat) : ElRes :=
  match op with
  | 0 => addEl t 0 false x y
  | 1 => minMaxEl t 0 true false x y
  | _ => minMaxEl t 0 false false x y

/-- One level of VRED's tree (R153). -/
def redLevel (t : ETy) (op : Nat) : List (Option Nat) → List (Option Nat) × BitVec 7
  | x :: y :: rest =>
    let r := redLevel t op rest
    match x, y with
    | some a, some b => let c := redEl t op a b; (some c.val :: r.1, r.2 ||| c.fl)
    | some a, none => (some a :: r.1, r.2)
    | none, b => (b :: r.1, r.2)
  | l => (l, 0)

/-- VRED's tree, level by level. -/
def redTree (t : ETy) (op : Nat) : Nat → List (Option Nat) → BitVec 7 → Option Nat × BitVec 7
  | 0, l, fl => (l.headD none, fl)
  | n + 1, l, fl => let r := redLevel t op l; redTree t op n r.1 (fl ||| r.2)

/-- VRED (R153). -/
def execVred (o : V3) (s : State) : Host.Outcome State Fault Refusal :=
  .next (s.vslot o.ctl o.k 10 (fun k =>
    let e := o.ty.bytes
    let (b0, sz) := sliceOf o.sl
    let n := sz / e
    let js := k.enabled o.k b0 n e
    let nodes := (List.range n).map (fun j => if js.contains j then some (vElem (k.readV o.va) (b0 + j * e) e) else none)
    let r := redTree o.ty (o.vb.toNat % 4) (Nat.log2 n) nodes 0
    let q := js.any (fun j => k.poisonAt o.va (b0 + j * e))
    let ws := (List.range n).map (fun j => (⟨b0 + j * e, e, if j = 0 then r.1.getD 0 else 0, j == 0 && q⟩ : VW))
    .ok (k.vResult o.vd ws r.2 10)))

-- Conversions (R154-R158) -----------------------------------------------------------------------------------------------

/-- SRSEED where a slot's draws begin: VB's follow VA's of the same bundle (R142). -/
def Core.seedAt (k : Core) : Word :=
  match k.bundle with
  | some b => (b.outs.flatMap (fun p => p.2.acts)).foldl (fun sd a => match a with | .seed v => v | _ => sd) k.csr.srseed
  | none => k.csr.srseed

/-- The draws of n elements, in order, and the seed they leave (R142). -/
def drawList : Nat → Word → List (BitVec 32) × Word
  | 0, sd => ([], sd)
  | n + 1, sd => let x := srNext sd; let r := drawList n x; (x.setWidth 32 :: r.1, r.2)

/-- The results of elements under stochastic rounding when `on` (R142): one draw for each element, and the seed to write. -/
def Core.drawn (k : Core) (on : Bool) (js : List Nat) (f : Option (BitVec 32) → Nat → ElRes) : List (Nat × ElRes) × List Action :=
  if on && !js.isEmpty then
    let d := drawList js.length k.seedAt
    ((js.zip d.1).map (fun p => (p.1, f (some p.2) p.1)), [.seed d.2])
  else (js.map (fun j => (j, f none j)), [])

/-- VCVT (R154). -/
def execVcvt (o : V3) (s : State) : Host.Outcome State Fault Refusal :=
  .next (s.vslot o.ctl o.k 4 (fun k =>
    let dt := ETy.ofCode (fld o.vb 0 3)
    let h := (bitOf 1 (bit o.vb 3)).toNat
    let ws := o.ty.bytes
    let wd := dt.bytes
    let (b0, sz) := sliceOf o.sl
    let n := sz / max ws wd
    let two := ws == 2 * wd || wd == 2 * ws
    let src (j : Nat) : Nat := b0 + (if two && wd > ws then h * sz / 2 else 0) + j * ws
    let dst (j : Nat) : Nat := b0 + (if two && ws > wd then h * sz / 2 else 0) + j * wd
    let js := (List.range n).filter (fun j => (k.readK o.k).getLsbD (dst j))
    let sr := fpSr k.csr.fpmode && (dt == .bf16 || dt == .f16)
    let r := k.drawn sr js (fun d j => cvtEl k.csr.fpmode o.ty dt d (vElem (k.readV o.va) (src j) ws))
    let fill := if ws ≥ 4 * wd then (List.range (sz / wd - n)).map (fun i => (⟨b0 + (n + i) * wd, wd, 0, false⟩ : VW)) else []
    .ok (k.vResult o.vd (r.1.map (fun p => ⟨dst p.1, wd, p.2.val, k.poisonAt o.va (src p.1)⟩) ++ fill)
          (r.1.foldl (fun a p => a ||| p.2.fl) 0) 4 ++ r.2)))

/-- VF2L (R155). -/
def execVf2l (o : V3) (s : State) : Host.Outcome State Fault Refusal :=
  .next (s.vslot o.ctl o.k 6 (fun k =>
    let e := o.ty.bytes
    let (b0, sz) := sliceOf o.sl
    let n := sz / e
    let js := k.enabled o.k b0 n e
    let r := k.drawn (fpSr k.csr.fpmode) js (fun d j => f2lEl (floatFmt o.ty) k.csr.fpmode o.vb.toInt d (vElem (k.readV o.va) (b0 + j * e) e))
    let fill := if e = 4 then (List.range n).map (fun i => (⟨b0 + 2 * (n + i), 2, 0, false⟩ : VW)) else []
    .ok (k.vResult o.vd (r.1.map (fun p => ⟨b0 + 2 * p.1, 2, p.2.val, k.poisonAt o.va (b0 + p.1 * e)⟩) ++ fill)
          (r.1.foldl (fun a p => a ||| p.2.fl) 0) 6 ++ r.2)))

/-- VL2F (R155). -/
def execVl2f (o : V3) (s : State) : Host.Outcome State Fault Refusal :=
  .next (s.vslot o.ctl o.k 6 (fun k =>
    let e := o.ty.bytes
    let (b0, _) := sliceOf o.sl
    k.vMap o 6 (fun off =>
      let src := b0 + 2 * ((off - b0) / e)
      (l2fEl (floatFmt o.ty) k.csr.fpmode o.vb.toInt (vElem (k.readV o.va) src 2), k.poisonAt o.va src))))

/-- The bytes of a whole register written, block by block, each byte with its poison. -/
def byteWrites (bs : List (Byte × Bool)) : List VW :=
  ((List.range bs.length).zip bs).map (fun p => ⟨p.1, 1, p.2.1.toNat, p.2.2⟩)

/-- VQNT (R156). -/
def execVqnt (o : V3) (s : State) : Host.Outcome State Fault Refusal :=
  .next (s.vslot o.ctl o.k 8 (fun k =>
    let e := o.ty.bytes
    let f := o.vb.toNat % 16
    let nb := 128 / e / 32
    let blocks := (List.range nb).map (fun b =>
      let ins := (List.range 32).map (fun i => qntIn o.ty k.csr.fpmode (vElem (k.readV o.va) ((32 * b + i) * e) e))
      (qntBlock f (ins.map (·.1)), ins.foldl (fun a p => a ||| p.2) 0, k.poisonIn o.va (32 * b * e) (32 * e)))
    let body := blocks.flatMap (fun p => (packBits (fmtBits f) p.1.1).map (fun x => (x, p.2.2)))
    let scales := blocks.map (fun p => (BitVec.ofNat 8 p.1.2.1, p.2.2))
    let all := body ++ List.replicate (120 - body.length) (0, false) ++ scales ++ List.replicate (8 - scales.length) (0, false)
    let fl := blocks.foldl (fun a p => a ||| p.2.1 ||| stickyFlags p.1.2.2) 0
    .ok (k.vResult o.vd (byteWrites all) fl 8)))

/-- VDQNT (R157). -/
def execVdqnt (o : V3) (s : State) : Host.Outcome State Fault Refusal :=
  .next (s.vslot o.ctl o.k 6 (fun k =>
    let e := o.ty.bytes
    let f := o.vb.toNat % 16
    let bb := fmtBlockBytes f
    let v := (k.readV o.va).toNat
    let rs := (List.range (128 / e)).map (fun j =>
      let b := j / 32
      let x := (v >>> (8 * (b * bb) + fmtBits f * (j % 32))) % 2 ^ elemBits f
      let r := dqntEl o.ty (dqntVal f x (vElem (k.readV o.va) (120 + b) 1))
      ((⟨j * e, e, r.val, k.poisonIn o.va (b * bb) bb || k.poisonAt o.va (120 + b)⟩ : VW), r.fl))
    .ok (k.vResult o.vd (rs.map (·.1)) (rs.foldl (fun a p => a ||| p.2) 0) 6)))

/-- The bytes of a register's slice. -/
def sliceBytes (v : BitVec 1024) (b0 n : Nat) : List Byte := bytesOf (vElem v b0 n) n

/-- A packing instruction (R158): the result bytes from the first byte of the slice on, with the poison of the source bytes `src`
gives each, then zeros. -/
def Core.packOut (k : Core) (o : V3) (bs : List Byte) (src : Nat → Nat × Nat) : SlotOut :=
  let (b0, sz) := sliceOf o.sl
  let ws := ((List.range bs.length).zip bs).map (fun p =>
    let r := src p.1
    (⟨b0 + p.1, 1, p.2.toNat, k.poisonIn o.va (b0 + r.1) r.2⟩ : VW))
  let fill := (List.range (sz - bs.length)).map (fun i => (⟨b0 + bs.length + i, 1, 0, false⟩ : VW))
  .ok (k.vResult o.vd (ws ++ fill) 0 2)

/-- VPK6 (R158). -/
def execVpk6 (o : V3) (s : State) : Host.Outcome State Fault Refusal :=
  .next (s.vslot o.ctl o.k 2 (fun k =>
    let (b0, sz) := sliceOf o.sl
    k.packOut o (packAll6 (sliceBytes (k.readV o.va) b0 sz)) (fun i => (i / 3 * 4 + i % 3, 2))))

/-- VUPK6 (R158). -/
def execVupk6 (o : V3) (s : State) : Host.Outcome State Fault Refusal :=
  .next (s.vslot o.ctl o.k 2 (fun k =>
    let (b0, sz) := sliceOf o.sl
    k.packOut o (unpackAll6 (sliceBytes (k.readV o.va) b0 (3 * sz / 4))) (fun i => (6 * i / 8, (6 * i + 5) / 8 + 1 - 6 * i / 8))))

/-- VPK4 (R158). -/
def execVpk4 (o : V3) (s : State) : Host.Outcome State Fault Refusal :=
  .next (s.vslot o.ctl o.k 2 (fun k =>
    let (b0, sz) := sliceOf o.sl
    k.packOut o (packAll4 (sliceBytes (k.readV o.va) b0 sz)) (fun i => (2 * i, 2))))

/-- VUPK4 (R158). -/
def execVupk4 (o : V3) (s : State) : Host.Outcome State Fault Refusal :=
  .next (s.vslot o.ctl o.k 2 (fun k =>
    let (b0, sz) := sliceOf o.sl
    k.packOut o (unpackAll4 (sliceBytes (k.readV o.va) b0 (sz / 2))) (fun i => (i / 2, 1))))

-- Transcendentals (R159, R160) -----------------------------------------------------------------------------------------

/-- A transcendental on the enabled elements; vb[0] is the grade. -/
def State.transcendental (s : State) (o : V3) (fn : Config.TFun) : State :=
  let b := if bit o.vb 0 then 12 else 6
  s.vslot o.ctl o.k b (fun k => k.vMap1 o b (tEl fn o.ty (bit o.vb 0)))

/-- VRCP (R159). -/
def execVrcp (o : V3) (s : State) : Host.Outcome State Fault Refusal :=
  .next (s.transcendental o .rcp)

/-- VRSQ (R159). -/
def execVrsq (o : V3) (s : State) : Host.Outcome State Fault Refusal :=
  .next (s.transcendental o .rsq)

/-- VSQRT (R159). -/
def execVsqrt (o : V3) (s : State) : Host.Outcome State Fault Refusal :=
  .next (s.transcendental o .sqrt)

/-- VEXP2 (R159). -/
def execVexp2 (o : V3) (s : State) : Host.Outcome State Fault Refusal :=
  .next (s.transcendental o .exp2)

/-- VLOG2 (R159). -/
def execVlog2 (o : V3) (s : State) : Host.Outcome State Fault Refusal :=
  .next (s.transcendental o .log2)

/-- VEXP (R159). -/
def execVexp (o : V3) (s : State) : Host.Outcome State Fault Refusal :=
  .next (s.transcendental o .exp)

/-- VLN (R159). -/
def execVln (o : V3) (s : State) : Host.Outcome State Fault Refusal :=
  .next (s.transcendental o .ln)

/-- VSIN (R159). -/
def execVsin (o : V3) (s : State) : Host.Outcome State Fault Refusal :=
  .next (s.transcendental o .sin)

/-- VCOS (R159). -/
def execVcos (o : V3) (s : State) : Host.Outcome State Fault Refusal :=
  .next (s.transcendental o .cos)

/-- VTANH (R159). -/
def execVtanh (o : V3) (s : State) : Host.Outcome State Fault Refusal :=
  .next (s.transcendental o .tanh)

/-- VSIGM (R159). -/
def execVsigm (o : V3) (s : State) : Host.Outcome State Fault Refusal :=
  .next (s.transcendental o .sigm)

/-- VGELU (R159). -/
def execVgelu (o : V3) (s : State) : Host.Outcome State Fault Refusal :=
  .next (s.transcendental o .gelu)

-- Bounds and the accumulator store (R161, R166, R167) -------------------------------------------------------------------

/-- VCLMP (R161). -/
def execVclmp (o : V3) (s : State) : Host.Outcome State Fault Refusal :=
  .next (s.vslot o.ctl o.k 3 (fun k =>
    let e := o.ty.bytes
    let (b0, sz) := sliceOf o.sl
    let i := o.vb.toNat % 16
    let b := k.csr.bnd.toList.getD i 0
    let mode := bndMode k.csr.bndmode i
    let val (off : Nat) : Nat := vElem (k.readV o.va) off e
    let offs := (k.enabled o.k b0 (sz / e) e).map (fun j => b0 + j * e)
    let out (off : Nat) : Bool := outOfRange b o.ty (val off) (k.poisonAt o.va off)
    let res (off : Nat) : Nat := if mode == 2 then clampEl b o.ty (val off) (k.poisonAt o.va off) else val off
    let hit := if mode == 1 then offs.any out else mode == 2 && offs.any (fun off => res off != val off)
    if mode == 3 && offs.any out then .fault (fltDetail 0x09 (BitVec.ofNat 16 i))
    else .ok (k.vResult o.vd (offs.map (fun off => ⟨off, e, res off, k.poisonAt o.va off⟩)) 0 3
                ++ (if hit then [.bndhit (1#16 <<< i)] else []))))

/-- The row and quarter VACR and VACW name (R166). -/
def accRow (o : V3) : Nat × Nat := ((fld o.vb 0 3).toNat * 32 + o.va.toNat, (fld o.vb 3 2).toNat)

/-- Whether the array is gated or waking: VACR and VACW raise cause 0x0C (R190). -/
def Core.accShut (k : Core) : Option SlotFault := if k.mx.gate.isGated || k.mx.gate.isWaking then some (flt 0x0C) else none

/-- VACR (R166, R167). -/
def execVacr (o : V3) (s : State) : Host.Outcome State Fault Refusal :=
  .next (s.vslot o.ctl o.k 8 (fun k =>
    let r := accRow o
    orFault [k.accShut]
      (let u := k.afterDraws .acc ((k.enabled o.k 0 16 8).map (fun j => 64 * r.1 + 16 * r.2 + j))
       let ws := (k.enabled o.k 0 16 8).map (fun j =>
         let el := u.mx.el (64 * r.1 + 16 * r.2 + j)
         (⟨8 * j, 8, el.val.toNat, el.poison⟩ : VW))
       .ok (k.vResult o.vd ws 0 8 ++ k.readDraws .acc ((k.enabled o.k 0 16 8).map (fun j => 64 * r.1 + 16 * r.2 + j))))))

/-- VACW (R166, R167): vd names the source. -/
def execVacw (o : V3) (s : State) : Host.Outcome State Fault Refusal :=
  .next (s.vslot o.ctl o.k 8 (fun k =>
    let r := accRow o
    orFault [k.accShut]
      (.ok ((k.enabled o.k 0 16 8).map (fun j =>
        .accStore (64 * r.1 + 16 * r.2 + j) (BitVec.ofNat 64 (vElem (k.readV o.vd) (8 * j) 8)) (k.poisonAt o.vd (8 * j)))))))

end Sys2Proof.Machine
end

