-- ==== Sys2Proof/Machine/VectorMem.lean ====
section
/-! DEFINITION. Vector loads and stores (R162-R165). -/
namespace Sys2Proof.Machine
open Sys2Proof

/-- check_ptr with the end of the access (R162, R164): tag, offset, last byte, alignment. -/
def checkRun (p : Word) (accepted : List Nat) (size align : Nat) : Option SlotFault :=
  if !accepted.contains (tagOf p) then some (fltAt 0x06 p)
  else if outOfSpace p then some (fltAt 0x05 p)
  else if (fld p 0 60).toNat + size > 2 ^ spaceBits (tagOf p) then some (fltAt 0x05 p)
  else if p.toNat % align != 0 then some (fltAt 0x04 p)
  else none

/-- Bytes of the scratchpad or of the plane constants as a program-thread read takes them, with the poison of their granule. -/
def Core.readSpace (k : Core) (p : Word) (n : Nat) : Nat × Bool :=
  if tagOf p = 3 then (k.constBytes (offsetOf p) n, false) else k.viewBytes false (offsetOf p) n

/-- The address of a VM slot (R162). -/
def vmAddr (k : Core) (o : VM) : Word := (k.readX o.xb).val + 32 * o.lend.setWidth 64

/-- VLD (R162). -/
def execVld (o : VM) (s : State) : Host.Outcome State Fault Refusal :=
  .next (s.vslot o.ctl o.k 6 (fun k =>
    let (b0, sz) := sliceOf o.sl
    let p := vmAddr k o
    let js := (List.range sz).filter (fun j => (k.readK o.k).getLsbD (b0 + j))
    let u := if tagOf p = 3 then k else k.afterDraws .pad (granList (offsetOf p) sz)
    let ws := js.map (fun j => let r := u.readSpace (p + BitVec.ofNat 64 j) 1; (⟨b0 + j, 1, r.1, r.2⟩ : VW))
    orFault [syncFault [k.readX o.xb], checkRun p [0, 3] sz 32]
      (if tagOf p = 3 then .ok (k.vResult o.vd ws 0 6)
       else k.landed (k.berthsAt (offsetOf p) sz) o.ctl.slot (k.vResult o.vd ws 0 6 ++ k.readDraws .pad (granList (offsetOf p) sz)))))

/-- One granule of a vector store (R163): the enabled bytes of register bytes `r .. r + 31`. -/
def Core.storeGranule (k : Core) (v : Reg) (mask : BitVec 128) (r g : Nat) (cls : BitVec 4) : List Action :=
  let m : BitVec 32 := mask.extractLsb' r 32
  let touched := (List.range 4).filter (fun i => !(m.extractLsb' (8 * i) 8 == 0))
  let bad := touched.any (fun i => k.poisonAt v (r + 8 * i))
  if m = 0 then []
  else [.store false g (BitVec.ofNat 256 (vElem (k.readV v) r 32)) m
         (if bad then some true else if m = BitVec.allOnes 32 then some false else none) cls]

/-- VST (R162, R163). -/
def execVst (o : VM) (s : State) : Host.Outcome State Fault Refusal :=
  .next (s.vslot o.ctl o.k 1 (fun k =>
    let (b0, sz) := sliceOf o.sl
    let p := vmAddr k o
    orFault [syncFault [k.readX o.xb], checkRun p [0] sz 32]
      (.ok ((List.range (sz / 32)).flatMap (fun i =>
        k.storeGranule o.vd (k.readK o.k) (b0 + 32 * i) (offsetOf p / 32 + i) o.cls)))))

/-- The first fault of the enabled elements' addresses, in ascending order (R164). -/
def firstFault (ps : List Word) (accepted : List Nat) (size : Nat) : Option SlotFault :=
  match ps with
  | [] => none
  | p :: rest => match checkRun p accepted size size with | some f => some f | none => firstFault rest accepted size

/-- The element size and stride of X(b+1) (R164). -/
def strideOf (x : Word) : Nat × Word := (2 ^ (fld x 62 2).toNat, (fld x 0 48).signExtend 64)

/-- A gather of elements into a slice: register offset and address of each (R164, R165). -/
def Core.gatherOut (k : Core) (o : VM) (z bound : Nat) (es : List (Nat × Word)) : SlotOut :=
  let gs := (es.filter (fun p => tagOf p.2 == 0)).map (fun p => offsetOf p.2 / 32)
  let u := k.afterDraws .pad gs
  let ws := es.map (fun p => let r := u.readSpace p.2 z; (⟨p.1, z, r.1, r.2⟩ : VW))
  let ns := (es.filter (fun p => tagOf p.2 == 0)).flatMap (fun p => k.berthsAt (offsetOf p.2) z)
  k.landed ns.eraseDups o.ctl.slot (k.vResult o.vd ws 0 bound
    ++ k.readDraws .pad gs)

/-- A memory granule a scatter writes: bytes, byte mask, and whether a poisoned element went into it. -/
structure Scattered where
  gran : Nat
  val : Gran
  mask : BitVec 32
  poison : Bool
deriving DecidableEq, Repr

/-- Adds an element of `z` bytes at a scratchpad offset to the granules written. -/
def scatterInto (gs : List Scattered) (off z : Nat) (v : Nat) (bad : Bool) : List Scattered :=
  match gs with
  | [] => [⟨off / 32, BitVec.ofNat 256 (v * 2 ^ (8 * (off % 32))), runMask (off % 32) z, bad⟩]
  | g :: rest =>
    if g.gran = off / 32 then
      { g with val := merge g.val (BitVec.ofNat 256 (v * 2 ^ (8 * (off % 32)))) (runMask (off % 32) z),
               mask := g.mask ||| runMask (off % 32) z, poison := g.poison || bad } :: rest
    else g :: scatterInto rest off z v bad

/-- A scatter of elements from a slice, the highest element last (R163, R164, R165). -/
def Core.scatterOut (k : Core) (o : VM) (z : Nat) (es : List (Nat × Word)) : SlotOut :=
  let gs := es.foldl (fun gs p => scatterInto gs (offsetOf p.2) z (vElem (k.readV o.vd) p.1 z) (k.poisonAt o.vd p.1)) []
  .ok (gs.map (fun g => .store false g.gran g.val g.mask
    (if g.poison then some true else if g.mask = BitVec.allOnes 32 then some false else none) o.cls))

/-- The enabled elements of a strided access with their addresses (R164), which are taken modulo 2^64 (log 130). -/
def Core.strided (k : Core) (o : VM) : Nat × List (Nat × Word) :=
  let (b0, sz) := sliceOf o.sl
  let (z, st) := strideOf (k.readX (o.xb + 1)).val
  let p := vmAddr k o
  (z, (k.enabled o.k b0 (sz / z) z).map (fun j => (b0 + j * z, p + BitVec.ofNat 64 j * st)))

/-- The bound of a gathering load (R138, Table 1). -/
def gatherBound (n : Nat) : Nat := 6 + (n + 15) / 16

/-- VLDS (R164). -/
def execVlds (o : VM) (s : State) : Host.Outcome State Fault Refusal :=
  let k0 := s.core s.cur
  let bound := gatherBound ((sliceOf o.sl).2 / (strideOf (k0.readX (o.xb + 1)).val).1)
  .next (s.vslot o.ctl o.k bound (fun k =>
    let (z, es) := k.strided o
    orFault [syncFault [k.readX o.xb, k.readX (o.xb + 1)], firstFault (es.map (·.2)) [0, 3] z] (k.gatherOut o z bound es)))

/-- VSTS (R164). -/
def execVsts (o : VM) (s : State) : Host.Outcome State Fault Refusal :=
  .next (s.vslot o.ctl o.k 1 (fun k =>
    let (z, es) := k.strided o
    orFault [syncFault [k.readX o.xb, k.readX (o.xb + 1)], firstFault (es.map (·.2)) [0] z] (k.scatterOut o z es)))

/-- The enabled elements of an indexed access with their addresses, modulo 2^64 (log 130), and whether an index is poisoned (R165). -/
def Core.indexed (k : Core) (o : VM) : Nat × List (Nat × Word) × Bool :=
  let (b0, sz) := sliceOf o.sl
  let e := (ETy.ofCode o.lend).bytes
  let js := k.enabled o.k b0 (sz / e) e
  (e, js.map (fun j => (b0 + j * e, (k.readX o.xb).val + BitVec.ofNat 64 (vElem (k.readV (o.vd + 1)) (b0 + j * e) e * e))),
   js.any (fun j => k.poisonAt (o.vd + 1) (b0 + j * e)))

/-- The checks of VGTH and VSCT in their order (R165). -/
def Core.indexedFaults (k : Core) (o : VM) (accepted : List Nat) : List (Option SlotFault) :=
  let (e, es, bad) := k.indexed o
  [syncFault [k.readX o.xb], if bad then some (flt 0x08) else none,
   if (k.readX o.xb).val.toNat % e != 0 then some (fltAt 0x04 (k.readX o.xb).val) else none,
   firstFault (es.map (·.2)) accepted e]

/-- VGTH (R165). -/
def execVgth (o : VM) (s : State) : Host.Outcome State Fault Refusal :=
  let bound := gatherBound ((sliceOf o.sl).2 / (ETy.ofCode o.lend).bytes)
  .next (s.vslot o.ctl o.k bound (fun k =>
    let r := k.indexed o
    orFault (k.indexedFaults o [0, 3]) (k.gatherOut o r.1 bound r.2.1)))

/-- VSCT (R165). -/
def execVsct (o : VM) (s : State) : Host.Outcome State Fault Refusal :=
  .next (s.vslot o.ctl o.k 1 (fun k =>
    let r := k.indexed o
    orFault (k.indexedFaults o [0]) (k.scatterOut o r.1 r.2.1)))

end Sys2Proof.Machine
end

