-- ==== Sys2Proof/Machine/Matrix.lean ====
section
/-! DEFINITION. The matrix instructions at issue (R169-R195): their checks, what they capture, and what those that are not
queued do. Machine/Array.lean holds the array they run on. -/
namespace Sys2Proof.Machine
open Sys2Proof

-- Checks (R172) -------------------------------------------------------------------------------------------------------

/-- A pointer an MX instruction touches: address, tags it accepts, size, alignment. -/
structure MxPtr where
  p : Word
  tag : Nat
  size : Nat
  align : Nat
deriving DecidableEq, Repr

/-- Items 6 to 8 of R172: the first pointer with a wrong tag, else the first beyond its space, else the first misaligned. -/
def ptrFaults (ps : List MxPtr) : List (Option SlotFault) :=
  [ (ps.find? (fun q => tagOf q.p != q.tag)).map (fun q => fltAt 0x06 q.p),
    (ps.find? (fun q => decide ((fld q.p 0 60).toNat + q.size > 2 ^ spaceBits q.tag))).map (fun q => fltAt 0x05 q.p),
    (ps.find? (fun q => q.p.toNat % q.align != 0)).map (fun q => fltAt 0x04 q.p) ]

/-- Item 3: handler use of the array (R192). -/
def Core.mxHandler (k : Core) : Option SlotFault := if k.csr.hm && !k.csr.hmx then some (flt 0x03) else none
/-- Item 5: the array is gated (R190). -/
def Core.mxGated (k : Core) : Option SlotFault := if k.mx.gate.isGated then some (flt 0x0C) else none
/-- Item 9: eight queued instructions already waiting (R175). -/
def Core.mxFull (k : Core) : Option SlotFault := if k.mx.waiting k.mt ≥ 8 then some (fltDetail 0x0A 0xFFFF) else none

/-- The checks every MX instruction makes, `srcs` its synchronising registers. -/
def Core.mxChecks (k : Core) (srcs : List XW) : List (Option SlotFault) := [k.mxHandler, syncFault srcs, k.mxGated]

/-- The AR level bits a slot arrives at. -/
def Core.arOf (k : Core) (c : Ctl) : BitVec 2 := if c.ar then k.csr.ardom else 0

/-- A queued instruction's effects: a pending gate is cancelled (R190), then it enters the queue. -/
def Core.mxQueue (k : Core) (c : Ctl) (i : Instr) (xa xn xn1 : Word) (tbl : List (BitVec 16)) : List Action :=
  [.gateCancel, .mx i xa xn xn1 tbl (k.arOf c)]

/-- The number of rows a count register names (R171). -/
def rowsOf (xn : Word) : Nat := (fld xn 0 8).toNat + 1

/-- The row pointers of a run of rows: n rows of `size` bytes, `stride` apart. -/
def rowPtrs (p : Word) (tag n stride size align : Nat) : List MxPtr :=
  (List.range n).map (fun i => ⟨p + BitVec.ofNat 64 (i * stride), tag, size, align⟩)

/-- The row pointers of a weight plane of 64 rows of `size` bytes (R178): only its first byte has an alignment. -/
def planePtrs (p : Word) (tag size : Nat) : List MxPtr := ⟨p, tag, size, 32⟩ :: (rowPtrs p tag 64 size size 1).drop 1

/-- The byte pointers of a run of scale bytes. -/
def scalePtrs (p : Word) (tag n : Nat) : List MxPtr := rowPtrs p tag n 1 1 1

-- Configuration and tables (R176, R177) -------------------------------------------------------------------------------

/-- MCFG (R176). Its own check stands where those of the other instructions' pointers stand (log 131). -/
def execMcfg (o : MX) (s : State) : Host.Outcome State Fault Refusal :=
  .next (s.slot o.ctl none (fun k =>
    let x := k.readX o.xa
    orFault (k.mxChecks [x] ++ [if mcValid (fld x.val 0 32) then none else some (fltAt 0x01 x.val), k.mxFull])
      (.ok (k.mxQueue o.ctl (.mcfg o) x.val 0 0 []))))

/-- MTBL (R177): the table is read at issue. -/
def execMtbl (o : MX) (t : Bool) (s : State) : Host.Outcome State Fault Refusal :=
  .next (s.slot o.ctl none (fun k =>
    let x := k.readX o.xa
    let off := offsetOf x.val
    orFault (k.mxChecks [x] ++ ptrFaults [⟨x.val, 0, 32, 32⟩] ++ [k.mxFull])
      (k.landed (k.berthsAt off 32) o.ctl.slot (k.mxQueue o.ctl (.mtbl o t) x.val 0 0 (tableOf ((k.afterDraws .pad [off / 32]).viewRun false off 32).1) ++ k.readDraws .pad [off / 32]))))

-- Weight planes (R178, R179) ------------------------------------------------------------------------------------------

/-- The value a weight element gives to the choice of a block scale: none for zero, NaR and poison. -/
def lgmQualifies (x : BitVec 16) (bad : Bool) (sm : Int) : List XVal := if bad then [] else [lgmValue x sm]

/-- One block of 32 LGM16 weights as E-forms (R178, R56, R45). -/
def weightBlock (wf : Nat) (sm : Int) (fix : Option Int) (els : List (BitVec 16 × Bool)) : List EForm × Sticky :=
  let sb : Int := match fix with
    | some s => s
    | none => (blockScale (els.flatMap (fun e => lgmQualifies e.1 e.2 sm)) 0 : Int) - 127
  els.foldr (fun e acc =>
    if e.2 then (⟨efZero, true⟩ :: acc.1, acc.2)
    else
      let r := lgmToArray e.1 sm wf sb
      let p := logParams wf
      let l := r.1 % 2 ^ (p.1 - 1)
      let neg := r.1 / 2 ^ (p.1 - 1) % 2 = 1
      let raw := if l = 0 then (if neg then efNar else efZero)
                 else efMake neg (((l : Int) - (2 ^ (p.1 - 2) : Nat)) * (2 ^ (4 - p.2) : Nat) + 16 * sb)
      (⟨raw, false⟩ :: acc.1, acc.2.or r.2)) ([], .none)

/-- The pending cells of a weight plane, in cell order. -/
def cellPends (plane : Bool) (due : Nat) (es : List EForm) : List Pend :=
  ((List.range es.length).zip es).map (fun p => ⟨.cell plane p.1, p.2.raw.setWidth 256, p.2.poison, due, true, 0⟩)

/-- MWLD (R178): reads 256 hold column words at issue. -/
def execMwld (o : MX) (fix : Bool) (s : State) : Host.Outcome State Fault Refusal :=
  .next (s.slot o.ctl (some 80) (fun k =>
    let xa := k.readX o.xa
    let xn := k.readX o.xn
    let g0 := offsetOf xa.val / 32
    let read := k.holdWords ((List.range 256).map (fun i => g0 + i))
    let els := read.1.flatMap (fun w => (List.range 16).map (fun i => ((w.1.extractLsb' (16 * i) 16 : BitVec 16), w.2)))
    let sm := (fld xn.val 0 8).toInt
    let target := if fix then some (fld xn.val 8 8).toInt else none
    let blocks := (List.range 128).map (fun b => weightBlock (mcWfmt k.mx.mcfgTail) sm target ((els.drop (32 * b)).take 32))
    let st := blocks.foldl (fun a b => a.or b.2) Sticky.none
    orFault (k.mxChecks [xa, xn] ++ ptrFaults (planePtrs xa.val 1 128))
      (.ok ([.gateCancel, .pend (cellPends (!k.mx.act) (k.mt + 80) (blocks.flatMap (·.1))), .mload (k.mt + 80) st.osat st.ozero]
              ++ read.2))))

/-- An E-form as an output writes it: a zero and a NaR have one form each (R44). -/
def efWritten (x : BitVec 16) : BitVec 16 := if (⟨x, false⟩ : EForm).nar then efNar else if (⟨x, false⟩ : EForm).zero then efZero else x

/-- A raw E-form read from the scratchpad (R178 with EF). -/
def Core.rawForm (k : Core) (off : Nat) : EForm := let v := k.viewBytes false off 2; ⟨BitVec.ofNat 16 v.1, v.2⟩

/-- MWLDS (R178). -/
def execMwlds (o : MX) (ef : Bool) (s : State) : Host.Outcome State Fault Refusal :=
  let bound := if ef then 80 else 48
  .next (s.slot o.ctl (some bound) (fun k =>
    let xa := k.readX o.xa
    let xn := k.readX o.xn
    let f := mcWfmt k.mx.mcfgTail
    let rb := rowBytes f
    let off := offsetOf xa.val
    let sc := offsetOf xn.val
    let ptrs := if ef then planePtrs xa.val 0 128 else planePtrs xa.val 0 rb ++ scalePtrs xn.val 0 128
    let gs := granList off (if ef then 8192 else 64 * rb) ++ if ef then [] else granList sc 128
    let u := k.afterDraws .pad gs
    let es := if ef then (List.range 4096).map (fun i => u.rawForm (off + 2 * i))
              else (List.range 64).flatMap (fun r => u.rowEforms f (off + r * rb) (sc + 2 * r))
    let ns := k.berthsAt off (if ef then 8192 else 64 * rb) ++ (if ef then [] else k.berthsAt sc 128)
    orFault (k.mxChecks [xa, xn] ++ ptrFaults ptrs)
      (k.landed ns.eraseDups o.ctl.slot
        ([.gateCancel, .pend (cellPends (!k.mx.act) (k.mt + bound) es), .mload (k.mt + bound) false false]
          ++ k.readDraws .pad gs))))

/-- MWSWAP (R179). -/
def execMwswap (o : MX) (s : State) : Host.Outcome State Fault Refusal :=
  .next (s.slot o.ctl none (fun k =>
    orFault (k.mxChecks [] ++ [k.mxFull]) (.ok (k.mxQueue o.ctl (.mwswap o) 0 0 0 []))))

-- Streams (R180-R184) -------------------------------------------------------------------------------------------------

/-- MSTRM (R180, R181). -/
def execMstrm (o : MX) (z : Bool) (s : State) : Host.Outcome State Fault Refusal :=
  .next (s.slot o.ctl none (fun k =>
    let xa := k.readX o.xa
    let xn := k.readX o.xn
    let x1 := k.readX (o.xn + 1)
    let f := mcAfmt k.mx.mcfgTail
    let n := rowsOf xn.val
    let st := (fld xn.val 16 16).toNat
    let stride := if st = 0 then rowBytes f else st
    let rows := rowPtrs xa.val 0 n stride (rowBytes f) 16
    let scales := if f ≤ 0x0B then scalePtrs x1.val 0 (2 * n) else []
    orFault (k.mxChecks [xa, xn, x1] ++ ptrFaults (rows ++ scales)
              ++ [if stride % 16 != 0 then some (fltAt 0x04 xa.val) else none, k.mxFull])
      (.ok (k.mxQueue o.ctl (.mstrm o z) xa.val xn.val x1.val []))))

/-- MSTRMA (R180, R181). -/
def execMstrma (o : MX) (z : Bool) (s : State) : Host.Outcome State Fault Refusal :=
  .next (s.slot o.ctl none (fun k =>
    let xa := k.readX o.xa
    let xn := k.readX o.xn
    orFault (k.mxChecks [xa, xn] ++ [k.mxFull]) (.ok (k.mxQueue o.ctl (.mstrma o z) xa.val xn.val 0 []))))

/-- MSTRMH (R180, R183). -/
def execMstrmh (o : MX) (z : Bool) (s : State) : Host.Outcome State Fault Refusal :=
  .next (s.slot o.ctl none (fun k =>
    let xn := k.readX o.xn
    orFault (k.mxChecks [xn] ++ [k.mxFull]) (.ok (k.mxQueue o.ctl (.mstrmh o z) 0 xn.val 0 []))))

/-- MHPSH (R183). -/
def execMhpsh (o : MX) (s : State) : Host.Outcome State Fault Refusal :=
  .next (s.slot o.ctl (some 1) (fun k =>
    orFault (k.mxChecks [] ++ [if k.hoistHeld ≥ 16 then some (fltDetail 0x0A 0xFFFE) else none])
      (.ok [.gateCancel, .hoistPush (k.readV o.xa) (k.poisonV o.xa)])))

/-- MHCNT (R184). -/
def execMhcnt (o : MX) (s : State) : Host.Outcome State Fault Refusal :=
  .next (s.slot o.ctl (some 2) (fun k =>
    orFault (k.mxChecks []) (.ok [.xm o.xa ⟨BitVec.ofNat 64 (16 - k.hoistHeld), false⟩ 2])))

-- Drains (R185-R187) --------------------------------------------------------------------------------------------------

/-- What MDRN and MDRNH check and queue. -/
def Core.drainOut (k : Core) (o : MX) (i : Instr) (tag : Nat) : SlotOut :=
  let xa := k.readX o.xa
  let xn := k.readX o.xn
  let x1 := k.readX (o.xn + 1)
  let mc := k.mx.mcfgTail
  let n := rowsOf xn.val
  let size := 64 * dfmtBytes (mcDfmt mc)
  let stride := drainStride xn.val mc
  let rows := rowPtrs xa.val tag n stride size 32
  let scales := if dfmtBlock (mcDfmt mc) then scalePtrs x1.val tag (2 * n) else []
  orFault (k.mxChecks [xa, xn, x1] ++ ptrFaults (rows ++ scales)
            ++ [if stride % 32 != 0 then some (fltAt 0x04 xa.val) else none, k.mxFull])
    (.ok (k.mxQueue o.ctl i xa.val xn.val x1.val []))

/-- MDRN (R185). -/
def execMdrn (o : MX) (clr : Bool) (s : State) : Host.Outcome State Fault Refusal :=
  .next (s.slot o.ctl none (fun k => k.drainOut o (.mdrn o clr) 0))

/-- MDRNH (R185). -/
def execMdrnh (o : MX) (clr : Bool) (s : State) : Host.Outcome State Fault Refusal :=
  .next (s.slot o.ctl none (fun k => k.drainOut o (.mdrnh o clr) 1))

/-- MCLR (R187). -/
def execMclr (o : MX) (s : State) : Host.Outcome State Fault Refusal :=
  .next (s.slot o.ctl none (fun k =>
    let xn := k.readX o.xn
    orFault (k.mxChecks [xn] ++ [k.mxFull]) (.ok (k.mxQueue o.ctl (.mclr o) 0 xn.val 0 []))))

-- Gate, save, restore, status, wait (R188-R195) -----------------------------------------------------------------------

/-- MGATE on (R190): it retires when the request ends. -/
def execMgateOn (o : MX) (ret : Bool) (s : State) : Host.Outcome State Fault Refusal :=
  .next (s.slot o.ctl none (fun k => orFault (k.mxChecks []) (.ok [.gateOn ret, .gateArrive (k.arOf o.ctl)])))

/-- MGATE off (R190): legal while the array is gated. -/
def execMgateOff (o : MX) (s : State) : Host.Outcome State Fault Refusal :=
  .next (s.slot o.ctl none (fun k => orFault [k.mxHandler] (.ok [.gateOff, .gateArrive (k.arOf o.ctl)])))

/-- The rows of an MSAVE or MREST area. -/
def areaRows (nr : Bool) (xn : Word) : Nat := if nr then 0 else rowsOf xn
/-- Size of the area (R193). -/
def areaSize (n : Nat) : Nat := 0x4400 + 528 * n

/-- What MSAVE and MREST touch (R193): the record, the rows of the active and of the shadow plane, the named rows, and their masks (log
149). -/
def areaPtrs (p : Word) (n : Nat) : List MxPtr :=
  ⟨p, 0, 1024, 32⟩ :: rowPtrs (p + 0x400) 0 128 128 128 1 ++ rowPtrs (p + 0x4400) 0 n 512 512 1
    ++ rowPtrs (p + 0x4400 + BitVec.ofNat 64 (512 * n)) 0 n 16 16 1

/-- Bytes of a list of E-forms, with their poison. -/
def formBytes (es : List EForm) : List (Byte × Bool) := es.flatMap (fun e => (bytesOf (efWritten e.raw).toNat 2).map (fun b => (b, e.poison)))

/-- The cells of a plane in order. -/
def planeForms (w : SMap EForm) : List EForm := (List.range 4096).map (fun i => SMap.get .zeroCell w i)

/-- A mask of 64 elements of a row. -/
def rowMask (m : Mx) (row : Nat) (f : AccEl → Bool) : Nat :=
  (List.range 64).foldl (fun acc c => if f (m.el (64 * row + c)) then acc + 2 ^ c else acc) 0

/-- The bytes MSAVE writes (R193), at array time `t`. -/
def Mx.saveBytes (m : Mx) (t row0 n : Nat) : List (Byte × Bool) :=
  let rows := (List.range n).map (fun j => (row0 + j) % 256)
  let els := rows.flatMap (fun r => (List.range 64).flatMap (fun c =>
    let e := m.el (64 * r + c); (bytesOf e.val.toNat 8).map (fun b => (b, e.poison))))
  let masks := rows.flatMap (fun r => (bytesOf (rowMask m r (·.nar)) 8 ++ bytesOf (rowMask m r (·.poison)) 8).map (fun b => (b, false)))
  (m.record t).map (fun b => (b, false)) ++ formBytes (planeForms (m.plane m.act)) ++ formBytes (planeForms (m.plane (!m.act))) ++ els ++ masks

/-- The bound of MSAVE and MREST (R193, R194). -/
def areaBound (n : Nat) : Nat := 80 + 2 * n

/-- MSAVE and MREST run in handler mode only (R192). -/
def Core.handlerOnly (k : Core) : Option SlotFault := if k.csr.hm then none else some (flt 0x03)

/-- MSAVE (R193). -/
def execMsave (o : MX) (nr : Bool) (s : State) : Host.Outcome State Fault Refusal :=
  let k0 := s.core s.cur
  let n := areaRows nr (k0.readX o.xn).val
  .next (s.slot o.ctl (some (areaBound n)) (fun k =>
    let xa := k.readX o.xa
    let els := (List.range n).flatMap (fun j => (List.range 64).map (fun c => 64 * ((o.acc.toNat + j) % 256) + c))
    let bs := (k.afterDraws .acc els).mx.saveBytes k.mt o.acc.toNat n
    orFault ([k.handlerOnly, syncFault [xa, k.readX o.xn], k.mxGated] ++ ptrFaults (areaPtrs xa.val n))
      (.ok ([.gateCancel, .pend (granPends false [] 0 (k.mt + areaBound n) (bs.length / 32 + 1) bs (offsetOf xa.val / 32))] ++ k.readDraws .acc els))))

/-- The pending elements and cells MREST restores (R194). -/
def Core.restorePends (k : Core) (off row0 n due : Nat) : List Pend :=
  let act := (List.range 4096).map (fun i => k.rawForm (off + 0x400 + 2 * i))
  let shadow := (List.range 4096).map (fun i => k.rawForm (off + 0x2400 + 2 * i))
  let rows := (List.range n).flatMap (fun j =>
    let nar := (k.viewBytes false (off + 0x4400 + 512 * n + 16 * j) 8).1
    let poi := (k.viewBytes false (off + 0x4400 + 512 * n + 16 * j + 8) 8).1
    (List.range 64).map (fun c =>
      let v := (k.viewBytes false (off + 0x4400 + 512 * j + 8 * c) 8).1
      (⟨.acc (64 * ((row0 + j) % 256) + c), BitVec.ofNat 256 (v + (if nar.testBit c then 2 ^ 64 else 0)), poi.testBit c, due, true, 0⟩ : Pend)))
  cellPends k.mx.act due act ++ cellPends (!k.mx.act) due shadow ++ rows

/-- MREST (R194). -/
def execMrest (o : MX) (nr : Bool) (s : State) : Host.Outcome State Fault Refusal :=
  let k0 := s.core s.cur
  let n := areaRows nr (k0.readX o.xn).val
  .next (s.slot o.ctl (some (areaBound n)) (fun k =>
    let xa := k.readX o.xa
    let off := offsetOf xa.val
    let u := k.afterDraws .pad (granList off (areaSize n))
    let rec' := (u.viewRun false off 1024).1
    orFault ([k.handlerOnly, syncFault [xa, k.readX o.xn], k.mxGated] ++ ptrFaults (areaPtrs xa.val n)
              ++ [if recordBad rec' then some (flt 0x14) else none])
      (k.landed (k.berthsAt off (areaSize n)) o.ctl.slot
        (.gateCancel :: .mrest rec' (u.restorePends off o.acc.toNat n (k.mt + areaBound n)) :: k.readDraws .pad (granList off (areaSize n))))))

/-- MSTAT (R188). -/
def execMstat (o : MX) (clr : Bool) (s : State) : Host.Outcome State Fault Refusal :=
  .next (s.slot o.ctl (some 2) (fun k =>
    orFault (k.mxChecks []) (.ok (.xm o.xa ⟨k.mstat, false⟩ 2 :: (if clr then [.mstatClear] else [])))))

/-- MSYNC (R189). -/
def execMsync (o : MX) (s : State) : Host.Outcome State Fault Refusal :=
  let waited : Bool := match (s.core s.cur).freeze with | some f => f.wait == .msync | none => false
  .next (s.slot o.ctl (some (if waited = true then 0 else 1)) (fun k =>
    orFault (k.mxChecks []) (if k.mxLanded && !k.mx.gate.isPending then .ok [] else .freeze .msync)))

end Sys2Proof.Machine
end

