-- ==== Sys2Proof/Machine/Shapes.lean ====
section
/-! DEFINITION. Structures an engine command captures at issue (R198-R200): shape records (R206-R209), and the checks of their
contents, of bucket descriptors (R224), dredge blocks (R229), trim blocks (R233) and of the pointers they name. -/
namespace Sys2Proof.Machine
open Sys2Proof

-- Structures in the scratchpad ----------------------------------------------------------------------------------------

/-- Item 4 of R198 for a structure of `size` bytes. -/
def structFault (p : Word) (size align : Nat) : Option SlotFault := checkRun p [0] size align

/-- The granules of a structure. -/
def structGrans (p : Word) (size : Nat) : List Nat := granList (offsetOf p) size

/-- The bytes of a structure as read at issue, its draws made (R326), and the fault of R277 when a granule of it is poisoned. -/
def Core.structBytes (k : Core) (p : Word) (size : Nat) : List Byte × Option SlotFault :=
  let r := (k.afterDraws .pad (structGrans p size)).viewRun false (offsetOf p) size
  (r.1, if r.2 then some (fltAt 0x08 p) else none)

/-- The draws of reading a structure (R326). -/
def Core.structDraws (k : Core) (p : Word) (size : Nat) : List Action := k.readDraws .pad (structGrans p size)

/-- A record fault (R198 item 5): the pointer, and the offset of the first failing field. -/
def recordFault (p : Word) (o : Option Nat) : Option SlotFault := o.map (fun n => ⟨0x13, BitVec.ofNat 16 n, p⟩)

/-- The first failing field of a list of checks in ascending offset. -/
def firstBad (cs : List (Nat × Bool)) : Option Nat := (cs.find? (fun c => c.2)).map (·.1)

/-- The offset of the first non-zero byte of a reserved field. -/
def reservedBad (bs : List Byte) (off n : Nat) : List (Nat × Bool) :=
  (List.range n).map (fun i => (off + i, bs.getD (off + i) 0 != 0))

-- Shape records (R206, Table 4) ---------------------------------------------------------------------------------------

/-- FMT. -/
def shFmt (r : List Byte) : Nat := fieldAt r 0 1
/-- RANK. -/
def shRank (r : List Byte) : Nat := fieldAt r 1 1
/-- BCODE. -/
def shBcode (r : List Byte) : Nat := fieldAt r 2 1
/-- PAD. -/
def shPad (r : List Byte) : Bool := fieldAt r 3 1 % 2 == 1
/-- BPOL. -/
def shBpol (r : List Byte) : BitVec 32 := BitVec.ofNat 32 (fieldAt r 4 4)
/-- BE. -/
def shBe (r : List Byte) : Bool := bit (shBpol r) 4
/-- The bound register. -/
def shBound (r : List Byte) : Nat := (fld (shBpol r) 0 4).toNat
/-- The poison policy. -/
def shPolicy (r : List Byte) : Nat := (fld (shBpol r) 8 2).toNat
/-- BASE. -/
def shBase (r : List Byte) : Word := BitVec.ofNat 64 (fieldAt r 8 8)
/-- SCALEP. -/
def shScalep (r : List Byte) : Word := BitVec.ofNat 64 (fieldAt r 16 8)
/-- PADV. -/
def shPadv (r : List Byte) : Nat := fieldAt r 24 8
/-- TSCALE. -/
def shTscale (r : List Byte) : Int := (BitVec.ofNat 8 (fieldAt r 32 1)).toInt
/-- BSCALE. -/
def shBscale (r : List Byte) : Byte := r.getD 33 0
/-- EXT[d]. -/
def shExt (r : List Byte) (d : Nat) : Nat := fieldAt r (48 + 12 * d) 4
/-- STR[d], signed. -/
def shStr (r : List Byte) (d : Nat) : Int := (BitVec.ofNat 64 (fieldAt r (52 + 12 * d) 8)).toInt

/-- Bytes of an element that is not block-scaled. -/
def elemBytes (f : Nat) : Nat := fmtBits f / 8
/-- Blocks of a row (R39). -/
def rowBlocks (r : List Byte) : Nat := (shExt r 0 + 31) / 32
/-- Formats a bound may be checked on (R207). -/
def boundFmt (f : Nat) : Bool := [0x10, 0x0C, 0x0D, 0x11, 0x13, 0x14, 0x15, 0x16].contains f

/-- The checks of one dimension (R207). -/
def dimBad (r : List Byte) (d : Nat) : List (Nat × Bool) :=
  let f := shFmt r
  let used := decide (d < shRank r)
  let e := shExt r d
  let t := shStr r d
  [(48 + 12 * d, if used then e == 0 else e != 0),
   (52 + 12 * d,
     if !used then t != 0
     else if fmtBlock f then
       (d == 0 && t != 0) || (d == 1 && decide (t.natAbs < rowBlocks r * fmtBlockBytes f))
     else t % (elemBytes f : Int) != 0)]

/-- The first failing field of a shape record (R207). -/
def shapeBad (r : List Byte) : Option Nat :=
  let f := shFmt r
  let b := shBpol r
  firstBad ([
    (0, fmtReserved f),
    (1, shRank r == 0 || decide (shRank r > 12)),
    (2, decide (shBcode r > 2) || (fmtBlock f != (shBcode r != 0))),
    (3, decide (fieldAt r 3 1 > 1)),
    (4, fld b 5 3 != 0#3 || shPolicy r == 3 || fld b 10 22 != 0#22 || (shBe r && !boundFmt f)),
    (16, shBcode r != 1 && shScalep r != 0),
    (32, f != 0x11 && shTscale r != 0),
    (33, shBcode r != 2 && shBscale r != 0)]
    ++ reservedBad r 34 14 ++ (List.range 12).flatMap (dimBad r))

/-- A record as a command takes it (R209): from the cache, else from the scratchpad with its effect on the cache; with its
fault. -/
def Core.takeRecord (k : Core) (p : Word) : List Byte × List Action × Option SlotFault :=
  match k.cache.find? (fun e => e.1 == p) with
  | some e => (e.2, [.cacheInstall p e.2], none)
  | none =>
    let b := k.structBytes p 192
    (b.1, k.structDraws p 192 ++ [.cacheInstall p b.1], match b.2 with | some f => some f | none => recordFault p (shapeBad b.1))

/-- Lowest and highest byte, from BASE, that some index vector addresses (R208). -/
def shapeSpan (r : List Byte) : Int × Int :=
  let blk := fmtBlock (shFmt r)
  let unit : Int := if blk then rowBlocks r * fmtBlockBytes (shFmt r) else elemBytes (shFmt r)
  (List.range (shRank r)).foldl (fun a d =>
    if blk && d == 0 then a
    else
      let t : Int := ((shExt r d : Int) - 1) * shStr r d
      (a.1 + min 0 t, a.2 + max 0 t)) (0, unit)

/-- Bytes of the scale plane (R40). -/
def scaleBytes (r : List Byte) : Nat := (List.range (shRank r)).foldl (fun n d => if d = 0 then n else n * shExt r d) (rowBlocks r)

/-- Whether a pointer's offset is beyond its space (R28) or the bytes off + lo .. off + hi - 1 leave it; a handle's are checked when the command
runs. -/
def spanOut (p : Word) (lo hi : Int) : Bool :=
  if tagOf p = 2 then false
  else
    let o : Int := (fld p 0 60).toNat
    outOfSpace p || decide (o + lo < 0) || decide (o + hi > 2 ^ spaceBits (tagOf p))

/-- Item 6 of R198 for a data pointer: tag, bytes beyond the space, alignment. -/
def dataFault (p : Word) (tags : List Nat) (lo hi : Int) (align : Nat) : Option SlotFault :=
  if !tags.contains (tagOf p) then some (fltAt 0x06 p)
  else if spanOut p lo hi then some (fltAt 0x05 p)
  else if p.toNat % align != 0 then some (fltAt 0x04 p)
  else none

/-- Item 6 of R198 for the pointers of a shape record (R207, R208). -/
def shapePtrs (r : List Byte) (tags : List Nat) : List (Option SlotFault) :=
  let sp := shapeSpan r
  let al := if fmtBlock (shFmt r) then 32 else elemBytes (shFmt r)
  [dataFault (shBase r) tags sp.1 sp.2 al,
   if shBcode r = 1 then dataFault (shScalep r) tags 0 (scaleBytes r) 1 else none]

/-- The checks of R210 between the records of a copy. -/
def copyBad (src dst : List Byte) : Option Nat :=
  let f := shFmt src
  let blk := fmtBlock f
  firstBad ([
    (0, shFmt dst != f), (1, shRank dst != shRank src), (2, blk && shBcode dst != 1),
    (32, f == 0x11 && shTscale dst != shTscale src), (48, blk && shExt dst 0 != shExt src 0)]
    ++ (if shPad src then [] else (List.range (shRank src)).map (fun d => (48 + 12 * d, decide (shExt dst d > shExt src d)))))

/-- The checks of R214 between the records of a gather. -/
def gatherBad (src dst : List Byte) : Option Nat :=
  firstBad [(0, shFmt dst != shFmt src), (1, shRank dst != 2), (48, shExt dst 0 != shExt src 0)]

-- Bucket descriptors (R224, Table 8) ----------------------------------------------------------------------------------

/-- Bytes of a bucket of `n` elements in a wire format. -/
def bucketBytes (wire n : Nat) : Nat := match wire with | 0 => 2 * n + n / 32 | 1 => n + n / 32 | _ => 8 * n

/-- COUNT of a descriptor. -/
def coCount (d : List Byte) : Nat := fieldAt d 40 8
/-- WIRE. -/
def coWire (d : List Byte) : Nat := fieldAt d 2 1
/-- OP. -/
def coOp (d : List Byte) : Nat := fieldAt d 0 1
/-- RING. -/
def coRing (d : List Byte) : Nat := fieldAt d 1 1
/-- NMEM. -/
def coNmem (d : List Byte) : Nat := fieldAt d 8 1
/-- RANK. -/
def coRank (d : List Byte) : Nat := fieldAt d 9 1
/-- SSTEP. -/
def coSstep (d : List Byte) : Nat := fieldAt d 10 1
/-- N. -/
def coN (d : List Byte) : BitVec 32 := BitVec.ofNat 32 (fieldAt d 4 4)
/-- SRC. -/
def coSrc (d : List Byte) : Word := BitVec.ofNat 64 (fieldAt d 24 8)
/-- DST. -/
def coDst (d : List Byte) : Word := BitVec.ofNat 64 (fieldAt d 32 8)
/-- STATP. -/
def coStatp (d : List Byte) : Word := BitVec.ofNat 64 (fieldAt d 48 8)
/-- RDYS byte. -/
def coRdys (d : List Byte) : BitVec 8 := d.getD 12 0
/-- RDYT. -/
def coRdyt (d : List Byte) : BitVec 32 := BitVec.ofNat 32 (fieldAt d 16 4)
/-- UNIT, signed. -/
def coUnit (d : List Byte) : Int := (d.getD 11 0).toInt

/-- The first failing field of a bucket descriptor (R224). -/
def bucketBad (d : List Byte) : Option Nat :=
  let n := coNmem d
  let bcl := d.getD 3 0
  let blk := decide (coWire d < 2)
  firstBad ([
    (0, decide (coOp d > 3)), (1, decide (coRing d > 3)), (2, decide (coWire d > 2)),
    (3, bit bcl 7 || fld bcl 5 2 == 3#2),
    (8, decide (n < 2) || decide (n > 128) || (coRing d == 3 && n != 4)),
    (9, decide (coRank d ≥ n)),
    (10, match coOp d with
      | 2 => coSstep d != 0
      | 3 => decide (coSstep d ≥ n)
      | _ => decide (coSstep d + 2 > n)),
    (11, blk && coUnit d != 0),
    (12, bit (coRdys d) 6)]
    ++ reservedBad d 13 3
    ++ [(16, if bit (coRdys d) 7 then coRdyt d == 0 else coRdyt d != 0)] ++ reservedBad d 20 4
    ++ [(40, coCount d == 0 || decide (coCount d > 2 ^ 32) || (blk && coCount d % 32 != 0))]
    ++ reservedBad d 56 8)

-- Dredge blocks (R229, Tables 11 and 12) ------------------------------------------------------------------------------

/-- RREC. -/
def drRrec (b : List Byte) : Word := BitVec.ofNat 64 (fieldAt b 0 8)
/-- MODE. -/
def drMode (b : List Byte) : Nat := fieldAt b 8 1
/-- DKIND. -/
def drDkind (b : List Byte) : Nat := fieldAt b 9 1
/-- BERTH. -/
def drBerth (b : List Byte) : Nat := fieldAt b 10 1
/-- K. -/
def drK (b : List Byte) : Nat := fieldAt b 12 2
/-- TAG. -/
def drTag (b : List Byte) : BitVec 16 := BitVec.ofNat 16 (fieldAt b 14 2)
/-- DEST. -/
def drDest (b : List Byte) : Word := BitVec.ofNat 64 (fieldAt b 16 8)
/-- TT. -/
def drTt (b : List Byte) : BitVec 16 := BitVec.ofNat 16 (fieldAt b 32 2)
/-- NT. -/
def drNt (b : List Byte) : Nat := fieldAt b 34 1
/-- FIELD of term t. -/
def tField (b : List Byte) (t : Nat) : Nat := fieldAt b (48 + 12 * t) 1
/-- CMP of term t. -/
def tCmp (b : List Byte) (t : Nat) : Nat := fieldAt b (49 + 12 * t) 1
/-- POS of term t. -/
def tPos (b : List Byte) (t : Nat) : Nat := fieldAt b (50 + 12 * t) 1
/-- WID of term t. -/
def tWid (b : List Byte) (t : Nat) : Nat := fieldAt b (51 + 12 * t) 1
/-- CONST of term t. -/
def tConst (b : List Byte) (t : Nat) : Word := BitVec.ofNat 64 (fieldAt b (52 + 12 * t) 8)

/-- Whether a format's elements are integers. -/
def intFmt (f : Nat) : Bool := f == 0x13 || f == 0x14 || f == 0x15 || f == 0x16

/-- The checks of one predicate term for a region of format f (R229). -/
def termBad (b : List Byte) (f t : Nat) : List (Nat × Bool) :=
  let o := 48 + 12 * t
  if t ≥ drNt b then reservedBad b o 12
  else
    let raw := tField b t == 3
    [(o, decide (tField b t > 3)),
     (o + 1, decide (tCmp b t > 7) || (decide (tCmp b t ≥ 6) && decide (tField b t < 2))),
     (o + 2, if raw then decide (tPos b t + tWid b t > fmtBits f) else tPos b t != 0),
     (o + 3, if raw then tWid b t == 0 || decide (tWid b t > 32) else tWid b t != 0),
     (o + 4, decide (tField b t < 2) && !intFmt f && fp32.decode (fld (tConst b t) 0 32).toNat == .nan)]

/-- The first failing field of a dredge block for a region of format f (R229). -/
def dredgeBad (b : List Byte) (f : Nat) : Option Nat :=
  firstBad ([
    (8, decide (drMode b > 3)), (9, decide (drDkind b > 1)),
    (10, if drDkind b = 0 then decide (drBerth b > 31) else drBerth b != 0)]
    ++ reservedBad b 11 1
    ++ [(12, if drMode b = 3 then drK b != 0 else drK b == 0 || decide (drK b > 1024)),
        (16, if drDkind b = 1 then tagOf (drDest b) != 2 else drDest b != 0)]
    ++ reservedBad b 24 8 ++ [(34, decide (drNt b > 4))] ++ reservedBad b 35 13
    ++ (List.range 4).flatMap (termBad b f) ++ reservedBad b 96 32)

/-- Elements of a region: the product of its extents. -/
def regionCount (r : List Byte) : Nat := (List.range (shRank r)).foldl (fun n d => n * shExt r d) 1

/-- The first failing field of a region record (R229, R353), after R207. The tag of its SCALEP is checked when the scan starts (R353). -/
def regionBad (r : List Byte) : Option Nat :=
  firstBad [
    (0, !([0x10, 0x0C, 0x0D, 0x11, 0x04, 0x13, 0x14, 0x15].contains (shFmt r))),
    (3, shPad r), (4, shBe r || shPolicy r != 0), (8, tagOf (shBase r) != 2),
    (48, decide (regionCount r > 2 ^ 48))]

-- Trim blocks (R233, Table 13) ----------------------------------------------------------------------------------------

/-- PROG. -/
def tbProg (b : List Byte) : Word := BitVec.ofNat 64 (fieldAt b 0 8)
/-- PLEN. -/
def tbPlen (b : List Byte) : Nat := fieldAt b 8 2
/-- CAP. -/
def tbCap (b : List Byte) : Nat := fieldAt b 10 1
/-- NTHR. -/
def tbNthr (b : List Byte) : Nat := fieldAt b 11 1
/-- COUNT. -/
def tbCount (b : List Byte) : Nat := fieldAt b 16 8

/-- The first failing field of a trim block (R233, R333). -/
def trimBad (b : List Byte) : Option Nat :=
  firstBad ([(8, tbPlen b == 0 || decide (tbPlen b > 1024)), (10, decide (tbCap b > 63)),
             (11, tbNthr b == 0 || decide (tbNthr b > 16))]
    ++ reservedBad b 12 4 ++ [(16, decide (tbCount b > 2 ^ 32))] ++ reservedBad b 56 8)

end Sys2Proof.Machine
end

