-- ==== Sys2Proof/Machine/Engine.lean ====
section
/-! DEFINITION. The CP slot (R196-R234, R313): the checks of a command at issue and what it captures. Its running is in
Machine/Copy.lean, Delivery.lean, Fabric.lean, Collective.lean, Dredge.lean and Trimmer.lean. -/
namespace Sys2Proof.Machine
open Sys2Proof

/-- The register values of a CP slot (R196); a register the command does not use reads 0. -/
structure CpRegs where
  xs : XW
  xs1 : XW
  xd : XW
  xd1 : XW

/-- Reads the registers of a CP slot: Xs, X(s+1) of a pair, Xd, X(d+1) of a pair. -/
def Core.cpRegs (k : Core) (o : CP) (sPair dUsed dPair : Bool) : CpRegs :=
  let z : XW := ⟨0, false⟩
  ⟨k.readX o.xs, if sPair then k.readX (o.xs + 1) else z, if dUsed then k.readX o.xd else z, if dPair then k.readX (o.xd + 1) else z⟩

/-- A command as captured at issue (R200). -/
def Core.newCmd (k : Core) (o : CP) (i : Instr) (r : CpRegs) : Cmd :=
  { id := 0, ins := i, xs := r.xs.val, xs1 := r.xs1.val, xd := r.xd.val, xd1 := r.xd1.val, blocks := [], bnd := k.csr.bnd,
    bndmode := k.csr.bndmode, collto := k.csr.collto, seed := k.csr.srseed, cls := o.cls, sem := o.sem, task := k.task,
    ar := k.arBits o.ctl,
    arKey := (match levelOf k.csr.ardom with | some l => k.csr.domOf l | none => 0), after := [], mxSeq := [], mxDue := 0, covers := [], issued := 0,
    started := false, startAt := 0, pos := 0, met := [], osat := false, ozero := false, hits := 0, accepted := 0,
    refused := 0, delivering := false, hold := none, stopping := false, finished := false, plane := k.act, gens := [],
    got := [], bufs := [], wrote := 0, parts := [], data := ⟨[], []⟩, nums := [] }

/-- What a command's own rule adds to its issue: its checks in the order of R198, what it captures, its effects on the record
cache. -/
structure CpForm where
  checks : List (Option SlotFault)
  fill : Cmd → Cmd
  acts : List Action

/-- Item 7 of R198: a full queue freezes the task and traps a handler (R199). -/
def Core.cpQueue (k : Core) (as : List Action) : SlotOut :=
  if k.queue.length < 32 then .ok as else if k.csr.hm then .fault (flt 0x16) else .freeze .queue

/-- Issues a command that takes a queue entry. -/
def State.cpIssue (s : State) (o : CP) (i : Instr) (sPair dUsed dPair : Bool) (f : Core → CpRegs → CpForm) : State :=
  s.slot o.ctl none (fun k =>
    let r := k.cpRegs o sPair dUsed dPair
    let g := f k r
    orFault (syncFault [r.xs, r.xs1, r.xd, r.xd1] :: g.checks)
      (k.cpQueue (g.acts ++ [.command (g.fill (k.newCmd o i r))])))

/-- The commands of the queue that `p` selects: a later command waits for them. -/
def Core.waitFor (k : Core) (p : Cmd → Bool) : List Nat := (k.queue.filter p).map (·.id)

/-- Item 6 of R198 for a pointer with its length (R211, R216, R217, R221), whose least value is 0 or 32. -/
def dataLenFault (p : Word) (tags : List Nat) (n lo hi align : Nat) : Option SlotFault :=
  if !tags.contains (tagOf p) then some (fltAt 0x06 p)
  else if spanOut p 0 n then some (fltAt 0x05 p)
  else if (n = 0 ∧ lo ≠ 0) ∨ n > hi then some (fltAt 0x05 p)
  else if p.toNat % align != 0 then some (fltAt 0x04 p)
  else if n % 32 != 0 then some (fltAt 0x04 p)
  else none

-- Copies (R210-R214) --------------------------------------------------------------------------------------------------

/-- The checks of a CPYT on its two records, and what it captures (R198, R210). -/
def Core.copyForm (k : Core) (xs xd : Word) : CpForm :=
  let a := k.takeRecord xs
  let b := k.takeRecord xd
  { checks := [structFault xs 192 32, structFault xd 192 32, a.2.2, b.2.2, recordFault xd (copyBad a.1 b.1)]
      ++ shapePtrs a.1 [0, 1, 2, 3] ++ shapePtrs b.1 [0, 1, 2],
    fill := fun q => { q with blocks := [a.1, b.1] },
    acts := a.2.1 ++ b.2.1 }

/-- CPYT (R210). -/
def execCpyt (o : CP) (s : State) : Host.Outcome State Fault Refusal :=
  .next (s.cpIssue o (.cpyt o) false true false (fun k r => k.copyForm r.xs.val r.xd.val))

/-- Length of a CPYL or MIGR: X(s+1)[39:0]. -/
def len40 (x : Word) : Nat := (fld x 0 40).toNat
/-- Length of the other commands: X(s+1)[31:0]. -/
def len32 (x : Word) : Nat := (fld x 0 32).toNat

/-- CPYL (R211). -/
def execCpyl (o : CP) (s : State) : Host.Outcome State Fault Refusal :=
  .next (s.cpIssue o (.cpyl o) true true false (fun _ r =>
    let n := len40 r.xs1.val
    { checks := [dataLenFault r.xs.val [0, 1, 2, 3] n 0 (2 ^ 40) 32, dataFault r.xd.val [0, 1, 2] 0 n 32], fill := id, acts := [] }))

/-- CPYL in berth form (R212). -/
def execCpylBerth (o : CP) (s : State) : Host.Outcome State Fault Refusal :=
  .next (s.cpIssue o (.cpylBerth o) true true false (fun _ r =>
    { checks := [dataLenFault r.xs.val [0, 1, 2, 3] (len40 r.xs1.val) 32 524288 32], fill := id, acts := [] }))

/-- MCAST (R216). -/
def execMcast (o : CP) (s : State) : Host.Outcome State Fault Refusal :=
  .next (s.cpIssue o (.mcast o) true true true (fun _ r =>
    let st := (fld r.xd.val 48 15).toNat
    { checks := [if st > 0x3FFF then some (fltAt 0x05 (BitVec.ofNat 64 (32 * st))) else none,
                 dataLenFault r.xs.val [0, 1, 2, 3] (len32 r.xs1.val) 32 524288 1], fill := id, acts := [] }))

/-- GTHR (R214). -/
def execGthr (o : CP) (s : State) : Host.Outcome State Fault Refusal :=
  .next (s.cpIssue o (.gthr o) true true false (fun k r =>
    let a := k.takeRecord r.xs.val
    let b := k.takeRecord r.xd.val
    { checks := [structFault r.xs.val 192 32, structFault r.xd.val 192 32, structFault r.xs1.val (4 * shExt b.1 1) 4, a.2.2, b.2.2,
                 recordFault r.xs.val (if shRank a.1 = 2 then none else some 1), recordFault r.xd.val (gatherBad a.1 b.1)]
        ++ shapePtrs a.1 [0, 2, 3] ++ shapePtrs b.1 [0, 2],
      fill := fun q => { q with blocks := [a.1, b.1] }, acts := a.2.1 ++ b.2.1 }))

-- Messages (R217-R219) ------------------------------------------------------------------------------------------------

/-- Whether two target words name the same berth of the same core. -/
def sameBerth (a b : Word) : Bool := (fld a 0 11 == fld b 0 11) && (fld a 16 5 == fld b 16 5)

/-- SEND (R217): it follows earlier SENDs to its berth. -/
def execSend (o : CP) (sig : Bool) (s : State) : Host.Outcome State Fault Refusal :=
  .next (s.cpIssue o (.send o sig) true true false (fun k r =>
    { checks := [dataLenFault r.xs.val [0, 1, 3] (len32 r.xs1.val) 32 65536 1],
      fill := fun q => { q with after := k.waitFor (fun p => match p.ins with | .send .. => sameBerth p.xd r.xd.val | _ => false) },
      acts := [] }))

/-- SENDS (R218, R379): it follows earlier SENDS on its lane. -/
def execSends (o : CP) (s : State) : Host.Outcome State Fault Refusal :=
  .next (s.cpIssue o (.sends o) true true false (fun k r =>
    { checks := [dataLenFault r.xs.val [0, 1, 3] (len32 r.xs1.val) 32 65536 1],
      fill := fun q => { q with after := k.waitFor (fun p =>
        match p.ins with | .sends _ => fld p.xd 11 5 == fld r.xd.val 11 5 | _ => false) },
      acts := [] }))

/-- SEMR (R219): a release for its class (R272). -/
def execSemr (o : CP) (s : State) : Host.Outcome State Fault Refusal :=
  .next (s.cpIssue o (.semr o) false true false (fun k _ =>
    { checks := [], fill := fun q => { q with after := k.waitFor (fun p => p.cls == o.cls) }, acts := [] }))

-- Fabric operations (R220-R223) ---------------------------------------------------------------------------------------

/-- FWR (R221). -/
def execFwr (o : CP) (s : State) : Host.Outcome State Fault Refusal :=
  .next (s.cpIssue o (.fwr o) true true false (fun _ r =>
    { checks := [dataLenFault r.xs.val [0, 1, 2, 3] (len32 r.xs1.val) 32 (2 ^ 32) 32, dataFault r.xd.val [2] 0 0 32], fill := id, acts := [] }))

/-- FWR in berth form (R313). -/
def execFwrBerth (o : CP) (s : State) : Host.Outcome State Fault Refusal :=
  .next (s.cpIssue o (.fwrBerth o) true true true (fun _ r =>
    { checks := [dataLenFault r.xs.val [0, 1, 2, 3] (len32 r.xs1.val) 32 (2 ^ 32) 32, dataFault r.xd.val [2] 0 0 32], fill := id, acts := [] }))

/-- FFAA (R222). -/
def execFfaa (o : CP) (s : State) : Host.Outcome State Fault Refusal :=
  .next (s.cpIssue o (.ffaa o) false true true (fun _ r =>
    { checks := [structFault r.xd1.val 8 8, dataFault r.xd.val [2] 0 8 8], fill := id, acts := [] }))

/-- The peer package a tag 0x2 pointer of core c names. -/
def State.peerOf (s : State) (c : CoreId) (p : Word) : Option (BitVec 21) :=
  let e := s.handle (s.core c).part (ptrHandle p)
  if hSpace e == 2 then some (fld (hAux e) 0 21) else none

/-- The commands an FFLG covers (R223). -/
def State.coveredBy (s : State) (c : CoreId) (p : Word) : List Nat :=
  (s.core c).waitFor (fun q =>
    match q.ins with
    | .fwr _ => s.peerOf c q.xd == s.peerOf c p
    | .fwrBerth _ => s.peerOf c q.xd == s.peerOf c p
    | .ffaa _ => s.peerOf c q.xd == s.peerOf c p
    | _ => false)

/-- The form of an FFLG of either kind. -/
def State.flagForm (s : State) (r : CpRegs) : CpForm :=
  { checks := [dataFault r.xd.val [2] 0 8 8], fill := fun q => { q with covers := s.coveredBy s.cur r.xd.val }, acts := [] }

/-- FFLG (R223). -/
def execFflg (o : CP) (s : State) : Host.Outcome State Fault Refusal :=
  .next (s.cpIssue o (.fflg o) false true false (fun _ r => s.flagForm r))
/-- FFLG with ADD (R223). -/
def execFflgAdd (o : CP) (s : State) : Host.Outcome State Fault Refusal :=
  .next (s.cpIssue o (.fflgAdd o) false true false (fun _ r => s.flagForm r))

-- Collectives, dredge, migration, snapshots, sweeps -------------------------------------------------------------------

/-- COLL (R224, R228): it follows earlier COLLs of its core. -/
def execColl (o : CP) (s : State) : Host.Outcome State Fault Refusal :=
  .next (s.cpIssue o (.coll o) false false false (fun k r =>
    let d := k.structBytes r.xs.val 64
    let n : Int := bucketBytes (coWire d.1) (coCount d.1)
    { checks := [structFault r.xs.val 64 32, d.2, if coStatp d.1 = 0 then none else structFault (coStatp d.1) 32 32,
                 recordFault r.xs.val (bucketBad d.1), dataFault (coSrc d.1) [0, 2] 0 n 32, dataFault (coDst d.1) [0, 2] 0 n 32],
      fill := fun q => { q with blocks := [d.1], after := k.waitFor (fun p => match p.ins with | .coll _ => true | _ => false) },
      acts := k.structDraws r.xs.val 64 }))

/-- DRG (R229). -/
def execDrg (o : CP) (s : State) : Host.Outcome State Fault Refusal :=
  .next (s.cpIssue o (.drg o) false false false (fun k r =>
    let b := k.structBytes r.xs.val 128
    let g := k.takeRecord (drRrec b.1)
    { checks := [structFault r.xs.val 128 32, b.2, structFault (drRrec b.1) 192 32, g.2.2, recordFault (drRrec b.1) (regionBad g.1),
                 recordFault r.xs.val (dredgeBad b.1 (shFmt g.1))] ++ (shapePtrs g.1 [2]).take 1,
      fill := fun q => { q with blocks := [b.1, g.1] }, acts := k.structDraws r.xs.val 128 ++ g.2.1 }))

/-- The form of a MIGR of either kind (R231). -/
def migrForm (r : CpRegs) : CpForm :=
  let n := len40 r.xs1.val
  { checks := [if tagOf r.xs.val = 2 then none else some (fltAt 0x06 r.xs.val),
               if n = 0 then some (fltAt 0x05 r.xs.val) else none,
               if offsetOf r.xs.val % 65536 = 0 ∧ n % 65536 = 0 then none else some (fltAt 0x04 r.xs.val),
               dataFault r.xd.val [2] 0 0 65536],
    fill := id, acts := [] }

/-- MIGR (R231). -/
def execMigr (o : CP) (s : State) : Host.Outcome State Fault Refusal :=
  .next (s.cpIssue o (.migr o) true true true (fun _ r => migrForm r))
/-- MIGR with REMAP (R231, R319). -/
def execMigrRemap (o : CP) (s : State) : Host.Outcome State Fault Refusal :=
  .next (s.cpIssue o (.migrRemap o) true true true (fun _ r => migrForm r))

/-- The form of a SNAP of either kind (R232, R361, R362): it follows every earlier command but TRIM and COLL, and every matrix
write. `xs1` keeps the DOM value. -/
def Core.snapForm (k : Core) (l : Level) : CpForm :=
  { checks := [if domV (k.csr.domOf l) then none else some (fltAt 0x01 (0x020 + BitVec.ofNat 64 (l.ix.val + 1)))],
    fill := fun q => { q with
      xs1 := k.csr.domOf l, mxSeq := [k.mxSpan], mxDue := k.mx.otherDue,
      after := k.waitFor (fun p => match p.ins with | .trim _ => false | .coll _ => false | _ => true) },
    acts := [] }

/-- SNAP (R232). -/
def execSnap (o : CP) (level : Level) (s : State) : Host.Outcome State Fault Refusal :=
  .next (s.cpIssue o (.snap o level) false true false (fun k _ => k.snapForm level))
/-- SNAP with SEAL (R232). -/
def execSnapSeal (o : CP) (level : Level) (s : State) : Host.Outcome State Fault Refusal :=
  .next (s.cpIssue o (.snapSeal o level) false true false (fun k _ => k.snapForm level))

/-- TRIM (R233, R333): it follows earlier TRIMs of its core. -/
def execTrim (o : CP) (s : State) : Host.Outcome State Fault Refusal :=
  .next (s.cpIssue o (.trim o) false false false (fun k r =>
    let b := k.structBytes r.xs.val 64
    { checks := [structFault r.xs.val 64 32, b.2, recordFault r.xs.val (trimBad b.1), structFault (tbProg b.1) (4 * tbPlen b.1) 32],
      fill := fun q => { q with blocks := [b.1], after := k.waitFor (fun p => isTrim p.ins) }, acts := k.structDraws r.xs.val 64 }))

/-- RCF (R209): no queue entry. -/
def execRcf (o : CP) (s : State) : Host.Outcome State Fault Refusal :=
  .next (s.slot o.ctl (some 1) (fun k =>
    let x := k.readX o.xs
    orFault [syncFault [x], if o.xs = 0 then none else structFault x.val 192 32]
      (.ok [.cacheDrop (if o.xs = 0 then none else some x.val)])))

/-- CPAB (R234). -/
def execCpab (o : CP) (s : State) : Host.Outcome State Fault Refusal :=
  .next (s.cpIssue o (.cpab o) false false false (fun _ _ => { checks := [], fill := id, acts := [] }))

-- Starting (R201, R266, R275) -----------------------------------------------------------------------------------------

/-- Whether the order of its class, the commands it waits for, and matrix writes let a command start (R201, R243, R266, R275). A
TRIM is held while its task is out (R204). -/
def Core.mayStart (k : Core) (q : Cmd) : Bool :=
  !q.started
    && (k.queue.takeWhile (fun p => p.id != q.id)).all (fun p => p.cls != q.cls || p.started || isCpab p.ins)
    && q.after.all (fun i => !k.queue.any (fun p => p.id == i))
    && !k.mxWrites q.mxSeq q.mxDue
    && !(isTrim q.ins && (k.suspended.any (fun u => u.task == q.task)
          || (k.run != .running && k.run != .idle && k.task == q.task)))

/-- The class bits whose buffered stores a start performs for all agents (R266): its own class, and those of the fences that hold
the command. -/
def Core.startMask (k : Core) (q : Cmd) : BitVec 16 :=
  (k.fences.filter (fun f => f.mask.getLsbD q.cls.toNat)).foldl (fun m f => m ||| f.mask)
    (if isSnap q.ins then BitVec.allOnes 16 else 1#16 <<< q.cls.toNat)

/-- Marks a command as started: the stores it follows are performed for all agents. -/
def State.begin (s : State) (c : CoreId) (q : Cmd) : State :=
  s.modCore c (fun k =>
    let m := k.startMask q
    (k.flush (fun b => m.getLsbD b.cls.toNat)).setCmd { q with started := true, startAt := s.tnow })

/-- Changes a command in place. -/
def State.modCmd (s : State) (c : CoreId) (id : Nat) (f : Cmd → Cmd) : State :=
  s.modCore c (fun k => { k with queue := k.queue.map (fun q => if q.id = id then f q else q) })

/-- Ends the work of a command: it completes with the first of the statuses met (R203, Table 3). -/
def State.finish (s : State) (c : CoreId) (id : Nat) (met : List Status) : State :=
  s.modCmd c id (fun q => { q with finished := true, hold := none, met := q.met ++ met })

/-- The first status of Table 3 (R203) among those met. -/
def firstStatus (met : List Status) : Status :=
  ([Status.aborted, .rights, .page, .link, .timeout, .record, .poison, .partial_].find? (fun st => met.contains st)).getD .ok

/-- CommandOpcode of a fault record (R316). -/
def cmdOp (i : Instr) : BitVec 8 :=
  match i with
  | .cpyt _ => 1 | .cpyl _ => 2 | .cpylBerth _ => 2 | .mcast _ => 3 | .gthr _ => 4 | .send .. => 5 | .sends _ => 6 | .semr _ => 7
  | .fwr _ => 8 | .fwrBerth _ => 8 | .ffaa _ => 9 | .fflg _ => 10 | .fflgAdd _ => 10 | .coll _ => 11 | .drg _ => 12 | .migr _ => 13
  | .migrRemap _ => 13 | .snap .. => 14 | .snapSeal .. => 14 | .trim _ => 15 | _ => 0

/-- The handle uses of a command: pointer, lowest and highest offset from it, use. -/
structure Touch where
  p : Word
  lo : Int
  hi : Int
  use : Use

/-- Whether every handle a command touches passes its check (R309). -/
def State.touchesOk (s : State) (c : CoreId) (ts : List Touch) : Bool :=
  ts.all (fun t => tagOf t.p != 2 ||
    (let o : Int := (offsetOf t.p : Int) + t.lo
     decide (0 ≤ o) && s.handleOk c (ptrHandle t.p) o.toNat (t.hi - t.lo).toNat t.use))

/-- The generations of the handles a command binds (R310). -/
def State.bindGens (s : State) (c : CoreId) (ts : List Touch) : List (BitVec 12 × BitVec 16) :=
  (ts.filter (fun t => tagOf t.p == 2)).map (fun t => (ptrHandle t.p, hGen (s.handle (s.core c).part (ptrHandle t.p))))

/-- Whether the handle a pointer names, if a command bound it, still has the generation it bound (R310). -/
def State.genOk (s : State) (c : CoreId) (q : Cmd) (p : Word) : Bool :=
  tagOf p != 2 || q.gens.all (fun g => g.1 != ptrHandle p || hGen (s.handle (s.core c).part g.1) == g.2)

/-- The range registers fill with the entries a command touches, least recently used out first (R311). -/
def Core.fillRanges (k : Core) (es : List (BitVec 12 × BitVec 256)) : Core :=
  { k with ranges := es.foldl (fun rs e => let l := rs.filter (fun r => r.1 != e.1) ++ [e]; l.drop (l.length - 16)) k.ranges }

/-- Starts a command whose handles are checked first: RIGHTS, or bound. -/
def State.startChecked (s : State) (c : CoreId) (q : Cmd) (ts : List Touch) : State :=
  let s1 := s.begin c q
  if s.touchesOk c ts then
    let es := (ts.filter (fun t => tagOf t.p == 2)).map (fun t => (ptrHandle t.p, s.handle (s.core c).part (ptrHandle t.p)))
    (s1.modCmd c q.id (fun q => { q with gens := s.bindGens c ts })).modCore c (fun k => k.fillRanges es)
  else s1.finish c q.id [.rights]

/-- Carries a unit of work's outcome into a command: done with its new value, ended, or held with the report a hold calls for. -/
def settleUnit (c : CoreId) (q : Cmd) (r : Res Cmd) : State :=
  match r with
  | .ok s1 q1 => (s1.dropFault q.hold).modCmd c q.id (fun r => { q1 with hold := none, got := r.got })
  | .stop s1 st => (s1.dropFault q.hold).finish c q.id [st]
  | .hold s1 h => (s1.modCmd c q.id (fun q => { q with hold := some h.why })).reportOwn h c (cmdOp q.ins) q.cls

/-- One unit of work of a running command (R202, R316): `f` does it, given the tick since which it waits on M. What a held unit has read and
written stays (R315). -/
def State.unit (s : State) (c : CoreId) (q : Cmd) (f : State → Option MWait → Res Cmd) : State :=
  match s.holdNow q.hold with
  | .still => s
  | .page => (s.dropFault q.hold).finish c q.id [.page]
  | .retry since => settleUnit c q (f s since)

/-- The place some bytes from a pointer of a running command; RIGHTS when the pointer's handle has been rebound since (R310). -/
def State.via (s : State) (c : CoreId) (q : Cmd) (p : Word) (off : Int) : Res Place :=
  if s.genOk c q p then .ok s ((s.resolve c q.plane p).plus off) else .stop s .rights

/-- Reads the aligned granule at a place once for a command (R202): a granule already read is not read again. -/
def State.readOnce (s : State) (c : CoreId) (q : Cmd) (pl : Place) (since : Option MWait) : Res (Gran × Bool) :=
  match ((s.core c).cmd q.id).bind (fun r => r.got.find? (fun g => g.1 == pl)) with
  | some g => .ok s (g.2.1, g.2.2)
  | none => (s.readG pl since).bind fun s v => .ok (s.modCmd c q.id (fun r => { r with got := r.got ++ [(pl, v.1, v.2)] })) (v.1, v.2)

/-- Reads a run of source bytes from a pointer for a command, each granule once (R202): each byte with the poison of its granule. -/
def State.readSrc (s : State) (c : CoreId) (q : Cmd) (p : Word) (off : Int) (n : Nat) (since : Option MWait) : Res (List (Byte × Bool)) :=
  (s.via c q p off).bind fun s pl =>
    (granSplit pl.addr n).foldl (fun r g => r.bind fun s acc =>
      (s.readOnce c q (pl.at_ g.1) since).bind fun s v =>
        .ok s (acc ++ (((bytesOf v.1.toNat 32).drop g.2.1).take g.2.2).map (fun b => (b, v.2)))) (.ok s [])

/-- The bytes of a flagged run. -/
def plainBytes (bs : List (Byte × Bool)) : List Byte := bs.map (·.1)
/-- The number a flagged run holds. -/
def flaggedNat (bs : List (Byte × Bool)) : Nat := leNat (plainBytes bs)
/-- Whether a flagged run has poison. -/
def flaggedBad (bs : List (Byte × Bool)) : Bool := bs.any (·.2)

/-- Writes bytes that carry poison to a pointer's place for a command: a granule that takes a poisoned byte is poisoned (R276). -/
def State.writeDst (s : State) (c : CoreId) (q : Cmd) (p : Word) (off : Int) (bs : List (Byte × Bool)) (since : Option MWait) : Res Unit :=
  (s.via c q p off).bind fun s pl =>
    (granSplit pl.addr bs.length).foldl (fun r g => r.bind fun s _ =>
      let here := (bs.drop (g.1 + g.2.1 - pl.addr)).take g.2.2
      s.writeG (pl.at_ g.1) (BitVec.ofNat 256 (flaggedNat here * 2 ^ (8 * g.2.1))) (runMask g.2.1 g.2.2) (flaggedBad here) since) (.ok s ())

/-- Forgets what a command has read but its last granule, when nothing before it is read again. -/
def State.forget (s : State) (c : CoreId) (q : Cmd) : State := s.modCmd c q.id (fun r => { r with got := r.got.drop (r.got.length - 1) })

end Sys2Proof.Machine
end

