-- ==== Sys2Proof/Machine/Copy.lean ====
section
/-! DEFINITION. Running copies (R202, R205, R208, R210-R214): what a unit of CPYT, GTHR and CPYL does. -/
namespace Sys2Proof.Machine
open Sys2Proof

-- Bounds on engine destinations (R205) --------------------------------------------------------------------------------

/-- The exact value of an element of a format a bound may be checked on, under a per-tensor scale. -/
def boundVal (f : Nat) (t : Int) (x : Nat) : XVal :=
  if intFmt f then (let i := sgn (fmtBits f) x; .fin (i < 0) i.natAbs 0)
  else match f with
    | 0x10 => fp32.decode x | 0x0C => bf16.decode x | 0x0D => fp16.decode x
    | _ => lgmValue (BitVec.ofNat 16 x) t

/-- The value of a format nearest a bound on the inner side, else the format's extreme (R161). -/
def boundTo (f : Nat) (t : Int) (up : Bool) (v : XVal) : Nat :=
  if intFmt f then
    let n := fmtBits f
    match v with
    | .inf neg => if neg then 2 ^ (n - 1) else 2 ^ (n - 1) - 1
    | v => wrap n (clampInt (-(2 ^ (n - 1) : Nat)) ((2 ^ (n - 1) : Nat) - 1) (roundInt (if up then .rup else .rdn) v)).1
  else
    match f with
    | 0x10 => (fp32.round (if up then .rup else .rdn) v).bits
    | 0x0C => (bf16.round (if up then .rup else .rdn) v).bits
    | 0x0D => (fp16.round (if up then .rup else .rdn) v).bits
    | _ => lgmToward up (v.scale (-t))

/-- The bound check of an element about to be written (R205): its bits, whether it hit, whether the command becomes PARTIAL. -/
def boundElem (q : Cmd) (dst : List Byte) (x : Nat) (bad : Bool) : Nat × Bool × Bool :=
  let i := shBound dst
  let mode := bndMode q.bndmode i
  if !shBe dst || mode == 0 then (x, false, false)
  else
    let b := q.bnd.toList.getD i 0
    let f := shFmt dst
    let t := shTscale dst
    let v := boundVal f t x
    let lo := bndLo b
    let hi := bndHi b
    let low := bad || v == .nan || (lo != .nan && v.lt lo)
    let high := hi != .nan && hi.lt v
    let out := low || high || lo == .nan || hi == .nan
    let y := if mode == 1 then x
      else if low then boundTo f t true (if lo == .nan then .inf false else lo)
      else if high then boundTo f t false hi else x
    (y, out, out && mode == 3)

-- Destination granules ------------------------------------------------------------------------------------------------

/-- What is collected for one destination granule. -/
structure Patch where
  val : Gran
  mask : BitVec 32
  bad : Bool
deriving DecidableEq, Repr

/-- A run of bytes to be written: where, how many, their value, and whether they carry poison. -/
structure Run' where
  at_ : Place
  n : Nat
  v : Nat
  bad : Bool
deriving DecidableEq, Repr

/-- The granule of a place. -/
def Place.granule (p : Place) : Place := p.at_ (p.addr / 32 * 32)

/-- Adds to a patch what of a run lies in granule `g`. -/
def Patch.put (p : Patch) (g : Place) (r : Run') : Patch :=
  (granSplit r.at_.addr r.n).foldl (fun p x =>
    if r.at_.at_ x.1 == g then
      ⟨merge p.val (BitVec.ofNat 256 ((r.v >>> (8 * (x.1 + x.2.1 - r.at_.addr))) % 2 ^ (8 * x.2.2) * 2 ^ (8 * x.2.1))) (runMask x.2.1 x.2.2),
        p.mask ||| runMask x.2.1 x.2.2, p.bad || r.bad⟩
    else p) p

-- Elements ------------------------------------------------------------------------------------------------------------

/-- The index vector of a position in a record's traversal, i0 fastest (R208). -/
def indexOf (r : List Byte) (n : Nat) : List Nat :=
  ((List.range (shRank r)).foldl (fun a d => (a.1 ++ [a.2 % max 1 (shExt r d)], a.2 / max 1 (shExt r d))) (([] : List Nat), n)).1
/-- Byte offset of an index vector from BASE, over the dimensions from `d0` on. -/
def offsetIx (r : List Byte) (d0 : Nat) (ix : List Nat) : Int :=
  ((List.range (shRank r)).map (fun d => if d < d0 then 0 else (ix.getD d 0 : Int) * shStr r d)).sum
/-- The row's linear index over dimensions 1 and up (R40). -/
def rowIx (r : List Byte) (ix : List Nat) : Nat :=
  ((List.range (shRank r)).reverse.filter (fun d => decide (0 < d))).foldl (fun n d => n * shExt r d + ix.getD d 0) 0

/-- Where an element's source is. -/
inductive Src where
  | at_ (ix : List Nat) | pad | skip | poison
deriving DecidableEq, Repr

/-- The source of a destination index vector in a copy (R210). -/
def copySrc (src : List Byte) (d0 : Nat) (ix : List Nat) : Src :=
  if (List.range (shRank src)).all (fun d => decide (d < d0) || decide (ix.getD d 0 < shExt src d)) then .at_ ix else .pad

/-- The source of a destination row of a gather (R214): the index is read once. -/
def State.gatherSrc (s : State) (c : CoreId) (q : Cmd) (src : List Byte) (ix : List Nat) (since : Option MWait) : Res Src :=
  (s.readSrc c q q.xs1 (4 * ix.getD 1 0 : Nat) 4 since).bind fun s r =>
    let i := flaggedNat r
    .ok s (if flaggedBad r then .poison else if i < shExt src 1 then .at_ [ix.getD 0 0, i] else if shPad src then .pad else .skip)

/-- Whether a command is a gather. -/
def isGthr (i : Instr) : Bool := match i with | .gthr _ => true | _ => false

/-- The source of an index vector, of a copy or a gather. A gather's row is checked against its handle when it is known (R309). -/
def State.elemSrc (s : State) (c : CoreId) (q : Cmd) (src : List Byte) (d0 : Nat) (ix : List Nat) (since : Option MWait) : Res Src :=
  if isGthr q.ins then
    (s.gatherSrc c q src ix since).bind fun s r =>
      match r with
      | .at_ jx =>
        let lo := offsetIx src 1 jx
        let n : Int := if fmtBlock (shFmt src) then rowBlocks src * fmtBlockBytes (shFmt src) else elemBytes (shFmt src)
        let lo' := if fmtBlock (shFmt src) then lo else offsetIx src 0 jx
        let row : Nat := rowIx src jx * rowBlocks src
        let sc : List Touch := if shBcode src = 1 then [⟨shScalep src, row, (row + rowBlocks src : Nat), .src⟩] else []
        if s.touchesOk c (⟨shBase src, lo', lo' + n, .src⟩ :: sc) then .ok s (.at_ jx) else .stop s .rights
      | k => .ok s k
  else .ok s (copySrc src d0 ix)

/-- What a poisoned element becomes (R213): bits, poison, and whether POISON is met. -/
def policyElem (src : List Byte) (x : Nat) (bad : Bool) : Nat × Bool × Bool :=
  if !bad then (x, false, false) else if shPolicy src = 2 then (shPadv src, false, true) else (x, true, true)

/-- Meets a status. -/
def Cmd.meet (q : Cmd) (st : Status) : Cmd := if q.met.contains st then q else { q with met := q.met ++ [st] }

/-- Counts an element's report into its command. -/
def Cmd.noteElem (q : Cmd) (dst : List Byte) (poison hit trap : Bool) : Cmd :=
  let q1 := if poison then q.meet .poison else q
  let q2 := if trap then q1.meet .partial_ else q1
  { q2 with hits := if hit then q2.hits ||| (1#16 <<< shBound dst) else q2.hits }

/-- The place of an element of the destination. -/
def State.elemPlace (s : State) (c : CoreId) (q : Cmd) (dst : List Byte) (n : Nat) : Place :=
  (s.resolve c q.plane (shBase dst)).plus (offsetIx dst 0 (indexOf dst n))

/-- One element of a copy that is not block-scaled (R210, R213, R214, R205): what it writes. -/
def State.copyElem (s : State) (c : CoreId) (q : Cmd) (src dst : List Byte) (n : Nat) (since : Option MWait) : Res (Cmd × List Run') :=
  let z := elemBytes (shFmt dst)
  let put (s : State) (q : Cmd) (x : Nat) (bad : Bool) : Res (Cmd × List Run') :=
    let e := policyElem src x bad
    let b := boundElem q dst (e.1 % 2 ^ (8 * z)) e.2.1
    .ok s (q.noteElem dst e.2.2 b.2.1 b.2.2, [⟨s.elemPlace c q dst n, z, b.1, e.2.1⟩])
  (s.elemSrc c q src 0 (indexOf dst n) since).bind fun s r =>
    match r with
    | .skip => .ok s (q.meet .record, [])
    | .pad => put s (if isGthr q.ins then q.meet .record else q) (shPadv src) false
    | .poison => put s q 0 true
    | .at_ jx => (s.readSrc c q (shBase src) (offsetIx src 0 jx) z since).bind fun s v => put s q (flaggedNat v) (flaggedBad v)

-- Blocks --------------------------------------------------------------------------------------------------------------

/-- The bits of a block with `n` real elements under the poison policy: value, which elements carry poison, whether POISON is met. -/
def blockElems (src : List Byte) (f v n : Nat) (bad : Nat → Bool) : Nat × (Nat → Bool) × Bool :=
  let b := fmtBits f
  let es := (List.range 32).map (fun j =>
    if j ≥ n then (0, false, false)
    else let e := policyElem src ((v >>> (b * j)) % 2 ^ elemBits f) (bad j); (e.1 % 2 ^ elemBits f, e.2))
  ((es.zip (List.range 32)).foldl (fun a p => a + p.1.1 * 2 ^ (b * p.2)) 0, fun j => (es.getD j (0, false, false)).2.1, es.any (fun e => e.2.2))

/-- The bits of a block every element of which is PADV. -/
def padBlock (src : List Byte) (f : Nat) : Nat := (List.range 32).foldl (fun a j => a + shPadv src % 2 ^ elemBits f * 2 ^ (fmtBits f * j)) 0

/-- The bytes of a block, each poisoned where an element carrying poison reaches it. -/
def blockRuns (pl : Place) (f v : Nat) (bad : Nat → Bool) : List Run' :=
  (List.range (fmtBlockBytes f)).map (fun i =>
    let p := (List.range 32).any (fun j => bad j && decide (fmtBits f * j < 8 * i + 8) && decide (8 * i < fmtBits f * j + fmtBits f))
    ⟨pl.plus (i : Nat), 1, v >>> (8 * i) % 256, p⟩)

/-- The index vector of the row of a block by its position, and its place in the row. -/
def blockIx (dst : List Byte) (n : Nat) : List Nat × Nat :=
  (0 :: (indexOf (dst.take 48 ++ bytesOf 1 4 ++ dst.drop 52) (n / rowBlocks dst)).drop 1, n % rowBlocks dst)

/-- The places of a block of the destination and of its scale byte. -/
def State.blockPlaces (s : State) (c : CoreId) (q : Cmd) (dst : List Byte) (n : Nat) : Place × Place :=
  let i := blockIx dst n
  ((s.resolve c q.plane (shBase dst)).plus (offsetIx dst 1 i.1 + (i.2 * fmtBlockBytes (shFmt dst) : Nat)),
   (s.resolve c q.plane (shScalep dst)).plus ((rowIx dst i.1 * rowBlocks dst + i.2 : Nat) : Int))

/-- One block of a copy (R210: scale bytes travel with their blocks): what it writes. A row a copy pads is zero encodings under scale 0x00 (R210);
one a gather pads is PADV (R214). The scale byte of that one, of a row named by a poisoned index, and of a block whose own is poisoned under
FILL is a free value (log 18). -/
def State.copyBlock (s : State) (c : CoreId) (q : Cmd) (src dst : List Byte) (n : Nat) (since : Option MWait) : Res (Cmd × List Run') :=
  let f := shFmt dst
  let z := fmtBlockBytes f
  let (ix, b) := blockIx dst n
  let real := min 32 (shExt dst 0 - 32 * b)
  let put (s : State) (q : Cmd) (v : Nat) (bad : Nat → Bool) (x : Nat) (xBad : Bool) : Res (Cmd × List Run') :=
    let e := blockElems src f v real (fun j => xBad || bad j)
    let fill := shPolicy src == 2
    let x' := if xBad && fill then Config.fillScale.toNat else x
    let pls := s.blockPlaces c q dst n
    .ok s (q.noteElem dst e.2.2 false false,
      blockRuns pls.1 f e.1 e.2.1 ++ if shBcode dst = 1 then [⟨pls.2, 1, x', xBad && !fill⟩] else [])
  (s.elemSrc c q src 1 ix since).bind fun s r =>
    match r with
    | .skip => .ok s (q.meet .record, [])
    | .pad =>
      if isGthr q.ins then put s (q.meet .record) (padBlock src f) (fun _ => false) Config.fillScale.toNat false
      else put s q 0 (fun _ => false) 0 false
    | .poison => put s q 0 (fun _ => true) Config.fillScale.toNat false
    | .at_ jx =>
      (s.readSrc c q (shBase src) (offsetIx src 1 jx + (b * z : Nat)) z since).bind fun s v =>
        let at_ (i : Nat) : Bool := (v.getD i (0, false)).2
        let bad (j : Nat) : Bool := at_ (fmtBits f * j / 8) || at_ ((fmtBits f * j + fmtBits f - 1) / 8)
        if shBcode src = 2 then put s q (flaggedNat v) bad (shBscale src).toNat false
        else
          (s.readSrc c q (shScalep src) ((rowIx src jx * rowBlocks src + b : Nat) : Int) 1 since).bind fun s x =>
            put s q (flaggedNat v) bad (flaggedNat x) (flaggedBad x)

-- A unit of a copy ----------------------------------------------------------------------------------------------------

/-- Positions of a destination record: elements, or blocks. -/
def copyUnits (dst : List Byte) : Nat :=
  if fmtBlock (shFmt dst) then (List.range (shRank dst)).foldl (fun n d => if d = 0 then n else n * shExt dst d) (rowBlocks dst)
  else regionCount dst

/-- What a position of the traversal writes. -/
def State.copyAt (s : State) (c : CoreId) (q : Cmd) (src dst : List Byte) (n : Nat) (since : Option MWait) : Res (Cmd × List Run') :=
  if fmtBlock (shFmt dst) then s.copyBlock c q src dst n since else s.copyElem c q src dst n since

/-- The destination granules of a position. -/
def State.copyGrans (s : State) (c : CoreId) (q : Cmd) (dst : List Byte) (n : Nat) : List Place :=
  if fmtBlock (shFmt dst) then
    let pls := s.blockPlaces c q dst n
    ((granSplit pls.1.addr (fmtBlockBytes (shFmt dst))).map (fun x => pls.1.at_ x.1) ++ (if shBcode dst = 1 then [pls.2.granule] else [])).eraseDups
  else [(s.elemPlace c q dst n).granule]

/-- The destination granules that a position is the first to meet. -/
def State.copyFresh (s : State) (c : CoreId) (q : Cmd) (dst : List Byte) (n : Nat) : List Place :=
  (s.copyGrans c q dst n).filter (fun g => !(List.range n).any (fun m => (s.copyGrans c q dst m).contains g))

/-- The next destination granule in traversal order: its position, its place among those the position meets first, the granule. `pos` and
`wrote` say how far the command has come. -/
def State.copyNext (s : State) (c : CoreId) (q : Cmd) (dst : List Byte) : Option (Nat × Nat × Place) :=
  (List.range (copyUnits dst - q.pos)).findSome? (fun i =>
    let j := if i = 0 then q.wrote else 0
    (s.copyFresh c q dst (q.pos + i))[j]?.map (fun g => (q.pos + i, j, g)))

/-- What every position that reaches a granule writes there, in traversal order: each granule is written once (R202). -/
def State.copyPatch (s : State) (c : CoreId) (q : Cmd) (src dst : List Byte) (g : Place) (since : Option MWait) : Res (Cmd × Patch) :=
  ((List.range (copyUnits dst)).filter (fun n => (s.copyGrans c q dst n).contains g)).foldl (fun r n => r.bind fun s a =>
    (s.copyAt c a.1 src dst n since).bind fun s o => .ok s (o.1, o.2.foldl (fun p x => p.put g x) a.2)) (.ok s (q, ⟨0, 0, false⟩))

/-- One unit of a CPYT or GTHR: a destination granule. Under STOP the first that would carry poison is not written and ends the command
(R213). -/
def State.copyUnit (s : State) (c : CoreId) (q : Cmd) (since : Option MWait) : Res Cmd :=
  let src := q.blocks.getD 0 []
  let dst := q.blocks.getD 1 []
  match s.copyNext c q dst with
  | none => .ok s { q with finished := true }
  | some (n, j, g) =>
    (s.copyPatch c q src dst g since).bind fun s r =>
      if shPolicy src = 1 ∧ r.2.bad then .ok s { ({ q with met := r.1.met } : Cmd).meet .poison with finished := true }
      else
        let q1 := { r.1 with pos := n, wrote := j + 1 }
        let q2 := { q1 with finished := (s.copyNext c q1 dst).isNone }
        if r.2.mask = 0 then .ok s q2
        else if !s.genOk c q (shBase dst) || (shBcode dst = 1 && !s.genOk c q (shScalep dst)) then .stop s .rights
        else (s.writeG g r.2.val r.2.mask r.2.bad since).bind fun s _ => .ok s q2

/-- A handle checked before it is known what is touched through it: its space, owner and rights, and no offset. -/
def handleTouch (p : Word) (u : Use) : Touch := ⟨p, -(offsetOf p : Nat), -(offsetOf p : Nat), u⟩

/-- The handles a CPYT or GTHR touches (R309); a gather's rows are checked as their indices are read. -/
def copyTouches (q : Cmd) : List Touch :=
  let src := q.blocks.getD 0 []
  let dst := q.blocks.getD 1 []
  let a := shapeSpan src
  let b := shapeSpan dst
  [if isGthr q.ins then handleTouch (shBase src) .src else ⟨shBase src, a.1, a.2, .src⟩, ⟨shBase dst, b.1, b.2, .dst⟩]
    ++ (if shBcode src = 1 then [if isGthr q.ins then handleTouch (shScalep src) .src else ⟨shScalep src, 0, scaleBytes src, .src⟩] else [])
    ++ (if shBcode dst = 1 then [⟨shScalep dst, 0, scaleBytes dst, .dst⟩] else [])

-- CPYL (R211) ---------------------------------------------------------------------------------------------------------

/-- One granule of a CPYL. -/
def State.linearUnit (s : State) (c : CoreId) (q : Cmd) (n : Nat) (since : Option MWait) : Res Cmd :=
  if 32 * q.pos ≥ n then .ok s { q with finished := true }
  else
    (s.readSrc c q q.xs (32 * q.pos : Nat) 32 since).bind fun s r =>
      (s.writeDst c q q.xd (32 * q.pos : Nat) r since).bind fun s _ =>
        .ok ((s.forget c q).countBytes c (fun p => { p with cpylBytes := satAdd p.cpylBytes 32 }))
          { q.noteElem [] (flaggedBad r) false false with pos := q.pos + 1, finished := decide (32 * (q.pos + 1) ≥ n) }

/-- The handles a CPYL or MIGR touches. -/
def linearTouches (q : Cmd) : List Touch :=
  let n : Int := len40 q.xs1
  [⟨q.xs, 0, n, .src⟩, ⟨q.xd, 0, n, .dst⟩]

end Sys2Proof.Machine
end

