-- ==== Sys2Proof/Machine/Delivery.lean ====
section
/-! DEFINITION. Running deliveries and messages (R212, R215-R219, R378, R379). -/
namespace Sys2Proof.Machine
open Sys2Proof

/-- A delivery (R215): its target cores with their bits in the masks, berth, offset, tag, length, and the flag a berth must carry. -/
structure Delivery where
  targets : List (CoreId × Nat)
  berth : BitVec 5
  off : Nat
  tag : BitVec 16
  len : Nat
  mc : Bool

/-- The delivery a command makes; none for other commands. -/
def deliveryOf (c : CoreId) (q : Cmd) : Option Delivery :=
  match q.ins with
  | .cpylBerth _ => some ⟨[(c, 0)], fld q.xd 16 5, 32 * (fld q.xd 24 14).toNat, fld q.xd 48 16, len40 q.xs1, false⟩
  | .send .. => some ⟨[(fld q.xd 0 11, 0)], fld q.xd 16 5, 32 * (fld q.xd 24 14).toNat, fld q.xd 48 16, len32 q.xs1, false⟩
  | .sends _ => some ⟨[(fld q.xd 0 11, 0)], fld q.xd 16 5, 32 * (fld q.xd 24 14).toNat, fld q.xd 48 16, len32 q.xs1, false⟩
  | .mcast _ =>
    some ⟨((List.range 64).filter (fun i => bit q.xd1 i)).map (fun i => (quayCore (fld q.xd 0 5).toNat i, i)), fld q.xd 8 5,
      32 * (fld q.xd 16 14).toNat, fld q.xd 32 16, len32 q.xs1, true⟩
  | .drg _ =>
    let b := q.blocks.getD 0 []
    if drDkind b = 0 ∧ q.data.bytes ≠ [] then some ⟨[(c, 0)], BitVec.ofNat 5 (drBerth b), 0, drTag b, q.data.bytes.length, false⟩ else none
  | _ => none

/-- Whether a berth accepts a delivery (R215): `flag` is the flag it must carry. -/
def State.accepts (s : State) (part : BitVec 5) (t : CoreId) (n : BitVec 5) (off len : Nat) (flag : Berth → Bool) : Bool :=
  let b := (s.core t).berth n
  s.ownsCore part t && b.arm && flag b && decide (off + len ≤ (b.lenm1.toNat + 1) * 32)

/-- The scratchpad offset of a berth's buffer. -/
def Berth.start (b : Berth) : Nat := 32 * b.base.toNat

/-- Bit i of a 64-bit mask. -/
def maskBit (i : Nat) : Word := 1#64 <<< i

/-- Whether a command has decided acceptance at a target. -/
def Cmd.decided (q : Cmd) (i : Nat) : Bool := bit (q.accepted ||| q.refused) i

/-- Acceptance at one target (R215): a refused delivery of a single target ends the command with RIGHTS. -/
def State.acceptAt (s : State) (c : CoreId) (q : Cmd) (d : Delivery) (t : CoreId) (i : Nat) : State :=
  if s.accepts (s.core c).part t d.berth d.off d.len (fun b => if d.mc then b.mc else b.mesh) then
    s.modCmd c q.id (fun q => { q with accepted := q.accepted ||| maskBit i, delivering := true,
                                       bufs := q.bufs ++ [(t, ((s.core t).berth d.berth).start + d.off)] })
  else
    let s1 := s.modCmd c q.id (fun q => { q with refused := q.refused ||| maskBit i })
    if d.mc then s1 else s1.finish c q.id [.rights]

/-- A delivery's first granule reaches a target (R215). -/
def execDeliveryAcceptance (core : CoreId) (q : Nat) (target : CoreId) (s : State) : Host.Outcome State Fault Refusal :=
  match (s.core core).cmd q with
  | none => .next s
  | some r =>
    match deliveryOf core r with
    | none => .next s
    | some d =>
      match d.targets.find? (fun t => t.1 == target) with
      | none => .next s
      | some t =>
        let arrived := match r.ins with
          | .sends _ => (match r.nums with | n :: _ => decide (n ≤ s.tnow.toNat) | [] => false)
          | .drg _ => true
          | _ => !r.got.isEmpty
        if r.started && !r.finished && !r.decided t.2 && arrived then .next (s.acceptAt core r d t.1 t.2) else .next s

/-- Ends an accepted delivery: ATAG at every accepting berth, then the signal of SEND.sig (R215, R217). -/
def State.deliver (s : State) (q : Cmd) (d : Delivery) : State :=
  let s1 := q.bufs.foldl (fun s b => s.modCore b.1 (fun k => k.modBerth d.berth (fun x => { x with atag := d.tag }))) s
  match q.ins with
  | .send _ true => s1.semAdd (fld q.xd 0 11) (fld q.xd 40 6) 1
  | _ => s1

/-- Writes a 32-byte piece of the payload at every accepting core. -/
def State.payload (s : State) (q : Cmd) (n : Nat) (bs : List Byte) (bad : Bool) : Res Unit :=
  q.bufs.foldl (fun r b => r.bind fun s _ => s.writeBytes (.sp b.1 (b.2 + 32 * n)) bs bad none) (.ok s ())

/-- One unit of a delivery on the dynamic mesh: the first granule is read and travels to the targets (R215), which decide; then a granule once
every target has decided. -/
def State.deliveryUnit (s : State) (c : CoreId) (q : Cmd) (d : Delivery) (since : Option MWait) : Res Cmd :=
  if !d.targets.all (fun t => q.decided t.2) then (s.readSrc c q q.xs 0 32 since).bind fun s _ => .ok s q
  else if q.bufs.isEmpty then .ok s { q with finished := true, met := q.met ++ (if d.targets.isEmpty then [] else [.rights]) }
  else
    (s.readSrc c q q.xs (32 * q.pos : Nat) 32 since).bind fun s r =>
      ((s.forget c q).payload q q.pos (plainBytes r) (flaggedBad r)).bind fun s0 _ =>
        let s := match q.ins with | .cpylBerth _ => s0.countBytes c (fun p => { p with cpylBytes := satAdd p.cpylBytes 32 }) | _ => s0
        let q1 := { q.noteElem [] (flaggedBad r) false false with pos := q.pos + 1 }
        if 32 * (q.pos + 1) ≥ d.len then
          .ok (s.deliver q d) { q1 with finished := true, met := q1.met ++ (if q.refused = 0 then [] else [.partial_]) }
        else .ok s q1

-- Scheduled lanes (R299, R378, R379) ----------------------------------------------------------------------------------

/-- Whether a task runs on a core: in a pre-emption, until it is suspended (R299, R305). -/
def Core.taskRuns (k : Core) : Bool := match k.run with | .running | .preempting .. | .saving .. => true | _ => false

/-- The plane offset of the router plan in force (R299). -/
def Core.planOffset (k : Core) : Nat :=
  match ([Level.l1, Level.l2, Level.l3].find? (fun l => domV (k.csr.domOf l) && bit (k.csr.domOf l) 30)) with
  | some l => if k.taskRuns && (k.csr.dphOf l).getLsbD 0 then 0x14800 else 0x14000
  | none => 0x14000

/-- The 16 bytes of a lane of the plan in force (R378, Table 1); a router whose core runs no task uses plan 0. -/
def Core.lane (k : Core) (n : Nat) : List Byte :=
  k.active.bytes.readRun ((if k.taskRuns then k.planOffset else 0x14000) + 16 * n) 16

/-- V of a lane. -/
def laneV (l : List Byte) : Bool := bit (BitVec.ofNat 64 (fieldAt l 0 8)) 15
/-- Endpoint of a lane. -/
def laneEnd (l : List Byte) : CoreId := BitVec.ofNat 11 (fieldAt l 0 2)
/-- Latency of a lane. -/
def laneLatency (l : List Byte) : Nat := fieldAt l 2 1
/-- Injection slot mask of a lane. -/
def laneSlots (l : List Byte) : Word := BitVec.ofNat 64 (fieldAt l 8 8)

/-- Output port p of the plan in force at a router in a slot (R378, Table 1): whether the slot is reserved, and the input it names. -/
def Core.slotPlan (k : Core) (p slot : Nat) : Bool × Nat :=
  let e := (if k.taskRuns then k.planOffset else 0x14000) + 0x200 + 64 * p
  let b := k.active.bytes
  (bit (BitVec.ofNat 64 (leNat (b.readRun e 8))) slot, leNat (b.readRun (e + 8 + slot / 2) 1) / 16 ^ (slot % 2) % 16)

/-- Whether the odd plan is in force at a router (R299). -/
def Core.planOdd (k : Core) : Bool := k.taskRuns && k.planOffset == 0x14800

/-- The router reached after i hops, X first and then Y (R377, log 141). -/
def meshAt (a b : CoreId) (i : Nat) : CoreId :=
  let toward (u v n : Nat) : Nat := if u ≤ v then min v (u + n) else max v (u - n)
  let dx := if coreX a ≤ coreX b then coreX b - coreX a else coreX a - coreX b
  BitVec.ofNat 11 (toward (coreY a) (coreY b) (i - dx) * 64 + toward (coreX a) (coreX b) i)

/-- The output port a flit takes at its i-th router: 0 N, 1 E, 2 S, 3 W, 4 local (R375, log 141). -/
def meshOut (a b : CoreId) (i : Nat) : Nat :=
  let u := meshAt a b i
  if coreX u < coreX b then 1 else if coreX b < coreX u then 3 else if coreY u < coreY b then 2 else if coreY b < coreY u then 0 else 4

/-- The input port by which a flit enters its i-th router: the injection port at the first. -/
def meshIn (a b : CoreId) (i : Nat) : Nat := if i = 0 then 4 else (meshOut a b (i - 1) + 2) % 4

/-- Cycles from injection to the i-th router without contention: 2 a hop and 6 more a crossing between dies (R375, R377). -/
def meshTime (a b : CoreId) (i : Nat) : Nat :=
  let u := meshAt a b i
  2 * i + 6 * ((if coreX a / 32 = coreX u / 32 then 0 else 1) + (if coreY a / 16 = coreY u / 16 then 0 else 1))

/-- A flit of a SENDS is late by some ticks: its arrival moves. -/
def State.delayFlit (s : State) (f : LaneFlit) (n : Nat) : State :=
  s.modCmd f.src f.cmd (fun q =>
    let i := f.no - q.wrote / 2
    { q with nums := (q.nums.zip (List.range q.nums.length)).map (fun e => if e.2 = i then e.1 + n else e.1) })

/-- A flit passes the router it has reached (R378, R379): the router demotes it when its plan is not the flit's or the slot names another input,
and its core counts a lane conflict; a demoted flit and one without a reserved slot yield to other traffic for a number of ticks that a choice
gives. Answers the flit when it is still scheduled. -/
def State.passRouter (s : State) (f : LaneFlit) : State × Option LaneFlit :=
  let u := meshAt f.src f.dst f.hops
  let k := s.core u
  let out := meshOut f.src f.dst f.hops
  let plan := k.slotPlan out ((f.sent.toNat + meshTime f.src f.dst f.hops) % 64)
  let demoted := k.planOdd != f.odd || plan.2 != meshIn f.src f.dst f.hops
  let s1 := if demoted then s.modCore u (fun k => { k with laneConf := satAdd k.laneConf 1 }) else s
  let s2 := if demoted || !plan.1 then s1.chosen.delayFlit f s1.choice else s1
  (s2, if demoted || out = 4 then none else some { f with hops := f.hops + 1 })

/-- The flits on scheduled lanes advance. -/
def State.laneTick (s : State) : State :=
  s.lanes.foldl (fun s f =>
    if f.sent.toNat + meshTime f.src f.dst f.hops ≤ s.tnow.toNat then
      (let r := s.passRouter f
       { r.1 with lanes := r.1.lanes ++ r.2.toList })
    else { s with lanes := s.lanes ++ [f] }) { s with lanes := [] }

/-- A SENDS injects a flit of up to two granules in a slot of its mask (R379). -/
def execLaneFlitInject (core : CoreId) (q : Nat) (s : State) : Host.Outcome State Fault Refusal :=
  match (s.core core).cmd q with
  | none => .next s
  | some r =>
    match r.ins, deliveryOf core r with
    | .sends _, some d =>
      let l := r.blocks.getD 0 []
      let arrive := s.tnow.toNat + laneLatency l
      if r.started && !r.finished && decide (32 * r.pos < d.len) && bit (laneSlots l) (s.tnow.toNat % 64)
          && !s.lanes.any (fun f => f.src == core && f.cmd == q && f.sent == s.tnow) then
        let n := min 64 (d.len - 32 * r.pos)
        .next (s.unit core r (fun s since =>
          (s.readSrc core r r.xs (32 * r.pos : Nat) n since).bind fun s b =>
            let bad (i : Nat) : Bool := flaggedBad ((b.drop (32 * i)).take 32)
            let s1 := s.forget core r
            .ok { s1 with lanes := s1.lanes ++ [⟨core, d.targets.headD (core, 0) |>.1, q, r.pos / 2, (s.core core).planOdd, s.tnow, 0⟩] }
              { (if flaggedBad b then r.meet .poison else r) with
                pos := r.pos + n / 32, nums := r.nums ++ [arrive],
                data := ⟨r.data.bytes ++ plainBytes b, r.data.bad ++ ((List.range (n / 32)).filter bad).map (· + r.pos)⟩ }))
      else .next s
    | _, _ => .next s

/-- The flits of a SENDS that have reached an accepting berth are written; after the last, ATAG is set (R379). -/
def State.laneUnit (s : State) (q : Cmd) (d : Delivery) : Res Cmd :=
  if q.bufs.isEmpty then .ok s q
  else
    match q.nums with
    | [] => .ok s q
    | t :: rest =>
      if t > s.tnow.toNat then .ok s q
      else
        let n := min 2 (d.len / 32 - q.wrote)
        ((List.range n).foldl (fun r i => r.bind fun s _ =>
            s.payload q (q.wrote + i) ((q.data.bytes.drop (32 * (q.wrote + i))).take 32) (q.data.bad.contains (q.wrote + i))) (Res.ok s ())).bind fun s _ =>
          let q1 := { q with nums := rest, wrote := q.wrote + n }
          if 32 * q1.wrote ≥ d.len then .ok (s.deliver q d) { q1 with finished := true } else .ok s q1

/-- SEMR (R219): the add at its target. -/
def State.startSemr (s : State) (c : CoreId) (q : Cmd) : State :=
  let t : CoreId := fld q.xd 0 11
  let s1 := s.begin c q
  if s.ownsCore (s.core c).part t then (s1.semAdd t (fld q.xd 16 6) ((fld q.xs 0 32).toInt)).finish c q.id []
  else s1.finish c q.id [.rights]

end Sys2Proof.Machine
end

