-- ==== Sys2Proof/Machine/Fabric.lean ====
section
/-! DEFINITION. Fabric operations between packages (R220-R223, R313, R384, R385): numbering, re-sending, the duplicate table,
holds and responses. -/
namespace Sys2Proof.Machine
open Sys2Proof

/-- Writes a run of bytes: poisoned data poisons its granules, whole clean granules become clean (R276). -/
def PMem.writeRun (m : PMem) (a : Nat) (bs : List Byte) (bad : Bool) : PMem :=
  (granSplit a bs.length).foldl (fun m p =>
    m.mergeGran (p.1 / 32) (BitVec.ofNat 256 (leNat ((bs.drop (p.1 + p.2.1 - a)).take p.2.2) * 2 ^ (8 * p.2.1)))
      (runMask p.2.1 p.2.2) (if bad then some true else if p.2.2 = 32 then some false else none)) m

-- Sending (R384) ------------------------------------------------------------------------------------------------------

/-- The mark of what a package sends for a partition (R365): the N of its last level 3 cut. -/
def State.postCut (s : State) (p : BitVec 5) : Option (BitVec 32) := (s.part p).lastL3

/-- Whether the window of 64 lets an item out: no item of its pair that lies 64 numbers or more before it is unanswered (R384). -/
def State.windowOpen (s : State) (e : Sent) : Bool :=
  s.sent.all (fun x => !(x.chip == e.chip && x.op.srcCore == e.op.srcCore && !x.waiting) || decide ((e.op.seq - x.op.seq).toNat < 64))

/-- Whether two entries are of one numbered item. -/
def Sent.same (x e : Sent) : Bool := x.chip == e.chip && x.op == e.op

/-- Sends a copy of an item (R384) on the route now current; without one its operation completes with LINK (R382). -/
def State.sendCopy (s : State) (e : Sent) : State :=
  match s.route e.chip with
  | none =>
    if e.chip = s.chip then { s with out := s.out ++ [OutMsg.fabric e.chip e.op] }
    else ({ s with sent := s.sent.filter (fun (x : Sent) => !x.same e) }).finish e.op.srcCore e.cmd [.link]
  | some q =>
    ({ s with
        sent := s.sent.map (fun (x : Sent) => if x.same e then { x with waiting := false, sentAt := s.tnow, hop := some q } else x),
        out := s.out ++ [OutMsg.fabric e.chip e.op] }).xmit
      (packetOf (opChannel e.op) ⟨e.chip, s.chip, e.op.srcCore, .operation e.op, e.op.cls, e.op.seq, opAddr e.op⟩ (opData e.op) .copied)

/-- Sends the items of a pair that the window of 64 lets out, oldest first (R384); each is marked by the cuts made when it is first sent
(R365). -/
def State.pump (s : State) (chip : BitVec 21) (core : CoreId) : Nat → State
  | 0 => s
  | n + 1 =>
    match s.sent.find? (fun e => e.chip == chip && e.op.srcCore == core && e.waiting) with
    | none => s
    | some e =>
      if s.windowOpen e then
        let e1 : Sent := { e with waiting := false, heardAt := s.tnow, op := { e.op with postCut := s.postCut (s.core core).part } }
        (({ s with sent := s.sent.map (fun (x : Sent) => if x.same e then e1 else x) }).sendCopy e1).pump chip core n
      else s

/-- Sends all items of a pair that the window lets out. -/
def State.pumpAll (s : State) (chip : BitVec 21) (core : CoreId) : State := s.pump chip core s.sent.length

/-- The bandwidth class of a command (R386): LEND.CP[2:1], or BCL of a COLL's block (R224). -/
def cmdClass (q : Cmd) : BitVec 2 :=
  match q.ins with
  | .fwr o => o.bcl | .fwrBerth o => o.bcl | .ffaa o => o.bcl | .fflg o => o.bcl | .fflgAdd o => o.bcl
  | .migr o => o.bcl | .migrRemap o => o.bcl
  | .coll _ => BitVec.ofNat 2 (fieldAt (q.blocks.getD 0 []) 3 1 / 32)
  | _ => 0

/-- Numbers an operation of core c and hands it to the pier (R384). -/
def State.sendOp (s : State) (c : CoreId) (q : Cmd) (chip : BitVec 21) (part : BitVec 5) (kind : FabKind) : State :=
  let k := s.core c
  let n : BitVec 32 := SMap.get 0 k.fabSeq chip.toNat
  let op : FabOp := ⟨s.chip, c, n, part, none, cmdClass q, kind⟩
  let s1 := s.setCore c { k with fabSeq := SMap.set 0 k.fabSeq chip.toNat (n + 1) }
  let e : Sent := { chip := chip, op := op, cmd := q.id, hop := none, sentAt := s.tnow, heardAt := s.tnow, waiting := true }
  ({ s1 with sent := s1.sent ++ [e] }).pump chip c 1

/-- The handle of a fabric command's peer pointer. -/
def State.peerHandle (s : State) (c : CoreId) (q : Cmd) : BitVec 256 := s.handle (s.core c).part (ptrHandle q.xd)

/-- The handles a fabric command touches, with its uses (R220, R313). -/
def fabricTouches (q : Cmd) : List Touch :=
  match q.ins with
  | .fwr _ => [⟨q.xs, 0, len32 q.xs1, .src⟩, ⟨q.xd, 0, len32 q.xs1, .fwr⟩]
  | .fwrBerth _ => [⟨q.xs, 0, len32 q.xs1, .src⟩, ⟨q.xd, 0, len32 q.xs1, .fwrBerth⟩]
  | .ffaa _ => [⟨q.xd, 0, 8, .atomic⟩]
  | .fflg _ => [⟨q.xd, 0, 8, .fwr⟩]
  | .fflgAdd _ => [⟨q.xd, 0, 8, .atomic⟩]
  | _ => []

/-- Sends a fabric command's operation: RIGHTS when its peer handle has been rebound since its start (R310), LINK without a route (R382). -/
def State.launchOp (s : State) (c : CoreId) (q : Cmd) (kind : FabKind) : Res Cmd :=
  let e := s.peerHandle c q
  let chip : BitVec 21 := fld (hAux e) 0 21
  if !s.genOk c q q.xd then .stop s .rights
  else if !s.reachable chip then .ok s { q with finished := true, met := q.met ++ [.link] }
  else .ok (s.sendOp c q chip (fld (hAux e) 24 5) kind) { q with delivering := true }

/-- One unit of a fabric command (R221-R223): a granule of an FWR's source read; then the operation sent. -/
def State.fabricUnit (s : State) (c : CoreId) (q : Cmd) (since : Option MWait) : Res Cmd :=
  let e := s.peerHandle c q
  let ia := hBase e + offsetOf q.xd
  let read (kind : Blob → FabKind) : Res Cmd :=
    let n := len32 q.xs1
    if q.data.bytes.length ≥ n then s.launchOp c q (kind q.data)
    else
      (s.readSrc c q q.xs (32 * q.pos : Nat) 32 since).bind fun s r =>
        .ok (s.forget c q) { q.noteElem [] (flaggedBad r) false false with
          pos := q.pos + 1, data := ⟨q.data.bytes ++ plainBytes r, q.data.bad ++ (if flaggedBad r then [q.pos] else [])⟩ }
  if q.delivering then .ok s q
  else
    match q.ins with
    | .fwr _ => read (.fwr ia)
    | .fwrBerth _ => read (.fwrBerth (BitVec.ofNat 11 (hBase e)) (BitVec.ofNat 5 (hBase e / 65536)) (offsetOf q.xd) (fld q.xd1 0 16) (hBound e))
    | .ffaa _ => s.launchOp c q (.ffaa ia q.xs)
    | .fflg _ => if q.covers.isEmpty then (if q.met.isEmpty then s.launchOp c q (.fflg ia false q.xs) else .ok s { q with finished := true }) else .ok s q
    | .fflgAdd _ => if q.covers.isEmpty then (if q.met.isEmpty then s.launchOp c q (.fflg ia true q.xs) else .ok s { q with finished := true }) else .ok s q
    | _ => .ok s { q with finished := true }

/-- The effect of a performed operation on the image of the peer's memory. -/
def State.mirror (s : State) (chip : BitVec 21) (op : FabOp) (old : Word) : State :=
  let put (a : Nat) (v : Word) : State := { s with peerMem := s.peerMem.writeRun (peerKey chip a) (bytesOf v.toNat 8) false }
  match op.kind with
  | .fwr ia d => { s with peerMem := (List.range (d.bytes.length / 32)).foldl (fun m i =>
      m.writeRun (peerKey chip ia + 32 * i) ((d.bytes.drop (32 * i)).take 32) (d.bad.contains i)) s.peerMem }
  | .fwrBerth .. => s
  | .ffaa ia a => put ia (old + a)
  | .fflg ia false v => put ia v
  | .fflg ia true v => put ia (BitVec.ofNat 64 (s.peerMem.readNat (peerKey chip ia) 8) + v)
  | .chunk .. => s

/-- A response reaches the source's pier (R384): the command completes; FFAA writes the old value (R222). -/
def execE2eResponseArrival (r : Response) (s : State) : Host.Outcome State Fault Refusal :=
  match s.sent.find? (fun e => e.chip == r.dstChip && e.op.srcCore == r.srcCore && e.op.seq == r.seq && !e.waiting) with
  | none => .next s
  | some e =>
    let s1 := { s with sent := s.sent.filter (fun (x : Sent) => x != e) }
    let s2 := if r.status = .ok then s1.mirror e.chip e.op r.old else s1
    let s3 :=
      match (s.core r.srcCore).cmd e.cmd, e.op.kind with
      | some q, .ffaa _ _ =>
        let bad := r.oldBad || r.status == Status.poison
        let o := offsetOf q.xd1
        let v : Gran := BitVec.ofNat 256 (r.old.toNat * 2 ^ (8 * (o % 32)))
        let put (k : Core) : Core := { k with sp := k.sp.mergeGran (o / 32) v (runMask (o % 32) 8) (if bad then some true else none) }
        let s4 := if r.status = Status.ok || r.status = Status.poison then s2.modCore r.srcCore put else s2
        s4.finish r.srcCore q.id [r.status]
      | _, .chunk .. => s2
      | some q, _ => s2.finish r.srcCore q.id [r.status]
      | none, _ => s2
    .next (s3.pumpAll e.chip r.srcCore)

/-- The sent item a notice names. -/
def State.sentOf (s : State) (n : Notice) : Option Sent :=
  s.sent.find? (fun e => e.chip == n.chip && e.op.srcCore == n.core && e.op.seq == n.seq && !e.waiting)

/-- Re-sends a copy, counted at the port it leaves by (R384, R394); without a route the item ends, and items behind the window go out. -/
def State.resendCopy (s : State) (e : Sent) : State :=
  match s.route e.chip with
  | some p => (s.modPort p (fun t => { t with resends := satAdd t.resends 1 })).sendCopy e
  | none => (s.sendCopy e).pumpAll e.chip e.op.srcCore

/-- The pier re-sends a copy when 65,536 ticks pass with neither a response nor a hold notice (R384). -/
def execE2eResendTimeout (n : Notice) (s : State) : Host.Outcome State Fault Refusal :=
  match s.sentOf n with
  | none => .next s
  | some e =>
    if (s.tnow - e.sentAt).toNat ≥ 65536 ∧ (s.tnow - e.heardAt).toNat ≥ 65536 then
      .next (s.resendCopy e)
    else .next s

/-- LINK: 2^18 ticks with neither a response nor a hold notice (R220, R384). -/
def execE2eLinkTimeout (n : Notice) (s : State) : Host.Outcome State Fault Refusal :=
  match s.sentOf n with
  | none => .next s
  | some e =>
    if (s.tnow - e.heardAt).toNat ≥ 262144 then
      let s1 := { s with sent := s.sent.filter (fun (x : Sent) => x != e) }
      .next ((s1.finish n.core e.cmd [.link]).pumpAll e.chip n.core)
    else .next s

/-- A hold notice (R384): one received restarts the measure; one sent reports an operation held here, every 16,384 ticks. -/
def execHoldNotice (incoming : Bool) (n : Notice) (s : State) : Host.Outcome State Fault Refusal :=
  if incoming then
    match s.sentOf n with
    | none => .next s
    | some e => .next { s with sent := s.sent.map (fun (x : Sent) => if x == e then { x with heardAt := s.tnow } else x) }
  else
    match s.heldOps.find? (fun h => h.op.srcChip == n.chip && h.op.srcCore == n.core && h.op.seq == n.seq) with
    | none => .next s
    | some h =>
      if (s.tnow - h.notice).toNat ≥ 16384 then
        .next (({ s with heldOps := s.heldOps.map (fun (x : HeldOp) => if x == h then { x with notice := s.tnow } else x),
                         out := s.out ++ [OutMsg.notice n.chip n] }).xmit (packetOf 1 ⟨n.chip, s.chip, n.core, .notice, 0, n.seq, 0⟩ [] .held))
      else .next s

-- Arriving (R223, R313, R365, R384, R385) -----------------------------------------------------------------------------

/-- The word at an IA, with its poison. -/
def State.readWord (s : State) (part : BitVec 5) (ia : Nat) (since : Option MWait) : Res (Word × Bool) :=
  (s.readG (.ia part (ia / 32 * 32)) since).bind fun s g => .ok s ((g.1 >>> (8 * (ia % 32))).setWidth 64, g.2)
/-- Writes the word at an IA. -/
def State.writeWord (s : State) (part : BitVec 5) (ia : Nat) (v : Word) (since : Option MWait) : Res Unit :=
  s.writeG (.ia part (ia / 32 * 32)) (BitVec.ofNat 256 (v.toNat * 2 ^ (8 * (ia % 32)))) (runMask (ia % 32) 8) false since

/-- The answer of a performed operation: status, old value with its poison. -/
structure Answer where
  status : Status
  old : Word
  oldBad : Bool

/-- What an arrived operation comes to from its granule `pos` on: the granules written and, when over, its answer. -/
inductive Performed where
  | ended (s : State) (a : Answer)
  | held (s : State) (pos : Nat) (h : Holding)

/-- An atomic update of a peer word (R222, R223): a poisoned word is left and answered with POISON. -/
def State.updateWord (s : State) (part : BitVec 5) (ia : Nat) (since : Option MWait) (f : Word → Word) : Performed :=
  match s.readWord part ia since with
  | .stop s1 st => .ended s1 ⟨st, 0, false⟩
  | .hold s1 h => .held s1 0 h
  | .ok s1 v =>
    if v.2 then .ended s1 ⟨.poison, v.1, true⟩
    else
      match s1.writeWord part ia (f v.1) since with
      | .stop s2 st => .ended s2 ⟨st, 0, false⟩
      | .hold s2 h => .held s2 0 h
      | .ok s2 _ => .ended s2 ⟨.ok, v.1, false⟩

/-- The granules of an FWR from `pos` on. -/
def State.putGranules (s : State) (part : BitVec 5) (ia : Nat) (d : Blob) (since : Option MWait) (pos : Nat) : Nat → Performed
  | 0 => .ended s ⟨.ok, 0, false⟩
  | n + 1 =>
    if 32 * pos ≥ d.bytes.length then .ended s ⟨.ok, 0, false⟩
    else
      match s.writeBytes (.ia part (ia + 32 * pos)) ((d.bytes.drop (32 * pos)).take 32) (d.bad.contains pos) since with
      | .ok s1 _ => s1.putGranules part ia d (if since.isSome then none else since) (pos + 1) n
      | .stop s1 st => .ended s1 ⟨st, 0, false⟩
      | .hold s1 h => .held s1 pos h

/-- A chunk without its data: what names it. -/
def chunkName (ch : Chunk) : Chunk := { ch with elems := ⟨[], []⟩, scales := ⟨[], []⟩ }

/-- The collective engine takes an inbound chunk for a core (R225, R227): missing data that arrives late is discarded. -/
def State.takeChunk (s : State) (core : CoreId) (ch : Chunk) : State :=
  if s.missed.contains (core, chunkName ch) then { s with missed := s.missed.erase (core, chunkName ch) }
  else { s with chunks := s.chunks ++ [(core, ch)] }

/-- Performs an arrived operation (R221-R223, R313) or takes an arrived chunk, which only a core of the sender's partition is given (R376,
R411). -/
def State.performOp (s : State) (op : FabOp) (pos : Nat) (since : Option MWait) : Performed :=
  match op.kind with
  | .fwr ia d => s.putGranules op.part ia d since pos (d.bytes.length / 32 + 1)
  | .fwrBerth t n off tag bound d =>
    if s.accepts op.part t n off d.bytes.length (fun b => b.fab) && decide (off + d.bytes.length ≤ bound) then
      let a := ((s.core t).berth n).start + off
      let s1 := (List.range (d.bytes.length / 32)).foldl (fun s i =>
        s.modCore t (fun k => { k with sp := k.sp.writeRun (a + 32 * i) ((d.bytes.drop (32 * i)).take 32) (d.bad.contains i) })) s
      .ended (s1.modCore t (fun k => k.modBerth n (fun b => { b with atag := tag }))) ⟨.ok, 0, false⟩
    else .ended s ⟨.rights, 0, false⟩
  | .ffaa ia a => s.updateWord op.part ia since (fun w => w + a)
  | .chunk core ch =>
    if s.ownsCore op.part core then .ended (s.takeChunk core ch) ⟨.ok, 0, false⟩ else .ended s ⟨.rights, 0, false⟩
  | .fflg ia add v =>
    match s.updateWord op.part ia since (fun w => if add then w + v else v) with
    | .ended s1 a => .ended s1 { a with old := 0, oldBad := false }
    | h => h

/-- The entry of a source in the duplicate table. -/
def State.dupOf (s : State) (chip : BitVec 21) (core : CoreId) : Option DupEntry := s.dups.find? (fun d => d.chip == chip && d.core == core)

/-- Records what became of a number of a source. -/
def State.setDup (s : State) (op : FabOp) (st : DupState) : State :=
  { s with dups := s.dups.map (fun (d : DupEntry) => if d.chip == op.srcChip && d.core == op.srcCore then
      { d with seen := d.seen.map (fun e => if e.1 = op.seq then (e.1, st) else e) } else d) }

/-- Sends a response on the response channel (R383, R384). -/
def State.respond (s : State) (op : FabOp) (a : Answer) : State :=
  let r : Response := ⟨op.srcChip, op.srcCore, op.seq, a.status, a.old, a.oldBad⟩
  ({ s with out := s.out ++ [OutMsg.response r] }).xmit (packetOf 1 ⟨op.srcChip, s.chip, op.srcCore, .response r, 0, op.seq, 0⟩ [] .held)

/-- The level of a SNAP. -/
def snapLevel (i : Instr) : Option Level := match i with | .snap _ l => some l | .snapSeal _ l => some l | _ => none
/-- N of a SNAP (R232). -/
def snapN (q : Cmd) : BitVec 32 := fld q.xs 0 32

/-- The SNAPs of a partition that have started and wait for their cut (R363). -/
def State.waitingSnaps (s : State) (p : BitVec 5) : List (CoreId × Cmd) :=
  allCores.flatMap (fun c => if (s.core c).part == p then
    ((s.core c).queue.filter (fun q => isSnap q.ins && q.started && !q.finished && !q.delivering)).map (fun q => (c, q)) else [])

/-- The SNAPs of a partition whose cut is still to come, started or not (R364). -/
def State.comingSnaps (s : State) (p : BitVec 5) : List Cmd :=
  allCores.flatMap (fun c => if (s.core c).part == p then (s.core c).queue.filter (fun q => isSnap q.ins && !q.finished && !q.delivering) else [])

/-- Whether a package that has not yet cut must hold an operation marked with n (R365). -/
def State.cutComing (s : State) (p : BitVec 5) (n : BitVec 32) : Bool :=
  (s.waitingSnaps p).any (fun w => snapLevel w.2.ins == some .l3 && !(n.ult (snapN w.2)))

/-- CommandOpcode of the fault record of a peer's operation (R316). -/
def opCode (op : FabOp) : BitVec 8 := match op.kind with | .fwr .. => 8 | .fwrBerth .. => 8 | .ffaa .. => 9 | .fflg .. => 10 | .chunk .. => 11

/-- Performs a new or held operation as far as it goes: its response, or its hold (R384, R385). -/
def State.tryOp (s : State) (op : FabOp) (pos : Nat) (why : Option Held) (notice : Word) : State :=
  let keep (s : State) (pos : Nat) (w : Held) : State :=
    { s with heldOps := s.heldOps.filter (fun (h : HeldOp) => h.op != op) ++ [⟨op, w, pos, notice⟩] }
  let drop (s : State) : State := { s with heldOps := s.heldOps.filter (fun (h : HeldOp) => h.op != op) }
  let done (s : State) (a : Answer) : State := ((drop (s.dropFault why)).setDup op (.done a.status a.old a.oldBad)).respond op a
  if op.postCut.any (fun n => s.cutComing op.part n) then keep s pos .cut
  else
    match s.holdNow why with
    | .still => s
    | .page => done s ⟨.page, 0, false⟩
    | .retry since =>
      if (s.part op.part).state == .none then done s ⟨.rights, 0, false⟩
      else match s.performOp op pos since with
      | .ended s1 a => done s1 a
      | .held s1 pos h =>
        let w : Held := match h.why with | .fault _ => .fault s1.nextFault | w => w
        (keep (s1.dropFault why) pos w).report h op.srcCore (opCode op) (op.cls.setWidth 4)

/-- Whether n lies after H, modulo 2^32 (R385). -/
def seqAfter (n h : BitVec 32) : Bool := (0#32).slt (n - h)

/-- Enters a new number of a source and performs its operation (R385). -/
def State.enterOp (s : State) (d : DupEntry) (op : FabOp) : State :=
  let h := if seqAfter op.seq d.h || d.seen.isEmpty then op.seq else d.h
  let seen := (d.seen ++ [(op.seq, DupState.held)]).filter (fun e => (h - e.1).toNat < 64)
  let d1 : DupEntry := { d with h := h, seen := seen, last := s.tnow }
  let s1 := { s with dups := s.dups.filter (fun (e : DupEntry) => !(e.chip == d.chip && e.core == d.core)) ++ [d1] }
  s1.tryOp op 0 none s.tnow

/-- Whether an entry of the duplicate table may be replaced (R385). -/
def DupEntry.replaceable (d : DupEntry) (now : Word) : Bool :=
  d.seen.all (fun e => e.2 != .held) && decide ((now - d.last).toNat ≥ 524288)

/-- A numbered item arrives (R385): new, a duplicate, or held behind a full table. -/
def State.opArrives (s : State) (op : FabOp) : State :=
  match s.dupOf op.srcChip op.srcCore with
  | none =>
    if s.dups.length < 4096 then s.enterOp ⟨op.srcChip, op.srcCore, op.seq, [], s.tnow⟩ op
    else if s.heldOps.any (fun h => h.op == op) then s
    else { s with heldOps := s.heldOps ++ [⟨op, .table, 0, s.tnow⟩] }
  | some d =>
    let touch (s : State) : State := { s with dups := s.dups.map (fun (e : DupEntry) => if e == d then { e with last := s.tnow } else e) }
    if seqAfter op.seq d.h then s.enterOp d op
    else if (d.h - op.seq).toNat ≥ 64 then touch s
    else
      match d.seen.find? (fun e => e.1 == op.seq) with
      | none => s.enterOp d op
      | some (_, .held) => touch s
      | some (_, .done st old bad) => (touch s).respond op ⟨st, old, bad⟩

/-- A numbered fabric operation arrives (R385), when the links are in service (R414). -/
def execFabricOperationArrival (op : FabOp) (s : State) : Host.Outcome State Fault Refusal :=
  if s.firmware then .next (s.opArrives op) else .next s

/-- An entry of the duplicate table is replaced (R385): the operations of the source that waited longest for room are entered. -/
def execDuplicateEntryReplacement (chip : BitVec 21) (core : CoreId) (s : State) : Host.Outcome State Fault Refusal :=
  match s.dupOf chip core with
  | none => .next s
  | some d =>
    if !d.replaceable s.tnow then .next s
    else
      let s1 := { s with dups := s.dups.filter (fun (e : DupEntry) => e != d) }
      match s1.heldOps.find? (fun h => h.why == .table) with
      | none => .next s1
      | some h =>
        .next ((s1.heldOps.filter (fun x => x.why == .table && x.op.srcChip == h.op.srcChip && x.op.srcCore == h.op.srcCore)).foldl
          (fun s x => ({ s with heldOps := s.heldOps.filter (fun (y : HeldOp) => y != x) }).opArrives x.op) s1)

/-- Answers the data of a peer's MIGR, on the bulk channel (R383). -/
def State.answerBulk (s : State) (b : Bulk) (st : Status) (data : List Byte) : State :=
  ({ s with out := s.out ++ [OutMsg.bulkAnswer b.srcChip b.srcCore b.number st data] }).xmit
    (packetOf 3 ⟨b.srcChip, s.chip, b.srcCore, .bulkAnswer st, b.cls, b.number, b.ia⟩ data .held)

/-- A granule of a peer's MIGR is read or written here, under the rules of every engine access, with the partition the peer's handle names (R318,
R383); none remains when it has been answered. -/
def State.bulkStep (s : State) (b : Bulk) (why : Option Held) : State × Option (Bulk × Option Held) :=
  let done (s1 : State) (st : Status) (data : List Byte) : State × Option (Bulk × Option Held) := ((s1.dropFault why).answerBulk b st data, none)
  let held (s1 : State) (h : Holding) : State × Option (Bulk × Option Held) :=
    ((s1.dropFault why).report h b.srcCore 13 (b.cls.setWidth 4), some (b, some (match h.why with | .fault _ => .fault s1.nextFault | w => w)))
  match s.holdNow why with
  | .still => (s, some (b, why))
  | .page => done s .page []
  | .retry since =>
    if (s.part b.part).state == .none then done s .rights []
    else if b.write then
      match s.writeG (.ia b.part (b.ia / 32 * 32)) b.data (BitVec.allOnes 32) b.bad since with
      | .ok s1 _ => done s1 .ok []
      | .stop s1 st => done s1 st []
      | .hold s1 h => held s1 h
    else
      match s.readG (.ia b.part (b.ia / 32 * 32)) since with
      | .ok s1 g => done s1 (if g.2 then .poison else .ok) (bytesOf g.1.toNat 32)
      | .stop s1 st => done s1 st []
      | .hold s1 h => held s1 h

/-- One tick of the data of peers' MIGRs. -/
def State.bulkTick (s : State) : State :=
  s.bulks.foldl (fun s e => let r := s.bulkStep e.1 e.2; { r.1 with bulks := r.1.bulks ++ r.2.toList }) { s with bulks := [] }

/-- Tries every held operation again whose hold is over. -/
def State.retryOps (s : State) : State :=
  s.heldOps.foldl (fun s h => if h.why == .table then s else s.tryOp h.op h.pos (some h.why) h.notice) s

end Sys2Proof.Machine
end

