-- ==== Sys2Proof/Machine/Collective.lean ====
section
/-! DEFINITION. Collectives (R224-R228, R364, R387): the schedule of a member, its hops, its chunks and its record; and the
level 3 barrier between packages (R388). -/
namespace Sys2Proof.Machine
open Sys2Proof

-- Buckets (R224, R225) ------------------------------------------------------------------------------------------------

/-- Bytes of an element of a wire format. -/
def wireBytes (w : Nat) : Nat := match w with | 0 => 2 | 1 => 1 | _ => 8
/-- BE and the bound register of a descriptor. -/
def coBe (d : List Byte) : Bool := bit (d.getD 3 0) 4
/-- Bound register. -/
def coBound (d : List Byte) : Nat := (fld (d.getD 3 0) 0 4).toNat

/-- csz (R225). -/
def coCsz (d : List Byte) : Nat :=
  let n := coNmem d
  if coWire d = 2 then (coCount d + n - 1) / n else 32 * ((coCount d + 32 * n - 1) / (32 * n))

/-- First element and number of elements of a chunk (R225); a broadcast has one chunk, the whole bucket (R227). -/
def chunkSpan (d : List Byte) (c : Nat) : Nat × Nat :=
  if coOp d = 3 then (0, coCount d)
  else
    let lo := min (c * coCsz d) (coCount d)
    (lo, min ((c + 1) * coCsz d) (coCount d) - lo)

/-- How a step of a member runs (R225): reduce-scatter, all-gather, the root of a broadcast, and its other members. -/
inductive CollKind where
  | rs | ag | root | pass
deriving DecidableEq, Repr

/-- A step: kind, number of its hop, chunk sent, chunk received, whether it sends from SRC. -/
structure CollStep where
  kind : CollKind
  hop : Nat
  send : Nat
  recv : Nat
  fromSrc : Bool
deriving DecidableEq, Repr

/-- rs_step(s) of rank r among n (R225). -/
def rsStep (n r s hop : Nat) : CollStep := ⟨.rs, hop, (r + 2 * n - s) % n, (r + 2 * n - s - 1) % n, s == 0⟩
/-- ag_step(s) (R225). -/
def agStep (n r s hop : Nat) : CollStep := ⟨.ag, hop, (r + 1 + 2 * n - s) % n, (r + 2 * n - s) % n, false⟩

/-- The schedule of a member (R225). -/
def coSteps (d : List Byte) : List CollStep :=
  let n := coNmem d
  let r := coRank d
  match coOp d with
  | 0 => [rsStep n r (coSstep d) (coSstep d)]
  | 1 => [agStep n r (coSstep d) (coSstep d)]
  | 2 => (List.range (n - 1)).map (fun s => rsStep n r s s) ++ (List.range (n - 1)).map (fun s => agStep n r s (n - 1 + s))
  | _ => [⟨if r = coSstep d then .root else .pass, 0, 0, 0, true⟩]

-- Chunk data ----------------------------------------------------------------------------------------------------------

/-- The elements and scale bytes of a chunk, each with its poison. -/
structure ChunkData where
  els : List (Nat × Bool)
  scales : List (Nat × Bool)
deriving DecidableEq, Repr

/-- Reads bytes with the poison of the granule each lies in. -/
def State.readFlagged (s : State) (pl : Place) (n : Nat) (since : Option MWait) : Res (List (Byte × Bool)) :=
  (granSplit pl.addr n).foldl (fun r p => r.bind fun s acc =>
    (s.readG (pl.at_ p.1) since).bind fun s g =>
      .ok s (acc ++ (((bytesOf g.1.toNat 32).drop p.2.1).take p.2.2).map (fun b => (b, g.2)))) (.ok s [])

/-- Writes bytes that carry poison to DST, a granule at a time: a granule that takes a poisoned byte is poisoned (R276). The granules are
numbered from `n0`; `wrote` counts those a held unit has written, which are not written again (R202). -/
def State.writeFlagged (s : State) (c : CoreId) (q : Cmd) (pl : Place) (bs : List (Byte × Bool)) (n0 : Nat) (since : Option MWait) : Res Unit :=
  let gs := granSplit pl.addr bs.length
  (gs.zip (List.range gs.length)).foldl (fun r p => r.bind fun s _ =>
    let here := (bs.drop (p.1.1 + p.1.2.1 - pl.addr)).take p.1.2.2
    if n0 + p.2 < q.wrote then .ok s ()
    else
      (s.writeG (pl.at_ p.1.1) (BitVec.ofNat 256 (flaggedNat here * 2 ^ (8 * p.1.2.1))) (runMask p.1.2.1 p.1.2.2) (flaggedBad here) since).bind fun s _ =>
        .ok (s.modCmd c q.id (fun x => { x with wrote := n0 + p.2 + 1 })) ())
    (.ok s ())

/-- Groups flagged bytes into elements of `e` bytes. -/
def groupEls (e : Nat) (bs : List (Byte × Bool)) : List (Nat × Bool) :=
  (List.range (bs.length / e)).map (fun j => let g := (bs.drop (e * j)).take e; (leNat (g.map (·.1)), g.any (·.2)))

/-- Flagged bytes of elements. -/
def flatEls (e : Nat) (els : List (Nat × Bool)) : List (Byte × Bool) := els.flatMap (fun x => (bytesOf x.1 e).map (fun b => (b, x.2)))

/-- Reads a chunk of a bucket by a way to read bytes at an offset. -/
def State.readChunk (s : State) (read : State → Nat → Nat → Res (List (Byte × Bool))) (d : List Byte) (c : Nat) : Res ChunkData :=
  let e := wireBytes (coWire d)
  let sp := chunkSpan d c
  (read s (sp.1 * e) (sp.2 * e)).bind fun s a =>
    if coWire d = 2 then .ok s ⟨groupEls e a, []⟩
    else (read s (coCount d * e + sp.1 / 32) (sp.2 / 32)).bind fun s b => .ok s ⟨groupEls e a, groupEls 1 b⟩

/-- Reads bytes of a COLL's SRC, each granule once (R202). -/
def State.readCollSrc (s : State) (c : CoreId) (q : Cmd) (since : Option MWait) (off n : Nat) : Res (List (Byte × Bool)) :=
  s.readSrc c q (coSrc (q.blocks.getD 0 [])) (off : Nat) n since

/-- Reads bytes of a COLL's DST, as its steps have left it. -/
def State.readCollDst (s : State) (c : CoreId) (q : Cmd) (since : Option MWait) (off n : Nat) : Res (List (Byte × Bool)) :=
  (s.via c q (coDst (q.blocks.getD 0 [])) (off : Nat)).bind fun s pl => s.readFlagged pl n since

/-- Writes a chunk of DST. -/
def State.writeChunk (s : State) (c : CoreId) (q : Cmd) (d : List Byte) (n : Nat) (x : ChunkData) (since : Option MWait) : Res Unit :=
  let e := wireBytes (coWire d)
  let sp := chunkSpan d n
  (s.via c q (coDst d) (sp.1 * e : Nat)).bind fun s pl =>
    (s.writeFlagged c q pl (flatEls e x.els) 0 since).bind fun s _ =>
      if coWire d = 2 then .ok s ()
      else
        (s.via c q (coDst d) (coCount d * e + sp.1 / 32 : Nat)).bind fun s pl2 =>
          s.writeFlagged c q pl2 (flatEls 1 x.scales) (granSplit pl.addr (flatEls e x.els).length).length since

/-- A chunk every element of which is poisoned (R227). -/
def poisonChunk (d : List Byte) (c : Nat) : ChunkData :=
  let n := (chunkSpan d c).2
  ⟨List.replicate n (0, true), if coWire d = 2 then [] else List.replicate (n / 32) (0, true)⟩

/-- The elements of a chunk that are poison: by their own poison or their scale byte's (R38). -/
def poisonIxs (x : ChunkData) : List Nat :=
  (List.range x.els.length).filter (fun j => (x.els.getD j (0, false)).2 || (x.scales.getD (j / 32) (0, false)).2)

/-- The message of a chunk: header fields (R227) and data. -/
def chunkOf (d : List Byte) (hop : Nat) (x : ChunkData) : Chunk :=
  let e := wireBytes (coWire d)
  { op := BitVec.ofNat 8 (coOp d), ring := BitVec.ofNat 8 (coRing d), wire := BitVec.ofNat 8 (coWire d), nmem := BitVec.ofNat 8 (coNmem d),
    count := BitVec.ofNat 64 (coCount d), step := coN d, hop := hop,
    elems := ⟨x.els.flatMap (fun v => bytesOf v.1 e), (List.range x.els.length).filter (fun j => (x.els.getD j (0, false)).2)⟩,
    scales := ⟨x.scales.map (fun v => BitVec.ofNat 8 v.1), (List.range x.scales.length).filter (fun j => (x.scales.getD j (0, false)).2)⟩ }

/-- The data of a message. -/
def chunkData (ch : Chunk) : ChunkData :=
  let e := wireBytes ch.wire.toNat
  ⟨(List.range (ch.elems.bytes.length / e)).map (fun j => (leNat ((ch.elems.bytes.drop (e * j)).take e), ch.elems.bad.contains j)),
   (List.range ch.scales.bytes.length).map (fun j => ((ch.scales.bytes.getD j 0).toNat, ch.scales.bad.contains j))⟩

-- Hops (R226) ---------------------------------------------------------------------------------------------------------

/-- What a hop comes to: data, OSAT, OZERO, a bound hit, a trap-mode bound. -/
structure HopRes where
  data : ChunkData
  sticky : Sticky
  hit : Bool
  trap : Bool

/-- The bound on one result (R205, R228): none without BE or in mode 0. -/
def coBoundEl (q : Cmd) (d : List Byte) (e : OutEl) : OutEl × Bool :=
  if coBe d then boundOut (q.bnd.toList.getD (coBound d) 0) (bndMode q.bndmode (coBound d)) e else (e, false)

/-- hop_block (R226) of one block: elements with poison, scale byte with poison, of the inbound and of the local side. -/
def hopBlock (q : Cmd) (d : List Byte) (a b : List (Nat × Bool)) (sa sb : Nat × Bool) : List (Nat × Bool) × Nat × Sticky × Bool :=
  let w := if coWire d = 0 then 16 else 8
  let f := if coWire d = 0 then 10 else 3
  let u : Int := max ((sa.1 : Int) - 127) ((sb.1 : Int) - 127) - 45
  let nar (x : Nat) : Bool := x == 2 ^ (w - 1)
  let lin (x : Nat) (sc : Nat) : Int := roundInt .rne ((logValue x w f ((sc : Int) - 127)).scale (-u))
  let vs := (a.zip b).map (fun p =>
    if p.1.2 || p.2.2 || sa.2 || sb.2 then OutEl.poison
    else if sa.1 = 0xFF ∨ sb.1 = 0xFF ∨ nar p.1.1 ∨ nar p.2.1 then OutEl.nar
    else let t := lin p.1.1 sa.1 + lin p.2.1 sb.1; OutEl.val (.fin (t < 0) t.natAbs u))
  let bs := vs.map (coBoundEl q d)
  let x := outScale (bs.map (·.1)) 0
  let es := bs.map (fun e => blockElem (if coWire d = 0 then 3 else 4) x e.1)
  ((es.zip bs).map (fun p => (p.1.1, p.2.1 == .poison)), x, es.foldl (fun s e => s.or e.2) .none, bs.any (·.2))

/-- One FX64 element of a hop (R226): sat64 of the sum at UNIT, then the bound. -/
def hopFx (q : Cmd) (d : List Byte) (a b : Nat × Bool) : (Nat × Bool) × Sticky × Bool :=
  if a.2 || b.2 then
    let e := coBoundEl q d .poison
    ((0, true), .none, e.2)
  else
    let r := sat64 ((BitVec.ofNat 64 a.1).toInt + (BitVec.ofNat 64 b.1).toInt)
    let v : XVal := .fin (r.1 < 0) r.1.natAbs (coUnit d)
    let e := coBoundEl q d (.val v)
    let mode := bndMode q.bndmode (coBound d)
    let n : Int := if !e.2 || mode == 1 then r.1
      else match e.1 with
        | .val w => (match w with
            | .inf neg => if neg then -9223372036854775807 else 9223372036854775807
            | w => (sat64 (roundInt (if v.lt w then .rup else .rdn) (w.scale (-(coUnit d))))).1)
        | _ => r.1
    (((BitVec.ofInt 64 n).toNat, false), ⟨r.2, false⟩, e.2)

/-- hop (R226): the inbound chunk with the local one. -/
def hopChunk (q : Cmd) (d : List Byte) (a b : ChunkData) : HopRes :=
  let trap := bndMode q.bndmode (coBound d) == 3
  if coWire d = 2 then
    let r := (a.els.zip b.els).map (fun p => hopFx q d p.1 p.2)
    let hit := r.any (fun x => x.2.2)
    ⟨⟨r.map (·.1), []⟩, r.foldl (fun s x => s.or x.2.1) .none, hit, hit && trap⟩
  else
    let r := (List.range b.scales.length).map (fun i =>
      hopBlock q d ((a.els.drop (32 * i)).take 32) ((b.els.drop (32 * i)).take 32) (a.scales.getD i (0, true)) (b.scales.getD i (0, true)))
    let hit := r.any (fun x => x.2.2.2)
    ⟨⟨r.flatMap (·.1), r.map (fun x => (x.2.1, false))⟩, r.foldl (fun s x => s.or x.2.2.1) .none, hit, hit && trap⟩

-- Rings (R387) --------------------------------------------------------------------------------------------------------

/-- The ring table a COLL of core c uses. -/
def State.ringOf (s : State) (c : CoreId) (d : List Byte) : List (BitVec 32) := SMap.get [] s.ringTables ((s.core c).part.toNat * 4 + coRing d)

/-- The member of a rank: chip id and core id. -/
def State.member (s : State) (c : CoreId) (d : List Byte) (r : Nat) : BitVec 21 × CoreId :=
  let e := (s.ringOf c d).getD r 0
  (fld e 0 21, fld e 21 11)

/-- Whether the ring table fits a COLL (R387). -/
def State.ringOk (s : State) (c : CoreId) (d : List Byte) : Bool :=
  decide ((s.ringOf c d).length = coNmem d) && s.member c d (coRank d) == (s.chip, c)

/-- The right neighbour (R225). -/
def State.rightOf (s : State) (c : CoreId) (d : List Byte) : BitVec 21 × CoreId := s.member c d ((coRank d + 1) % coNmem d)

/-- Whether a member sends on what a broadcast brought: not when its right neighbour is the root (R225). -/
def passOn (d : List Byte) : Bool := (coRank d + 1) % coNmem d != coSstep d

/-- Numbers an item that stays on the package and lets it travel over the mesh (R384, R387). -/
def State.flyChunk (s : State) (c : CoreId) (q : Cmd) (kind : FabKind) : State :=
  let k := s.core c
  let n : BitVec 32 := SMap.get 0 k.fabSeq s.chip.toNat
  let s1 := s.setCore c { k with fabSeq := SMap.set 0 k.fabSeq s.chip.toNat (n + 1) }
  { s1 with flying := s1.flying ++ [⟨s.chip, c, n, k.part, none, cmdClass q, kind⟩] }

/-- Sends a chunk to the right (R225, R227): LINK without a route. -/
def State.sendChunk (s : State) (c : CoreId) (q : Cmd) (d : List Byte) (hop : Nat) (x : ChunkData) : Option State :=
  let nbr := s.rightOf c d
  let ch := chunkOf d hop x
  let kind := FabKind.chunk nbr.2 ch
  let s := s.countBytes c (fun p => { p with collBytes := satAdd p.collBytes (ch.elems.bytes.length + ch.scales.bytes.length) })
  if nbr.1 = s.chip then some (s.flyChunk c q kind)
  else if !s.reachable nbr.1 then none
  else some (s.sendOp c q nbr.1 (s.core c).part kind)

-- Running -------------------------------------------------------------------------------------------------------------

/-- Phase of a step (0 sends, 1 waits, 2 writes poison), tick from which it waits, and chunks it had to miss. -/
def collPhase (q : Cmd) : Nat := q.nums.getD 0 0
/-- The tick a member began to wait, put off by the ticks in which it was held (R364). -/
def collWait (q : Cmd) : Nat := q.nums.getD 1 0
/-- The tick in which its wait was last looked at. -/
def collLook (q : Cmd) : Nat := q.nums.getD 2 0
/-- Chunks missed so far. -/
def collMissed (q : Cmd) : List Nat := q.nums.drop 3
/-- Moves to another phase in a tick. -/
def Cmd.collTo (q : Cmd) (phase now : Nat) : Cmd := { q with nums := phase :: now :: now :: collMissed q }

/-- What the inbound chunks of a core say to a step (R227): the chunk of this hop, a header that differs, or nothing yet; with
what stays. Data of an earlier hop is discarded, of a later hop kept. -/
inductive Inbound where
  | nothing | chunk (x : ChunkData) | differs
deriving DecidableEq, Repr

/-- Looks through the inbound chunks of a core in order of arrival. -/
def lookInbound (c : CoreId) (d : List Byte) (hop : Nat) : List (CoreId × Chunk) → List (CoreId × Chunk) × Inbound
  | [] => ([], .nothing)
  | e :: rest =>
    let pass := let r := lookInbound c d hop rest; (e :: r.1, r.2)
    if e.1 != c then pass
    else
      let h := { chunkName e.2 with hop := 0 }
      if h != { chunkName (chunkOf d 0 ⟨[], []⟩) with hop := 0 } then (rest, .differs)
      else if e.2.hop < hop then lookInbound c d hop rest
      else if e.2.hop = hop then (rest, .chunk (chunkData e.2))
      else pass

/-- Whether the collective engine holds a member's DST writes and its inbound data (R364): a cut of a lower step is to come. -/
def State.collHeld (s : State) (c : CoreId) (d : List Byte) : Bool :=
  (s.comingSnaps (s.core c).part).any (fun w => (snapN w).ult (coN d))

/-- The time a member waits for a chunk, tick by tick: a tick in which it is held does not count (R364). -/
def State.collClock (s : State) (c : CoreId) (id : Nat) : State :=
  s.modCmd c id (fun q => match q.ins with
    | .coll _ =>
      if collPhase q = 1 then
        (let wait := if s.collHeld c (q.blocks.getD 0 []) then collWait q + (s.tnow.toNat - collLook q) else collWait q
         { q with nums := 1 :: wait :: s.tnow.toNat :: collMissed q })
      else q
    | _ => q)

/-- Notes the elements of a chunk that a step wrote as poison, each element of DST once (Table 7). -/
def Cmd.noteChunk (q : Cmd) (d : List Byte) (n : Nat) (x : ChunkData) : Cmd :=
  let bad := (poisonIxs x).map (fun j => (chunkSpan d n).1 + j)
  let all := q.data.bad ++ bad.filter (fun j => !q.data.bad.contains j)
  { q with data := ⟨q.data.bytes, all⟩, accepted := BitVec.ofNat 64 all.length, met := if bad.isEmpty then q.met else q.met ++ [.poison] }

/-- Ends a step. -/
def Cmd.collNext (q : Cmd) (d : List Byte) : Cmd :=
  { q.collTo 0 0 with pos := q.pos + 1, wrote := 0, finished := decide (q.pos + 1 ≥ (coSteps d).length) }

/-- A step's end after DST is written: the other members of a broadcast send it on. -/
def State.collAfter (s : State) (c : CoreId) (q : Cmd) (d : List Byte) (st : CollStep) (x : ChunkData) : Res Cmd :=
  if st.kind == .pass && passOn d then
    match s.sendChunk c q d st.hop x with
    | some s1 => .ok s1 (q.collNext d)
    | none => .ok s { q with finished := true, met := q.met ++ [.link] }
  else .ok s (q.collNext d)

/-- Writes the chunk of a step to DST and ends the step. -/
def State.collWrite (s : State) (c : CoreId) (q : Cmd) (d : List Byte) (st : CollStep) (x : ChunkData) (since : Option MWait) : Res Cmd :=
  (s.writeChunk c q d st.recv x since).bind fun s _ => s.collAfter c (q.noteChunk d st.recv x) d st x

/-- Takes what the inbound chunks said out of the package once a step has used it, or has ended its command. -/
def Res.taken {α : Type} (r : Res α) (chunks : List (CoreId × Chunk)) : Res α :=
  match r with
  | .ok s a => .ok { s with chunks := chunks } a
  | .stop s st => .stop { s with chunks := chunks } st
  | .hold s h => .hold s h

/-- A later arrival of the data of a step is to be discarded (R227). -/
def State.missChunk (s : State) (c : CoreId) (d : List Byte) (hop : Nat) : State :=
  { s with missed := s.missed ++ [(c, chunkName (chunkOf d hop ⟨[], []⟩))] }

/-- Marks the chunk of a step as missing (R227). -/
def Cmd.collMiss (q : Cmd) (st : CollStep) (why : Status) : Cmd :=
  { q with nums := 2 :: collWait q :: collLook q :: (collMissed q ++ [st.recv]), met := q.met ++ [why],
           refused := if st.recv < 64 then q.refused ||| maskBit st.recv else q.refused }

/-- One unit of a COLL (R225-R227). -/
def State.collUnit (s : State) (c : CoreId) (q : Cmd) (since : Option MWait) : Res Cmd :=
  let d := q.blocks.getD 0 []
  match (coSteps d)[q.pos]? with
  | none => .ok s { q with finished := true }
  | some st =>
    let src (s : State) := s.readCollSrc c q since
    let dst (s : State) := s.readCollDst c q since
    let held := s.collHeld c d
    match collPhase q with
    | 0 =>
      if st.kind == .root then
        if held then .ok s q
        else
          (s.readChunk src d 0).bind fun s x =>
            (s.writeChunk c q d 0 x since).bind fun s _ =>
              match s.sendChunk c q d st.hop x with
              | some s1 => .ok s1 ((q.noteChunk d 0 x).collNext d)
              | none => .ok s { q.noteChunk d 0 x with finished := true, met := (q.noteChunk d 0 x).met ++ [.link] }
      else if st.kind == .pass then .ok s (q.collTo 1 s.tnow.toNat)
      else
        (s.readChunk (if st.fromSrc then src else dst) d st.send).bind fun s x =>
          let y := if (collMissed q).contains st.send then poisonChunk d st.send else x
          match s.sendChunk c q d st.hop y with
          | some s1 => .ok s1 (q.collTo 1 s.tnow.toNat)
          | none => .ok s { q with finished := true, met := q.met ++ [.link] }
    | 1 =>
      if held then .ok s q
      else
        let r := lookInbound c d st.hop s.chunks
        match r.2 with
        | .nothing => .ok { s with chunks := r.1 } q
        | .differs => .ok ({ s with chunks := r.1 }.missChunk c d st.hop) (q.collMiss st .record)
        | .chunk x =>
          Res.taken (if st.kind == .rs then
            (s.readChunk src d st.recv).bind fun s l =>
              let h := hopChunk q d x l
              let q1 := { q with osat := q.osat || h.sticky.osat, ozero := q.ozero || h.sticky.ozero,
                                 hits := if h.hit then q.hits ||| (1#16 <<< coBound d) else q.hits,
                                 met := if h.trap then q.met ++ [.partial_] else q.met }
              s.collWrite c q1 d st h.data since
          else s.collWrite c q d st x since) r.1
    | _ => if held then .ok s q else s.collWrite c q d st (poisonChunk d st.recv) since

/-- The handles a COLL touches (R309). -/
def collTouches (q : Cmd) : List Touch :=
  let d := q.blocks.getD 0 []
  let n : Int := bucketBytes (coWire d) (coCount d)
  [⟨coSrc d, 0, n, .src⟩, ⟨coDst d, 0, n, .dst⟩]

/-- Whether a COLL's ready semaphore lets it start (R228). -/
def Core.collReady (k : Core) (q : Cmd) : Bool :=
  let d := q.blocks.getD 0 []
  !bit (coRdys d) 7 || !((k.sem (fld (coRdys d) 0 6)).val.ult (coRdyt d))

/-- Starts a COLL (R228, R387): the threshold is taken from the semaphore; RIGHTS, then RECORD without its place in the ring. -/
def State.startColl (s : State) (c : CoreId) (q : Cmd) : State :=
  let d := q.blocks.getD 0 []
  let s1 := if bit (coRdys d) 7 then s.semAdd c (fld (coRdys d) 0 6) (-((coRdyt d).toNat : Int)) else s
  let s2 := s1.startChecked c q (collTouches q)
  if s.ringOk c d then s2 else s2.finish c q.id [.record]

/-- A chunk arrives (R225, R387): one of this package's own members leaves the mesh, where a router delivers to cores of the sender's partition only
(R376); one from another package is taken under its number (R385), when the links are in service (R414). -/
def execCollChunkArrival (op : FabOp) (s : State) : Host.Outcome State Fault Refusal :=
  match op.kind with
  | .chunk core ch =>
    if op.srcChip = s.chip then
      let t := { s with flying := s.flying.erase op }
      if s.flying.contains op then .next (if s.ownsCore op.part core then t.takeChunk core ch else t) else .next s
    else .next (if s.firmware then s.opArrives op else s)
  | _ => .next s

/-- A member has waited COLLTO ticks for an inbound chunk (R227): 0 means 2^32 - 1; time held before a cut does not count (R364). -/
def State.collLate (s : State) (c : CoreId) (q : Cmd) : Bool :=
  let d := q.blocks.getD 0 []
  match (coSteps d)[q.pos]? with
  | none => false
  | some st =>
    let limit := if q.collto = 0 then 2 ^ 32 - 1 else q.collto.toNat
    isColl q.ins && q.started && !q.finished && collPhase q == 1 && !s.collHeld c d
      && (lookInbound c d st.hop s.chunks).2 == .nothing && decide (s.tnow.toNat - collWait q ≥ limit)
where
  /-- Whether a command is a COLL. -/
  isColl (i : Instr) : Bool := match i with | .coll _ => true | _ => false

/-- The member stops waiting for its chunk (R227): TIMEOUT, and what arrives late is to be discarded. -/
def execCollHopTimeout (core : CoreId) (q : Nat) (s : State) : Host.Outcome State Fault Refusal :=
  match (s.core core).cmd q with
  | none => .next s
  | some r =>
    let d := r.blocks.getD 0 []
    match (coSteps d)[r.pos]? with
    | none => .next s
    | some st =>
      if s.collLate core r then
        .next ((s.missChunk core d st.hop).modCmd core q (fun x => x.collMiss st .timeout))
      else .next s

-- Level 3 barriers (R388) ---------------------------------------------------------------------------------------------

/-- A package's level 3 arrival count reaches the root (R388): the number of its arrivals of the current phase so far. -/
def execL3ArrivalCount (key : Word) (chip : BitVec 21) (count : BitVec 32) (s : State) : Host.Outcome State Fault Refusal :=
  if !s.firmware || !s.isRoot key || chip = s.chip then .next s
  else .next ({ s with l3 := s.l3.filter (fun (e : Word × BitVec 21 × BitVec 32) => !(e.1 == key && e.2.1 == chip)) ++ [(key, chip, count)] }.l3Decide key)

/-- A level 3 phase change from the root reaches this package (R388). -/
def execL3PhaseChange (key : Word) (s : State) : Host.Outcome State Fault Refusal :=
  .next (if s.firmware then { s with bars := setBar s.bars key .l3 0 }.phaseChange key .l3 else s)

end Sys2Proof.Machine
end

