-- ==== Sys2Proof/Machine/Dredge.lean ====
section
/-! DEFINITION. Dredge scans (R229, R230, R352-R359): granules read by eight engines, elements judged, the merge and the
result. -/
namespace Sys2Proof.Machine
open Sys2Proof

-- Footprint (R353, R354) ----------------------------------------------------------------------------------------------

/-- Whether a command is a scan. -/
def isDrg (i : Instr) : Bool := match i with | .drg _ => true | _ => false

/-- IA of the element at a position of the traversal, given the IA of BASE (R208). -/
def drgElemIa (g : List Byte) (base : Nat) (i : Nat) : Nat :=
  let ix := indexOf g i
  if fmtBlock (shFmt g) then ((base : Int) + offsetIx g 1 ix + (ix.getD 0 0 : Int)).toNat else ((base : Int) + offsetIx g 0 ix).toNat

/-- Byte offset in the scale plane of an element's block (R40). -/
def drgScaleOff (g : List Byte) (i : Nat) : Nat := let ix := indexOf g i; rowIx g ix * rowBlocks g + ix.getD 0 0 / 32

/-- Inserts an address into a rising list without repeats. -/
def addGran (gs : List Nat) (a : Nat) : List Nat := insertNat (a / 32 * 32) gs

/-- The IA of a tag 0x2 pointer of core c to local HBM. -/
def State.ptrIa (s : State) (c : CoreId) (p : Word) : Nat := hBase (s.handle (s.core c).part (ptrHandle p)) + offsetOf p

/-- Granules of a scan, rising: those of the elements and of the scale plane. -/
def State.drgGranules (s : State) (c : CoreId) (g : List Byte) : List Nat :=
  let n := regionCount g
  let els := (List.range n).foldl (fun gs i => addGran gs (drgElemIa g (s.ptrIa c (shBase g)) i)) []
  if shBcode g = 1 then (List.range n).foldl (fun gs i => addGran gs (s.ptrIa c (shScalep g) + drgScaleOff g i)) els else els

/-- The stack, and so the engine, of an IA (R312). -/
def stackOf (ia : Nat) : Nat := ia / 4096 % 8

/-- The next granule of an engine's part of a scan: ascending, each once (R354). -/
def State.drgNext (s : State) (c : CoreId) (q : Cmd) (engine : BitVec 3) : Option Nat :=
  let part := (s.core c).part
  (s.drgGranules c (q.blocks.getD 1 [])).find? (fun a =>
    stackOf a == engine.toNat && !q.got.any (fun r => r.1 == Place.ia part a))

/-- Whether the handles by which a scan reaches a granule still have the generation it bound (R310). -/
def State.drgGenOk (s : State) (c : CoreId) (q : Cmd) (a : Nat) : Bool :=
  let g := q.blocks.getD 1 []
  let own := (List.range (regionCount g)).any (fun i => drgElemIa g (s.ptrIa c (shBase g)) i / 32 == a / 32)
  if own then s.genOk c q (shBase g) else s.genOk c q (shScalep g)

/-- Whether every engine of a scan has finished. -/
def State.drgScanned (s : State) (c : CoreId) (q : Cmd) : Bool :=
  (List.range 8).all (fun e => (s.drgNext c q (BitVec.ofNat 3 e)).isNone)

/-- An engine's own hold. -/
def Cmd.engineHold (q : Cmd) (e : BitVec 3) : Option Held := (q.parts.find? (fun p => p.1 == e)).map (·.2)

/-- A dredge engine reads one granule of a scan (R354): a fault holds only its part. -/
def execDredgeScanGranule (core : CoreId) (q : Nat) (engine : BitVec 3) (s : State) : Host.Outcome State Fault Refusal :=
  match (s.core core).cmd q with
  | none => .next s
  | some r =>
    if !isDrg r.ins || !r.started || r.finished || !r.data.bytes.isEmpty then .next s
    else
      match s.drgNext core r engine with
      | none => .next s
      | some a =>
        let h := r.engineHold engine
        let free : List (BitVec 3 × Held) := r.parts.filter (fun p => p.1 != engine)
        if !s.drgGenOk core r a then .next ((s.dropFault h).finish core q [.rights])
        else
          match s.holdNow h with
          | .still => .next s
          | .page => .next ((s.dropFault h).finish core q [.page])
          | .retry since =>
            let pl := Place.ia (s.core core).part a
            match s.readG pl since with
            | .ok s1 v => .next ((s1.dropFault h).modCmd core q (fun x => { x with parts := free, got := x.got ++ [(pl, v.1, v.2)] }))
            | .stop s1 st => .next ((s1.dropFault h).finish core q [st])
            | .hold s1 w => .next ((s1.modCmd core q (fun x => { x with parts := free ++ [(engine, w.why)] })).reportOwn w core (cmdOp r.ins) r.cls)

-- Elements (R230, R354, R355) -----------------------------------------------------------------------------------------

/-- An element as a scan sees it: index, bits as stored, block scale byte, poison. -/
structure DrgEl where
  ix : Nat
  bits : Nat
  scale : Nat
  bad : Bool
deriving DecidableEq, Repr

/-- Bytes of a granule already read, with its poison. -/
def Cmd.gotBytes (q : Cmd) (part : BitVec 5) (a n : Nat) : Nat × Bool :=
  match q.got.find? (fun r => r.1 == Place.ia part (a / 32 * 32)) with
  | some r => ((r.2.1.toNat >>> (8 * (a % 32))) % 2 ^ (8 * n), r.2.2)
  | none => (0, true)

/-- The element at a position. -/
def State.drgEl (s : State) (c : CoreId) (q : Cmd) (i : Nat) : DrgEl :=
  let g := q.blocks.getD 1 []
  let part := (s.core c).part
  let v := q.gotBytes part (drgElemIa g (s.ptrIa c (shBase g)) i) (elemBytes (shFmt g))
  let x : Nat × Bool :=
    if !fmtBlock (shFmt g) then (0, false)
    else if shBcode g = 1 then q.gotBytes part (s.ptrIa c (shScalep g) + drgScaleOff g i) 1
    else ((shBscale g).toNat, false)
  ⟨i, v.1, x.1, v.2 || x.2⟩

/-- The exact value of an element (R355). -/
def drgVal (g : List Byte) (e : DrgEl) : XVal :=
  match shFmt g with
  | 0x10 => fp32.decode e.bits
  | 0x0C => bf16.decode e.bits
  | 0x0D => fp16.decode e.bits
  | 0x11 => lgmValue (BitVec.ofNat 16 e.bits) (shTscale g)
  | 0x04 => if e.scale = 0xFF then .nan else logValue e.bits 8 3 ((e.scale : Int) - 127)
  | f => let i := sgn (fmtBits f) e.bits; .fin (i < 0) i.natAbs 0

/-- A comparison of R229 by "less" and "greater". -/
def cmpBy (cmp : Nat) (lt gt : Bool) : Bool :=
  match cmp with
  | 0 => !lt && !gt | 1 => lt || gt | 2 => lt | 3 => !gt | 4 => gt | _ => !lt

/-- An unsigned comparison of R230. -/
def cmpNat (cmp : Nat) (a b : Nat) : Bool :=
  match cmp with
  | 6 => a &&& b != 0 | 7 => a &&& b == 0 | n => cmpBy n (a < b) (a > b)

/-- The constant of a value or magnitude term (Table 12). -/
def termConst (b g : List Byte) (t : Nat) : XVal :=
  if intFmt (shFmt g) then (let i := (tConst b t).toInt; .fin (i < 0) i.natAbs 0) else fp32.decode (fld (tConst b t) 0 32).toNat

/-- term_true (R230). -/
def termTrue (b g : List Byte) (t : Nat) (e : DrgEl) : Bool :=
  match tField b t with
  | 2 => cmpNat (tCmp b t) e.ix (tConst b t).toNat
  | 3 => cmpNat (tCmp b t) ((e.bits >>> tPos b t) % 2 ^ tWid b t) ((tConst b t).toNat % 2 ^ tWid b t)
  | f =>
    let v := if f = 1 then (drgVal g e).withSign false else drgVal g e
    let k := termConst b g t
    cmpBy (tCmp b t) (v.lt k) (k.lt v)

/-- qualifies (R230) of a clean element. -/
def drgQualifies (b g : List Byte) (e : DrgEl) : Bool :=
  drgVal g e != .nan
    && (drTt b).getLsbD ((List.range (drNt b)).foldl (fun n t => if termTrue b g t e then n + 2 ^ t else n) 0)

-- Merge and result (R356-R359) ----------------------------------------------------------------------------------------

/-- Whether a qualifier ranks before another (R356). -/
def drgBefore (mode : Nat) (a b : DrgEl × XVal) : Bool :=
  let byIx := decide (a.1.ix < b.1.ix)
  match mode with
  | 1 => if b.2.lt a.2 then true else if a.2.lt b.2 then false else byIx
  | 2 => if a.2.lt b.2 then true else if b.2.lt a.2 then false else byIx
  | _ => byIx

/-- Puts a qualifier in its place. -/
def drgInsert (mode : Nat) (e : DrgEl × XVal) : List (DrgEl × XVal) → List (DrgEl × XVal)
  | [] => [e]
  | x :: rest => if drgBefore mode e x then e :: x :: rest else x :: drgInsert mode e rest

/-- D (R358). -/
def drgLen (b : List Byte) : Nat := if drMode b = 3 then 64 else 32 * ((64 + 16 * drK b + 31) / 32)

/-- The result of a scan (R357, R358, Table 1), with whether any element was excluded. -/
def drgResult (b g : List Byte) (els : List DrgEl) : List Byte × Bool :=
  let mode := drMode b
  let quals := (els.filter (fun e => !e.bad && drgQualifies b g e)).map (fun e => (e, drgVal g e))
  let out := (els.filter (·.bad)).length
  let best := if mode = 3 then [] else (quals.foldl (fun l e => drgInsert mode e l) []).take (drK b)
  let head := bytesOf (statusCode (if out = 0 then .ok else .partial_)) 1 ++ bytesOf mode 1 ++ bytesOf (shFmt g) 1
    ++ bytesOf (if mode = 0 ∧ quals.length > drK b then 1 else 0) 1 ++ bytesOf best.length 4 ++ bytesOf quals.length 8
    ++ bytesOf out 8 ++ bytesOf els.length 8 ++ bytesOf (if shFmt g = 0x11 then (BitVec.ofInt 8 (shTscale g)).toNat else 0) 1
    ++ List.replicate 31 0
  let body := best.flatMap (fun e => bytesOf e.1.ix 8 ++ bytesOf e.1.bits 4 ++ bytesOf e.1.scale 1 ++ List.replicate 3 0)
  (head ++ body ++ List.replicate (drgLen b - 64 - 16 * best.length) 0, out != 0)

/-- When every engine has finished, the merge engine makes the result (R357). -/
def execDredgeMerge (core : CoreId) (q : Nat) (s : State) : Host.Outcome State Fault Refusal :=
  match (s.core core).cmd q with
  | none => .next s
  | some r =>
    if !isDrg r.ins || !r.started || r.finished || !r.data.bytes.isEmpty || !s.drgScanned core r then .next s
    else
      let els := (List.range (regionCount (r.blocks.getD 1 []))).map (s.drgEl core r)
      let out := drgResult (r.blocks.getD 0 []) (r.blocks.getD 1 []) els
      .next (s.modCmd core q (fun x => { x with data := ⟨out.1, []⟩, met := if out.2 then x.met ++ [.partial_] else x.met }))

/-- A piece of work whose effects count only when all of it is done. -/
def Res.whole {α : Type} (r : Res α) (s : State) : Res α :=
  match r with | .ok s1 a => .ok s1 a | .stop _ st => .stop s st | .hold _ h => .hold s h

/-- The delivery of a result (R359): to the berth, once it has accepted, or to the handle; a result is written whole or not at all. -/
def State.drgUnit (s : State) (c : CoreId) (q : Cmd) (since : Option MWait) : Res Cmd :=
  let b := q.blocks.getD 0 []
  if q.data.bytes.length = 0 then .ok s q
  else if drDkind b = 1 then
    Res.whole ((s.via c q (drDest b) 0).bind fun s pl =>
      (s.writeBytes pl q.data.bytes false since).bind fun s _ => .ok s { q with finished := true }) s
  else
    match q.bufs with
    | [] => .ok s q
    | (t, a) :: _ =>
      (s.writeBytes (.sp t a) q.data.bytes false none).bind fun s _ =>
        .ok (s.modCore t (fun k => k.modBerth (BitVec.ofNat 5 (drBerth b)) (fun x => { x with atag := drTag b }))) { q with finished := true }

/-- The handles a scan touches (R353). -/
def drgTouches (q : Cmd) : List Touch :=
  let b := q.blocks.getD 0 []
  let g := q.blocks.getD 1 []
  let sp := shapeSpan g
  [⟨shBase g, sp.1, sp.2, .drgRegion⟩]
    ++ (if shBcode g = 1 then [⟨shScalep g, 0, scaleBytes g, .drgRegion⟩] else [])
    ++ (if drDkind b = 1 then [⟨drDest b, 0, drgLen b, .drgDst⟩] else [])

/-- Starts a scan (R353): the handles, and the scale plane, which must lie in local HBM. -/
def State.startDrg (s : State) (c : CoreId) (q : Cmd) : State :=
  let g := q.blocks.getD 1 []
  if shBcode g = 1 ∧ tagOf (shScalep g) ≠ 2 then (s.begin c q).finish c q.id [.rights] else s.startChecked c q (drgTouches q)

/-- Scans active in the package: at most 16 (R352). -/
def State.activeScans (s : State) : Nat :=
  (allCores.map (fun c => ((s.core c).queue.filter (fun q => isDrg q.ins && q.started && !q.finished)).length)).sum

end Sys2Proof.Machine
end

