-- ==== Sys2Proof/Machine/Trimmer.lean ====
section
/-! DEFINITION. The trimmers (R328, R332-R351): sweeps, their threads, and what each trimmer instruction does at its turn. -/
namespace Sys2Proof.Machine
open Sys2Proof

-- Threads (R336) ------------------------------------------------------------------------------------------------------

/-- Sweep flags (R350, Table 6, byte 1). -/
def tfOSAT : BitVec 8 := 1
/-- OZERO. -/
def tfOZERO : BitVec 8 := 2
/-- FXSAT. -/
def tfFXSAT : BitVec 8 := 4
/-- NEG. -/
def tfNEG : BitVec 8 := 8
/-- FLOOR. -/
def tfFLOOR : BitVec 8 := 16
/-- Poison met. -/
def tfPOISON : BitVec 8 := 32
/-- A flag when a condition holds. -/
def tfIf (b : Bool) (f : BitVec 8) : BitVec 8 := if b then f else 0
/-- The flags of a rounding to LGM16. -/
def tfSticky (s : Sticky) : BitVec 8 := tfIf s.osat tfOSAT ||| tfIf s.ozero tfOZERO

/-- A W register. -/
def Thread.wr (t : Thread) (n : BitVec 4) : BitVec 256 := t.w[n.toNat]'(n.isLt)
/-- The poison of a W register's granules. -/
def Thread.wrp (t : Thread) (n : BitVec 4) : BitVec 4 := t.wp[n.toNat]'(n.isLt)
/-- A C register. -/
def Thread.cr (t : Thread) (n : BitVec 3) : BitVec 32 := t.c[n.toNat]'(n.isLt)
/-- The poison of a C register. -/
def Thread.crp (t : Thread) (n : BitVec 3) : Bool := t.cp.getLsbD n.toNat
/-- Writes a W register. -/
def Thread.setW (t : Thread) (n : BitVec 4) (v : BitVec 256) (p : BitVec 4) : Thread :=
  { t with w := t.w.set n.toNat v n.isLt, wp := t.wp.set n.toNat p n.isLt }
/-- Writes a C register. -/
def Thread.setC (t : Thread) (n : BitVec 3) (v : BitVec 32) (p : Bool) : Thread :=
  { t with c := t.c.set n.toNat v n.isLt, cp := putBit t.cp n.toNat p }

/-- LGM16 lane j of a W value. -/
def laneL (w : BitVec 256) (j : Nat) : BitVec 16 := fld w (16 * j) 16
/-- FX32 lane j of a W value. -/
def laneX (w : BitVec 256) (j : Nat) : BitVec 32 := fld w (32 * j) 32
/-- A W value of sixteen LGM16 lanes. -/
def packL (f : Nat → BitVec 16) : BitVec 256 :=
  BitVec.ofNat 256 ((List.range 16).foldr (fun j acc => (f j).toNat * 2 ^ (16 * j) + acc) 0)
/-- A W value of eight FX32 lanes. -/
def packX (f : Nat → BitVec 32) : BitVec 256 :=
  BitVec.ofNat 256 ((List.range 8).foldr (fun j acc => (f j).toNat * 2 ^ (32 * j) + acc) 0)

/-- The FX32 NaR. -/
def fxNar : BitVec 32 := 0x80000000#32
/-- A number as an FX32 lane, clamped; FXSAT when it is. -/
def fxOf (i : Int) : BitVec 32 × BitVec 8 :=
  let c := clampInt (-2147483647) 2147483647 i
  (BitVec.ofInt 32 c.1, tfIf c.2 tfFXSAT)

/-- What becomes of the thread: the next instruction, a branch, the end of its item, a refused turn (R331), or the end of the
sweep with a status, a reason and a region offset (R349). -/
inductive TmCtl where
  | next | goto (n : Nat) | endItem | refuse | stop (st : Status) (reason : Nat) (off : Word)
deriving DecidableEq, Repr

/-- What an instruction of a thread comes to. -/
structure TmOut where
  th : Thread
  fl : BitVec 8
  ctl : TmCtl

/-- A result and the next instruction. -/
def tmNext (t : Thread) (fl : BitVec 8) : TmOut := ⟨t, fl, .next⟩

-- Turns (R334, R335, R349) --------------------------------------------------------------------------------------------

/-- The next item of a thread, or its end (R334). -/
def Sweep.nextItem (w : Sweep) (t : Thread) (item : Nat) : Thread :=
  if item < w.count then
    { t with item := item, ip := 0, c := t.c.set 0 (w.cpre[0] + BitVec.ofNat 32 item), cp := putBit t.cp 0 false, live := true }
  else { t with item := item, live := false }

/-- Carries an instruction's outcome into its sweep; the turn passes to the next slot (R335). -/
def Sweep.took (w : Sweep) (o : TmOut) : Sweep :=
  let i : BitVec 4 := w.turn
  let ended := { w with items := w.items + 1 }
  let done (w : Sweep) (t : Thread) : Sweep := { w with threads := w.threads.set i.toNat t i.isLt, flags := w.flags ||| o.fl, turn := i + 1 }
  let move (n : Nat) : Sweep :=
    if n < w.prog.length then done w { o.th with ip := n } else done ended (w.nextItem o.th (o.th.item + w.nthr))
  match o.ctl with
  | .next => move (o.th.ip + 1)
  | .goto n => move n
  | .endItem => done ended (w.nextItem o.th (o.th.item + w.nthr))
  | .refuse => { done w o.th with refused := w.refused + 1 }
  | .stop st r off => { done w { o.th with live := false } with stop := some ⟨st, r, i.toNat, o.th.ip, off⟩ }

/-- The thread whose turn it is. -/
def Sweep.thread (w : Sweep) : Thread := w.threads[w.turn.toNat]'(w.turn.isLt)

/-- Performs an instruction of the thread whose turn it is on the current core; nothing where no thread takes a turn. -/
def State.trimTurn (s : State) (f : State → CoreId → Sweep → Thread → State × TmOut) : State :=
  let c := s.cur
  match (s.core c).sweep with
  | none => s
  | some w =>
    if w.checked ∧ w.delay = 0 ∧ w.stop = none ∧ w.thread.live then
      let r := f s c w w.thread
      r.1.modCore c (fun k => { k with sweep := some (w.took r.2) })
    else s

/-- An instruction that only works on its thread. -/
def State.trimOp (s : State) (f : Thread → TmOut) : State := s.trimTurn (fun s _ _ t => (s, f t))

/-- The stop of a synchronising C register that is poisoned. -/
def tmSync (t : Thread) (c : BitVec 3) (o : TmOut) : TmOut := if t.crp c then ⟨t, 0, .stop .poison 7 0⟩ else o

-- The hold (R337, R340) -----------------------------------------------------------------------------------------------

/-- V of a capability entry (R332, Table 2). -/
def capV (e : BitVec 128) : Bool := bit e 0
/-- LD. -/
def capLd (e : BitVec 128) : Bool := bit e 1
/-- ST. -/
def capSt (e : BitVec 128) : Bool := bit e 2
/-- OWNER. -/
def capOwner (e : BitVec 128) : BitVec 5 := fld e 16 5
/-- BASE. -/
def capBase (e : BitVec 128) : Nat := (fld e 32 22).toNat
/-- BOUND. -/
def capBound (e : BitVec 128) : Nat := (fld e 64 23).toNat
/-- STAT. -/
def capStat (e : BitVec 128) : Nat := (fld e 88 17).toNat
/-- GEN. -/
def capGen (e : BitVec 128) : BitVec 16 := fld e 112 16

/-- Whether an entry is usable by a core of a partition (R332). -/
def capUsable (e : BitVec 128) (part : BitVec 5) : Bool :=
  capV e && capOwner e == part && decide (capBase e + capBound e ≤ 0x400000)
    && !(decide (capBase e ≤ 32 * capStat e) && decide (32 * capStat e < capBase e + capBound e))

/-- A capability entry of a core. -/
def Core.cap (k : Core) (n : BitVec 6) : BitVec 128 := k.caps[n.toNat]'(n.isLt)

/-- The check of an access (R337): the hold offset, or the stop. -/
def tmAccess (k : Core) (w : Sweep) (t : Thread) (cb : BitVec 3) (off : BitVec 16) (store : Bool) : Nat ⊕ TmCtl :=
  let e := k.cap w.cap
  let a : Int := 32 * ((t.cr cb).toInt + off.toInt)
  let fail (r : Nat) : Nat ⊕ TmCtl := .inr (.stop .rights r (BitVec.ofInt 64 a))
  if capGen e != w.gen then fail 4
  else if !(if store then capSt e else capLd e) then fail 2
  else if a < 0 ∨ a ≥ capBound e then fail 3
  else .inl (capBase e + a.toNat)

/-- A load (R340): `put` writes the word with its poison. -/
def State.tmLoad (s : State) (cb : BitVec 3) (off : BitVec 16) (put : Thread → BitVec 256 → Bool → Thread) : State :=
  s.trimTurn (fun s c w t =>
    if t.crp cb then (s, ⟨t, 0, .stop .poison 7 0⟩)
    else
      match tmAccess (s.core c) w t cb off false with
      | .inr e => (s, ⟨t, 0, e⟩)
      | .inl a =>
        let r := s.readColumn c (a / 32)
        (r.1, tmNext (put t r.2.1 r.2.2) (tfIf r.2.2 tfPOISON)))

/-- TMNOP (R348). -/
def execTmnop (s : State) : Host.Outcome State Fault Refusal := .next (s.trimOp (fun t => tmNext t 0))

/-- TMLD (R340). -/
def execTmld (d : BitVec 4) (cb : BitVec 3) (off : BitVec 16) (s : State) : Host.Outcome State Fault Refusal :=
  .next (s.tmLoad cb off (fun t v p => t.setW d v (if p then 0xF else 0)))

/-- TMLD.C (R340). -/
def execTmldC (d : BitVec 3) (cb : BitVec 3) (q : BitVec 3) (off : BitVec 16) (s : State) : Host.Outcome State Fault Refusal :=
  .next (s.tmLoad cb off (fun t v p => t.setC d (fld v (32 * q.toNat) 32) p))

/-- TMST (R340): a word of a granule marked by a cut refuses the turn and asks for its copy (R331). -/
def execTmst (d : BitVec 4) (cb : BitVec 3) (off : BitVec 16) (s : State) : Host.Outcome State Fault Refusal :=
  .next (s.trimTurn (fun s c w t =>
    if t.crp cb then (s, ⟨t, 0, .stop .poison 7 0⟩)
    else
      match tmAccess (s.core c) w t cb off true with
      | .inr e => (s, ⟨t, 0, e⟩)
      | .inl a =>
        match s.holdMark c a with
        | some g => (s.askCopy (s.core c).part g, ⟨t, 0, .refuse⟩)
        | none =>
          (s.modCore c (fun k => k.performHome true (a / 32) (t.wr d) (BitVec.allOnes 32) (some (t.wrp d != 0))), tmNext t 0)))

-- Lanes (R341-R347) ---------------------------------------------------------------------------------------------------

/-- Sixteen LGM16 lanes of two registers. -/
def tmL2 (t : Thread) (d a b : BitVec 4) (f : BitVec 16 → BitVec 16 → BitVec 16 × BitVec 8) : TmOut :=
  let r (j : Nat) := f (laneL (t.wr a) j) (laneL (t.wr b) j)
  tmNext (t.setW d (packL (fun j => (r j).1)) (t.wrp a ||| t.wrp b)) ((List.range 16).foldl (fun m j => m ||| (r j).2) 0)
/-- Sixteen LGM16 lanes of one register. -/
def tmL1 (t : Thread) (d a : BitVec 4) (f : BitVec 16 → BitVec 16 × BitVec 8) : TmOut :=
  let r (j : Nat) := f (laneL (t.wr a) j)
  tmNext (t.setW d (packL (fun j => (r j).1)) (t.wrp a)) ((List.range 16).foldl (fun m j => m ||| (r j).2) 0)
/-- Eight FX32 lanes of two registers. -/
def tmX2 (t : Thread) (d a b : BitVec 4) (f : BitVec 32 → BitVec 32 → BitVec 32 × BitVec 8) : TmOut :=
  let r (j : Nat) := f (laneX (t.wr a) j) (laneX (t.wr b) j)
  tmNext (t.setW d (packX (fun j => (r j).1)) (t.wrp a ||| t.wrp b)) ((List.range 8).foldl (fun m j => m ||| (r j).2) 0)
/-- Eight FX32 lanes of one register. -/
def tmX1 (t : Thread) (d a : BitVec 4) (f : BitVec 32 → BitVec 32 × BitVec 8) : TmOut :=
  let r (j : Nat) := f (laneX (t.wr a) j)
  tmNext (t.setW d (packX (fun j => (r j).1)) (t.wrp a)) ((List.range 8).foldl (fun m j => m ||| (r j).2) 0)

/-- An LGM16 result with its flags. -/
def tmLgm (r : BitVec 16 × Sticky) : BitVec 16 × BitVec 8 := (r.1, tfSticky r.2)

/-- TMADD (R341). -/
def execTmadd (d a b : BitVec 4) (s : State) : Host.Outcome State Fault Refusal :=
  .next (s.trimOp (fun t => tmL2 t d a b (fun x y => tmLgm (lgmAdd x y false))))
/-- TMSUB (R341). -/
def execTmsub (d a b : BitVec 4) (s : State) : Host.Outcome State Fault Refusal :=
  .next (s.trimOp (fun t => tmL2 t d a b (fun x y => tmLgm (lgmAdd x y true))))
/-- TMADDL (R341). -/
def execTmaddl (d a b : BitVec 4) (s : State) : Host.Outcome State Fault Refusal :=
  .next (s.trimOp (fun t => tmL2 t d a b (fun x y => tmLgm (lgmMul x y))))

/-- L of an LGM16 lane. -/
def lgmL (x : BitVec 16) : Nat := x.toNat % 32768
/-- The functions of TMSHR (R342). -/
inductive ShrFn where
  | sqrt | rsqrt | rcp
deriving DecidableEq, Repr

/-- nearest_even(x/2). -/
def halfEven (x : Int) : Int := if x % 2 = 0 then x / 2 else if (x / 2) % 2 = 0 then x / 2 else x / 2 + 1

/-- One lane of TMSHR (R342). -/
def shrLane (fn : ShrFn) (x : BitVec 16) : BitVec 16 × BitVec 8 :=
  let l := lgmL x
  let u : Int := (l : Int) - 16384
  if l = 0 then (if fn = .sqrt then (x, 0) else (lgmNar, 0))
  else
    match fn with
    | .rcp => (BitVec.ofNat 16 ((if bit x 15 then 32768 else 0) + (32768 - l)), 0)
    | .sqrt => if bit x 15 then (lgmNar, tfNEG) else (BitVec.ofInt 16 (16384 + halfEven u), 0)
    | .rsqrt => if bit x 15 then (lgmNar, tfNEG) else (BitVec.ofInt 16 (16384 - halfEven u), 0)

/-- TMSHR.SQRT (R342). -/
def execTmshrSqrt (d a : BitVec 4) (s : State) : Host.Outcome State Fault Refusal := .next (s.trimOp (fun t => tmL1 t d a (shrLane .sqrt)))
/-- TMSHR.RSQRT (R342). -/
def execTmshrRsqrt (d a : BitVec 4) (s : State) : Host.Outcome State Fault Refusal := .next (s.trimOp (fun t => tmL1 t d a (shrLane .rsqrt)))
/-- TMSHR.RCP (R342). -/
def execTmshrRcp (d a : BitVec 4) (s : State) : Host.Outcome State Fault Refusal := .next (s.trimOp (fun t => tmL1 t d a (shrLane .rcp)))

/-- TMCVT.L2F (R343) of half h. -/
def tmL2f (t : Thread) (h : Nat) (d a : BitVec 4) (k : BitVec 8) : TmOut :=
  let r (j : Nat) : BitVec 32 × BitVec 8 :=
    let x := laneL (t.wr a) (8 * h + j)
    if isLgmNar x then (fxNar, 0) else if lgmL x = 0 then (0, 0)
    else fxOf (roundInt .rne ((lgmValue x 0).scale (16 + k.toInt)))
  let p : BitVec 4 := (List.range 4).foldl (fun m g => if (t.wrp a).getLsbD (2 * h + g / 2) then m ||| (1#4 <<< g) else m) 0
  tmNext (t.setW d (packX (fun j => (r j).1)) p) ((List.range 8).foldl (fun m j => m ||| (r j).2) 0)

/-- The poison of a half written from FX32 lanes: granules 2h and 2h + 1 take that of the lanes' granules. -/
def halfPoison (h : Nat) (old src extra : BitVec 4) : BitVec 4 :=
  (List.range 4).foldl (fun m g =>
    let b := if g / 2 = h then src.getLsbD (2 * (g % 2)) || src.getLsbD (2 * (g % 2) + 1) || extra.getLsbD g else old.getLsbD g
    if b then m ||| (1#4 <<< g) else m) 0

/-- TMCVT.F2L (R343) of half h. -/
def tmF2l (t : Thread) (h : Nat) (d a : BitVec 4) (k : BitVec 8) : TmOut :=
  let r (j : Nat) : BitVec 16 × BitVec 8 :=
    let n := laneX (t.wr a) j
    if n = fxNar then (lgmNar, 0) else if n = 0 then (0, 0)
    else let v := roundLog (.fin (n.toInt < 0) n.toInt.natAbs (-16 - k.toInt)) 0 16 10; (BitVec.ofNat 16 v.1, tfSticky v.2)
  let w := packL (fun j => if j / 8 = h then (r (j % 8)).1 else laneL (t.wr d) j)
  tmNext (t.setW d w (halfPoison h (t.wrp d) (t.wrp a) 0)) ((List.range 8).foldl (fun m j => m ||| (r j).2) 0)

/-- TMCVT.L2F.LO (R343). -/
def execTmcvtL2fLo (d a : BitVec 4) (k : BitVec 8) (s : State) : Host.Outcome State Fault Refusal := .next (s.trimOp (fun t => tmL2f t 0 d a k))
/-- TMCVT.L2F.HI (R343). -/
def execTmcvtL2fHi (d a : BitVec 4) (k : BitVec 8) (s : State) : Host.Outcome State Fault Refusal := .next (s.trimOp (fun t => tmL2f t 1 d a k))
/-- TMCVT.F2L.LO (R343). -/
def execTmcvtF2lLo (d a : BitVec 4) (k : BitVec 8) (s : State) : Host.Outcome State Fault Refusal := .next (s.trimOp (fun t => tmF2l t 0 d a k))
/-- TMCVT.F2L.HI (R343). -/
def execTmcvtF2lHi (d a : BitVec 4) (k : BitVec 8) (s : State) : Host.Outcome State Fault Refusal := .next (s.trimOp (fun t => tmF2l t 1 d a k))

/-- An FX32 operation on clean numbers; NaR if either is (R344). -/
def fxOp (f : Int → Int → Int) (x y : BitVec 32) : BitVec 32 × BitVec 8 :=
  if x = fxNar ∨ y = fxNar then (fxNar, 0) else fxOf (f x.toInt y.toInt)

/-- TMFX.ADD (R344). -/
def execTmfxAdd (d a b : BitVec 4) (s : State) : Host.Outcome State Fault Refusal := .next (s.trimOp (fun t => tmX2 t d a b (fxOp (· + ·))))
/-- TMFX.SUB (R344). -/
def execTmfxSub (d a b : BitVec 4) (s : State) : Host.Outcome State Fault Refusal := .next (s.trimOp (fun t => tmX2 t d a b (fxOp (· - ·))))
/-- TMFX.SAR (R344). -/
def execTmfxSar (d a : BitVec 4) (n : BitVec 5) (s : State) : Host.Outcome State Fault Refusal :=
  .next (s.trimOp (fun t => tmX1 t d a (fun x => fxOp (fun i _ => i / (2 ^ n.toNat : Nat)) x 0)))
/-- TMFX.SHL (R344). -/
def execTmfxShl (d a : BitVec 4) (n : BitVec 5) (s : State) : Host.Outcome State Fault Refusal :=
  .next (s.trimOp (fun t => tmX1 t d a (fun x => fxOp (fun i _ => i * (2 ^ n.toNat : Nat)) x 0)))
/-- TMMUL (R344). -/
def execTmmul (d a b : BitVec 4) (s : State) : Host.Outcome State Fault Refusal :=
  .next (s.trimOp (fun t => tmX2 t d a b (fxOp (fun i j => rneDiv (i * j) 65536))))

/-- TMSEL (R345). -/
def execTmsel (d a b m : BitVec 4) (s : State) : Host.Outcome State Fault Refusal :=
  .next (s.trimOp (fun t => tmNext (t.setW d ((t.wr a &&& t.wr m) ||| (t.wr b &&& ~~~ t.wr m)) (t.wrp a ||| t.wrp b ||| t.wrp m)) 0))

/-- A condition of TMCMP on lanes whose order is known (R345). -/
def tmHolds (c : TmCond) (nar eq lt : Bool) : Bool :=
  match c with | .un => nar | .eq => !nar && eq | .lt => !nar && lt | .le => !nar && (eq || lt)

/-- TMCMP (R345). -/
def execTmcmp (cond : TmCond) (ty : TmTy) (d a b : BitVec 4) (s : State) : Host.Outcome State Fault Refusal :=
  .next (s.trimOp (fun t =>
    match ty with
    | .l => tmL2 t d a b (fun x y => (if tmHolds cond (isLgmNar x || isLgmNar y) (x == y) (lgmLe x y && x != y) then 0xFFFF else 0, 0))
    | .x => tmX2 t d a b (fun x y => (if tmHolds cond (x == fxNar || y == fxNar) (x == y) (x.slt y) then 0xFFFFFFFF else 0, 0))))

/-- Minimum or maximum of FX32 lanes (R345). -/
def fxPick (isMax : Bool) (x y : BitVec 32) : BitVec 32 :=
  if x = fxNar ∨ y = fxNar then fxNar else if isMax == x.slt y then y else x

/-- TMMIN (R345). -/
def execTmmin (ty : TmTy) (d a b : BitVec 4) (s : State) : Host.Outcome State Fault Refusal :=
  .next (s.trimOp (fun t =>
    match ty with
    | .l => tmL2 t d a b (fun x y => (lgmPick false x y, 0))
    | .x => tmX2 t d a b (fun x y => (fxPick false x y, 0))))
/-- TMMAX (R345). -/
def execTmmax (ty : TmTy) (d a b : BitVec 4) (s : State) : Host.Outcome State Fault Refusal :=
  .next (s.trimOp (fun t =>
    match ty with
    | .l => tmL2 t d a b (fun x y => (lgmPick true x y, 0))
    | .x => tmX2 t d a b (fun x y => (fxPick true x y, 0))))

/-- A new sign on a lane; a lane with L = 0 is unchanged (R346). -/
def signLane (x : BitVec 16) (neg : Bool) : BitVec 16 := if lgmL x = 0 then x else putBit x 15 neg

/-- TMSGN.COPY (R346). -/
def execTmsgnCopy (d a b : BitVec 4) (s : State) : Host.Outcome State Fault Refusal :=
  .next (s.trimOp (fun t => tmL2 t d a b (fun x y => (signLane x (bit y 15), 0))))
/-- TMSGN.XOR (R346). -/
def execTmsgnXor (d a b : BitVec 4) (s : State) : Host.Outcome State Fault Refusal :=
  .next (s.trimOp (fun t => tmL2 t d a b (fun x y => (signLane x (bit x 15 != bit y 15), 0))))
/-- TMSGN.ABS (R346). -/
def execTmsgnAbs (d a : BitVec 4) (s : State) : Host.Outcome State Fault Refusal :=
  .next (s.trimOp (fun t => tmL1 t d a (fun x => (signLane x false, 0))))
/-- TMSGN.NEG (R346). -/
def execTmsgnNeg (d a : BitVec 4) (s : State) : Host.Outcome State Fault Refusal :=
  .next (s.trimOp (fun t => tmL1 t d a (fun x => (signLane x (!bit x 15), 0))))

/-- One lane of TMRND (R347): `draw` where the stochastic form drew. -/
def rndLane (x : BitVec 16) (n : BitVec 32) (draw : Option (BitVec 32)) : BitVec 16 × BitVec 8 :=
  let l := lgmL x
  if l = 0 then (x, 0)
  else if n = fxNar then (lgmNar, 0)
  else
    let q := n.toInt / 65536
    let f := n.toInt % 65536
    let up := match draw with
      | some r => decide ((r.toNat : Int) < f * 65536)
      | none => decide (2 * f > 65536) || (decide (2 * f = 65536) && decide (q % 2 = 1))
    let v : Int := (l : Int) + (if up then q + 1 else q)
    let sg : Nat := if bit x 15 then 32768 else 0
    if v > 32767 then (BitVec.ofNat 16 (sg + 32767), tfOSAT)
    else if v < 1 then (BitVec.ofNat 16 (sg + 1), tfFLOOR)
    else (BitVec.ofNat 16 (sg + v.toNat), 0)

/-- The eight lanes of TMRND in ascending order, with the generator after them. -/
def rndLanes (sr : Bool) (h : Nat) (wd wa : BitVec 256) (gen : Word) : List (BitVec 16 × BitVec 8) × Word :=
  (List.range 8).foldl (fun acc j =>
    let g := if sr then srNext acc.2 else acc.2
    (acc.1 ++ [rndLane (laneL wd (8 * h + j)) (laneX wa j) (if sr then some (g.setWidth 32) else none)], g)) ([], gen)

/-- TMRND (R347). -/
def execTmrnd (sr hi : Bool) (d a : BitVec 4) (s : State) : Host.Outcome State Fault Refusal :=
  .next (s.trimOp (fun t =>
    let h := if hi then 1 else 0
    let r := rndLanes sr h (t.wr d) (t.wr a) t.gen
    let w := packL (fun j => if j / 8 = h then (r.1.getD (j % 8) (0, 0)).1 else laneL (t.wr d) j)
    tmNext { (t.setW d w (halfPoison h (t.wrp d) (t.wrp a) (t.wrp d))) with gen := r.2 } (r.1.foldl (fun m x => m ||| x.2) 0)))

-- Scalars and control (R348) ------------------------------------------------------------------------------------------

/-- TMADDI (R348). -/
def execTmaddi (d a : BitVec 3) (imm : BitVec 19) (s : State) : Host.Outcome State Fault Refusal :=
  .next (s.trimOp (fun t => tmNext (t.setC d (t.cr a + imm.signExtend 32) (t.crp a)) 0))

/-- TMMOVI (R348). -/
def execTmmovi (d : BitVec 3) (hi : Bool) (imm : BitVec 16) (s : State) : Host.Outcome State Fault Refusal :=
  .next (s.trimOp (fun t =>
    if hi then tmNext (t.setC d (imm ++ (t.cr d).setWidth 16) (t.crp d)) 0 else tmNext (t.setC d (imm.signExtend 32) false) 0))

/-- A condition of TMBR (R348). -/
def brHolds (c : TmBrCond) (x : BitVec 32) : Bool :=
  match c with | .always => true | .eq => x == 0 | .ne => x != 0 | .lt => x.slt 0 | .ge => !x.slt 0

/-- TMBR (R348). -/
def execTmbr (cond : TmBrCond) (a : BitVec 3) (target : BitVec 10) (s : State) : Host.Outcome State Fault Refusal :=
  .next (s.trimOp (fun t =>
    let o : TmOut := if brHolds cond (t.cr a) then ⟨t, 0, .goto target.toNat⟩ else tmNext t 0
    if cond = .always then o else tmSync t a o))

/-- TMLOOP (R348). -/
def execTmloop (a : BitVec 3) (target : BitVec 10) (s : State) : Host.Outcome State Fault Refusal :=
  .next (s.trimOp (fun t =>
    let n := t.cr a - 1
    tmSync t a ⟨t.setC a n false, 0, if n != 0 then .goto target.toNat else .next⟩))

/-- TMEND (R348). -/
def execTmend (s : State) : Host.Outcome State Fault Refusal := .next (s.trimOp (fun t => ⟨t, 0, .endItem⟩))

/-- TMMOV (R348). -/
def execTmmov (d a : BitVec 4) (s : State) : Host.Outcome State Fault Refusal :=
  .next (s.trimOp (fun t => tmNext (t.setW d (t.wr a) (t.wrp a)) 0))
/-- TMMOV.BC16 (R348). -/
def execTmmovBc16 (d : BitVec 4) (a : BitVec 3) (s : State) : Host.Outcome State Fault Refusal :=
  .next (s.trimOp (fun t => tmNext (t.setW d (packL (fun _ => (t.cr a).setWidth 16)) (if t.crp a then 0xF else 0)) 0))
/-- TMMOV.BC32 (R348). -/
def execTmmovBc32 (d : BitVec 4) (a : BitVec 3) (s : State) : Host.Outcome State Fault Refusal :=
  .next (s.trimOp (fun t => tmNext (t.setW d (packX (fun _ => t.cr a)) (if t.crp a then 0xF else 0)) 0))
/-- TMMOV.GET16 (R348). -/
def execTmmovGet16 (d : BitVec 3) (a : BitVec 4) (j : BitVec 4) (s : State) : Host.Outcome State Fault Refusal :=
  .next (s.trimOp (fun t => tmNext (t.setC d ((laneL (t.wr a) j.toNat).setWidth 32) ((t.wrp a).getLsbD (j.toNat / 4))) 0))
/-- TMMOV.GET32 (R348). -/
def execTmmovGet32 (d : BitVec 3) (a : BitVec 4) (j : BitVec 3) (s : State) : Host.Outcome State Fault Refusal :=
  .next (s.trimOp (fun t => tmNext (t.setC d (laneX (t.wr a) j.toNat) ((t.wrp a).getLsbD (j.toNat / 2))) 0))

-- Sweeps (R333, R334, R349-R351) --------------------------------------------------------------------------------------

/-- The first word of a program that is poisoned or no instruction (R333): its index and status. -/
def badProgram (prog : List (BitVec 32)) (bad : Nat → Bool) : Option (Nat × Status) :=
  (List.range prog.length).findSome? (fun i =>
    if bad i then some (i, .poison)
    else match decodeTrim (prog.getD i 0) with
      | some ins => if trimTargetOk prog.length ins then none else some (i, .rights)
      | none => some (i, .rights))

/-- A thread at the start of a sweep (R334). -/
def Sweep.firstThread (w : Sweep) (seed : Word) (t : Nat) : Thread :=
  let g := seed ^^^ BitVec.ofNat 64 t
  let th : Thread := ⟨Vector.replicate 16 0, Vector.replicate 16 0, w.cpre, 0, 0, 0, if g = 0 then 1 else g, false⟩
  if t < w.nthr then w.nextItem th t else th

/-- Starts a sweep (R333): the program is read from the scratchpad, which the sweep then needs no more. -/
def State.startTrim (s : State) (c : CoreId) (q : Cmd) : State :=
  let s1 := s.begin c q
  let k := s1.core c
  let b := q.blocks.getD 0 []
  let n := tbPlen b
  let at_ := offsetOf (tbProg b)
  let prog := (List.range n).map (fun i => BitVec.ofNat 32 (k.sp.readNat (at_ + 4 * i) 4))
  let w0 : Sweep :=
    { cmd := q.id, prog := prog, bad := (List.range n).filter (fun i => k.sp.poisoned ((at_ + 4 * i) / 32)), checked := false,
      cap := BitVec.ofNat 6 (tbCap b), gen := 0, stat := 0, nthr := tbNthr b,
      count := tbCount b, cpre := Vector.ofFn (fun i => BitVec.ofNat 32 (fieldAt b (24 + 4 * i.val) 4)),
      threads := Vector.replicate 16 ⟨Vector.replicate 16 0, Vector.replicate 16 0, Vector.replicate 8 0, 0, 0, 0, 1, false⟩,
      delay := (n + 7) / 8, turn := 0, flags := 0, items := 0, refused := 0, stop := none }
  s1.setCore c { k with sweep := some w0 }

/-- The checks of a sweep whose program has been read (R333): the entry is bound, and no thread issues when a check fails. -/
def Core.checkSweep (k : Core) (w : Sweep) : Sweep :=
  let e := k.cap w.cap
  let badW := badProgram w.prog w.bad.contains
  let stop : Option SweepStop :=
    if !capUsable e k.part then some ⟨.rights, 1, 0, 0, 0⟩ else badW.map (fun w => ⟨w.2, 5, 0, w.1, 0⟩)
  let seed := ((k.cmd w.cmd).map (·.seed)).getD 0
  { w with
    checked := true, gen := capGen e, stat := capStat e, stop := stop,
    flags := tfIf (match badW with | some (_, .poison) => capUsable e k.part | _ => false) tfPOISON,
    threads := if stop.isSome then w.threads else Vector.ofFn (fun i => w.firstThread seed i.val) }

/-- The status a sweep ends with (R349, Table 5). -/
def Sweep.status (w : Sweep) : Status :=
  firstStatus ((match w.stop with | some e => [e.status] | none => []) ++ (if w.flags &&& tfPOISON != 0 then [.poison] else []))

/-- The sweep record (R350, Table 6). -/
def Sweep.record (w : Sweep) : List Byte :=
  let e := w.stop.getD ⟨.ok, 0, 0, 0, 0⟩
  bytesOf (statusCode w.status) 1 ++ [w.flags] ++ bytesOf e.reason 1 ++ bytesOf e.thread 1 ++ bytesOf e.ip 2 ++ [0, 0]
    ++ bytesOf w.items 8 ++ bytesOf (e.off.toNat % 2 ^ 32) 4 ++ bytesOf w.refused 4 ++ List.replicate 8 0

/-- Ends a sweep (R349): its record in STAT, except with reason 1; then the command's completion. A record whose granule is marked waits for its
copy, as every write does (R280, R367). -/
def State.endSweep (s : State) (c : CoreId) (w : Sweep) : State :=
  let none1 := match w.stop with | some e => e.reason == 1 | none => false
  let ended (t : State) : State := (t.modCore c (fun k => { k with sweep := none })).finish c w.cmd [w.status]
  if none1 then ended s
  else
    match s.holdMark c (32 * w.stat) with
    | some m => (s.askCopy (s.core c).part m).modCore c (fun k => { k with sweep := some w })
    | none => ended (s.modCore c (fun k => k.performHome true w.stat (BitVec.ofNat 256 (leNat w.record)) (BitVec.allOnes 32) (some false)))

/-- The instruction of the thread whose turn it is. -/
def Core.trimNext (k : Core) : Option Instr :=
  match k.sweep with
  | none => none
  | some w =>
    if w.checked ∧ w.delay = 0 ∧ w.stop = none ∧ w.thread.live ∧ !(k.cmd w.cmd).any (fun q => q.stopping) then
      decodeTrim (w.prog.getD w.thread.ip 0) else none

/-- How a CPAB stops a sweep that has bound its entry: ABORTED comes before every other status (R349, Table 5). -/
def Sweep.abort (w : Sweep) : Sweep :=
  match w.stop with
  | some ⟨_, 1, _, _, _⟩ => w
  | _ => { w with stop := some ⟨.aborted, 6, 0, 0, 0⟩ }

/-- A trimmer cycle in which no instruction issues (R333, R335, R349): the program is still being read, or its checks are made, the sweep ends,
a thread of a stopped sweep ends at its turn, or the turn of an empty slot passes. -/
def State.trimIdle (s : State) (c : CoreId) : State :=
  match (s.core c).sweep with
  | none => s
  | some w =>
    let put (w : Sweep) : State := s.modCore c (fun k => { k with sweep := some w })
    if w.delay > 1 then put { w with delay := w.delay - 1 }
    else if !w.checked then put { (s.core c).checkSweep w with delay := 0 }
    else
      let w1 := if ((s.core c).cmd w.cmd).any (fun q => q.stopping) then w.abort else w
      if w1.threads.all (fun t => !t.live) then s.endSweep c w1
      else if w1.thread.live && w1.stop.isNone then put w1
      else put { w1 with threads := w1.threads.set w1.turn.toNat { w1.thread with live := false } w1.turn.isLt, turn := w1.turn + 1 }

end Sys2Proof.Machine
end

