-- ==== Sys2Proof/Machine/Commands.lean ====
section
/-! DEFINITION. The life of an engine command: its start with the checks made then (R201, R309), migration (R231, R319), the
abort command (R234) and completion (R203). -/
namespace Sys2Proof.Machine
open Sys2Proof

-- Migration (R231, R319) ----------------------------------------------------------------------------------------------

/-- Granules of a page. -/
def pageGrans : Nat := 2048

/-- Whether a page a REMAP has copied waits for its exchange: `wrote` counts the exchanges made. -/
def Cmd.exchangeDue (q : Cmd) : Bool := decide (q.pos / pageGrans > q.wrote)

/-- The keys of the source and destination entries of page n of a MIGR. -/
def State.migrKeys (s : State) (c : CoreId) (q : Cmd) (n : Nat) : Nat × Nat :=
  let ia (p : Word) := hBase (s.handle (s.core c).part (ptrHandle p)) + offsetOf p + 65536 * n
  (s.pageKey (ia q.xs / 65536), s.pageKey (ia q.xd / 65536))

/-- A granule of a MIGR from or to a peer travels on the bulk channel, under the class of its command (R383, R386): a request for data to be
read, or the data to be written. -/
def State.bulk (s : State) (c : CoreId) (q : Cmd) (write : Bool) : State :=
  match s.resolve c q.plane (if write then q.xd else q.xs) with
  | .peer chip part a =>
    let data := if write then ((((s.core c).cmd q.id).bind (fun r => r.got.getLast?)).map (fun g => bytesOf g.2.1.toNat 32)).getD [] else []
    ({ s with out := s.out ++ [OutMsg.migrate chip part (a + 32 * q.pos) write] }).xmit
      (packetOf 3 ⟨chip, s.chip, c, .bulk part write, cmdClass q, BitVec.ofNat 32 q.pos, a + 32 * q.pos⟩ data .held)
  | _ => s

/-- One granule of a MIGR; with REMAP the page's M is set first (R319 item 1). -/
def State.migrUnit (s : State) (c : CoreId) (q : Cmd) (remap : Bool) (since : Option MWait) : Res Cmd :=
  let n := len40 q.xs1
  if remap && q.exchangeDue then .ok s q
  else if 32 * q.pos ≥ n then .ok s { q with finished := true }
  else
    let key := (s.migrKeys c q (q.pos / pageGrans)).1
    if !s.genOk c q q.xs then .stop s .rights
    else if remap && q.pos % pageGrans == 0 && !q.nums.contains key then
      .ok { s with pages := SMap.set 0 s.pages key (SMap.get 0 s.pages key ||| 0x10#64) } { q with nums := q.nums ++ [key] }
    else
      (s.readSrc c q q.xs (32 * q.pos : Nat) 32 since).bind fun s r =>
        (s.writeDst c q q.xd (32 * q.pos : Nat) r since).bind fun s _ =>
          .ok (((s.bulk c q false).bulk c q true).forget c q)
            { q.noteElem [] (flaggedBad r) false false with pos := q.pos + 1, finished := !remap && decide (32 * (q.pos + 1) ≥ n) }

/-- Exchanges the FRAME fields of two entries and clears M of the first (R319 item 3). -/
def exchangeFrames (m : SMap (BitVec 64)) (a b : Nat) : SMap (BitVec 64) :=
  let frame : BitVec 64 := 0x7FFFFF0000
  let ea := SMap.get 0 m a
  let eb := SMap.get 0 m b
  SMap.set 0 (SMap.set 0 m a ((ea &&& ~~~ frame &&& ~~~ 0x10#64) ||| (eb &&& frame))) b ((eb &&& ~~~ frame) ||| (ea &&& frame))

/-- After a page is copied its frame is exchanged and M cleared (R319). A 2 MiB entry is exchanged once, after the last of its
pages. A handle rebound since the copy ends the command with RIGHTS (R310). -/
def execMigrPageExchange (core : CoreId) (q : Nat) (s : State) : Host.Outcome State Fault Refusal :=
  match (s.core core).cmd q with
  | none => .next s
  | some r =>
    match r.ins with
    | .migrRemap _ =>
      if !r.started || r.finished || !r.exchangeDue then .next s
      else if !(s.genOk core r r.xs && s.genOk core r r.xd) then .next (s.finish core q [.rights])
      else
        let ks := s.migrKeys core r r.wrote
        let last := decide (65536 * (r.wrote + 1) ≥ len40 r.xs1)
        let more := !last && (s.migrKeys core r (r.wrote + 1)).1 == ks.1
        let s1 := if more then s else { s with pages := exchangeFrames s.pages ks.1 ks.2 }
        .next (s1.modCmd core q (fun x => { x with
          wrote := x.wrote + 1, nums := if more then x.nums else x.nums.filter (fun p => p != ks.1), finished := last }))
    | _ => .next s

/-- Starts a MIGR: with REMAP both handles must be of space 1 (R319). -/
def State.startMigr (s : State) (c : CoreId) (q : Cmd) (remap : Bool) : State :=
  let local1 (p : Word) : Bool := hSpace (s.handle (s.core c).part (ptrHandle p)) == 1
  let s1 := s.startChecked c q (linearTouches q)
  if remap && !(local1 q.xs && local1 q.xd) then s1.finish c q.id [.rights] else s1

-- Start (R201, R309) --------------------------------------------------------------------------------------------------

/-- The source handle of a delivery. -/
def sourceTouch (q : Cmd) (n : Nat) (u : Use) : List Touch := [⟨q.xs, 0, n, u⟩]

/-- Starts a SENDS (R218, R379): LINK without its lane in the plan in force. -/
def State.startSends (s : State) (c : CoreId) (q : Cmd) : State :=
  let l := (s.core c).lane (fld q.xd 11 5).toNat
  let s1 := (s.begin c q).modCmd c q.id (fun x => { x with blocks := [l] })
  if laneV l && laneEnd l == fld q.xd 0 11 then s1 else s1.finish c q.id [.link]

/-- The commands a CPAB acts on (R234): issued before it, of its classes, no SNAP and no CPAB. -/
def cpabTargets (k : Core) (q : Cmd) : List Cmd :=
  k.queue.filter (fun p => decide (p.id < q.id) && q.xs.getLsbD p.cls.toNat && !isSnap p.ins && !isCpab p.ins)

/-- CPAB acts (R234); it then waits for what it has aborted and what is still to complete: a sweep that runs, a peer write under way. -/
def State.startCpab (s : State) (c : CoreId) (q : Cmd) : State :=
  let ts := cpabTargets (s.core c) q
  let s1 := ts.foldl (fun s p => s.abortOne c p) (s.begin c q)
  s1.modCmd c q.id (fun x => { x with after := (ts.filter (fun p => (isTrim p.ins && p.started) || s.inFlight c p)).map (·.id) })

/-- Whether a pointer reaches the scratchpad of its core (R204). -/
def State.padPtr (s : State) (c : CoreId) (p : Word) : Bool :=
  tagOf p == 0 || (tagOf p == 2 &&
    (let e := s.handle (s.core c).part (ptrHandle p); hSpace e == 4 && fld (hAux e) 0 11 == c))

/-- Whether the source, destination, result berth or status record of a command lies in the scratchpad of its core (R204). -/
def State.usesPad (s : State) (c : CoreId) (q : Cmd) : Bool :=
  let b0 := q.blocks.getD 0 []
  let b1 := q.blocks.getD 1 []
  let shape (b : List Byte) : Bool := s.padPtr c (shBase b) || (shBcode b == 1 && s.padPtr c (shScalep b))
  let here := match deliveryOf c q with | some d => d.targets.any (fun t => t.1 == c) | none => false
  match q.ins with
  | .cpyt _ => shape b0 || shape b1
  | .gthr _ => true
  | .cpyl _ => s.padPtr c q.xs || s.padPtr c q.xd
  | .cpylBerth _ => true
  | .mcast _ => s.padPtr c q.xs || here || bit q.xd 63
  | .send .. => s.padPtr c q.xs || here
  | .sends _ => s.padPtr c q.xs || here
  | .fwr _ => s.padPtr c q.xs
  | .fwrBerth _ => s.padPtr c q.xs
  | .ffaa _ => true
  | .coll _ => s.padPtr c (coSrc b0) || s.padPtr c (coDst b0) || coStatp b0 != 0
  | .drg _ => shape b1 || drDkind b0 == 0 || s.padPtr c (drDest b0)
  | .migr .. => s.padPtr c q.xs || s.padPtr c q.xd
  | .migrRemap .. => s.padPtr c q.xs || s.padPtr c q.xd
  | _ => false

/-- The commands that sweeps hold back (R204, R333): the TRIMs, running or not, and what has not started and waits for one of them by a fence or
as an FFLG, or for one not started by its class; and what waits for those in turn. -/
def Core.trimHeld (k : Core) : List Cmd :=
  k.queue.foldl (fun held q =>
    if isTrim q.ins || (!q.started &&
        held.any (fun p => (!p.started && p.cls == q.cls) || q.after.contains p.id || q.covers.contains p.id))
    then held ++ [q] else held) []

/-- Whether a command waits behind a sweep, which a context save never does (R333). -/
def Core.behindTrim (k : Core) (q : Cmd) : Bool := k.trimHeld.any (fun p => p.id == q.id)

/-- Whether the scratchpad is not that of the command's task: its context is being saved or restored, or is out. A command held there with its
queue entry starts once the task has resumed (R204, R333). -/
def Core.padAway (k : Core) (q : Cmd) : Bool :=
  k.suspended.any (fun u => u.task == q.task)
    || (k.task == q.task && match k.run with | .saving .. => true | .resuming _ => true | _ => false)

/-- Start conditions a command's own rule adds (R228, R352, R233). -/
def State.kindReady (s : State) (c : CoreId) (q : Cmd) : Bool :=
  match q.ins with
  | .coll _ => (s.core c).collReady q
  | .drg _ => decide (s.activeScans < 16)
  | .trim _ => (s.core c).sweep.isNone
  | _ => true

/-- Whether a command starts now; a CPAB acts in the cycle after its issue (R234). -/
def State.startsNow (s : State) (c : CoreId) (q : Cmd) : Bool :=
  if isCpab q.ins then !q.started && decide (q.pos = 1)
  else (s.core c).mayStart q && s.kindReady c q && !((s.core c).padAway q && s.usesPad c q)

/-- Starts a command of each kind. -/
def State.startCmd (s : State) (c : CoreId) (q : Cmd) : State :=
  match q.ins with
  | .cpyt _ => s.startChecked c q (copyTouches q)
  | .gthr _ => s.startChecked c q (copyTouches q)
  | .cpyl _ => if len40 q.xs1 = 0 then (s.begin c q).finish c q.id [] else s.startChecked c q (linearTouches q)
  | .cpylBerth _ => s.startChecked c q (sourceTouch q (len40 q.xs1) .src)
  | .mcast _ => s.startChecked c q (sourceTouch q (len32 q.xs1) .srcMc)
  | .send .. => s.begin c q
  | .sends _ => s.startSends c q
  | .semr _ => s.startSemr c q
  | .coll _ => s.startColl c q
  | .drg _ => s.startDrg c q
  | .migr _ => s.startMigr c q false
  | .migrRemap _ => s.startMigr c q true
  | .trim _ => s.startTrim c q
  | .cpab _ => s.startCpab c q
  | .snap .. => s.begin c q
  | .snapSeal .. => s.begin c q
  | _ => s.startChecked c q (fabricTouches q)

/-- A command starts once its class order and start conditions allow (R201). -/
def execCommandStart (core : CoreId) (q : Nat) (s : State) : Host.Outcome State Fault Refusal :=
  match (s.core core).cmd q with
  | none => .next s
  | some r => if s.startsNow core r then .next (s.startCmd core r) else .next s

/-- A command that has ended completes with one status (R203). -/
def execCommandCompletion (core : CoreId) (q : Nat) (s : State) : Host.Outcome State Fault Refusal :=
  match (s.core core).cmd q with
  | none => .next s
  | some r => if r.finished then .next (s.complete core q (firstStatus r.met)) else .next s

-- One tick of a command -----------------------------------------------------------------------------------------------

/-- The event of the opcode table a command has due now, if any. -/
def State.cmdEvent (s : State) (c : CoreId) (q : Cmd) : Option Instr :=
  if q.finished then some (.commandCompletion c q.id)
  else if s.startsNow c q then some (.commandStart c q.id)
  else if !q.started then none
  else
    let accept : Option Instr :=
      match deliveryOf c q with
      | some d => (d.targets.find? (fun t => !q.decided t.2)).map (fun t => .deliveryAcceptance c q.id t.1)
      | none => none
    match q.ins with
    | .cpylBerth _ => accept
    | .mcast _ => accept
    | .send .. => accept
    | .sends _ =>
      if q.nums.head?.any (fun n => decide (n ≤ s.tnow.toNat)) && accept.isSome then accept
      else
        match deliveryOf c q with
        | some d =>
          let l := q.blocks.getD 0 []
          if decide (32 * q.pos < d.len) && bit (laneSlots l) (s.tnow.toNat % 64)
            && !s.lanes.any (fun f => f.src == c && f.cmd == q.id && f.sent == s.tnow)
          then some (.laneFlitInject c q.id) else none
        | none => none
    | .coll _ => if s.collLate c q then some (.collHopTimeout c q.id) else none
    | .migrRemap _ => if q.exchangeDue then some (.migrPageExchange c q.id) else none
    | .drg _ => if q.data.bytes.isEmpty then (if s.drgScanned c q then some (.dredgeMerge c q.id) else none) else accept
    | _ => none

/-- What a running command does in a tick beside its events: one unit of its work (R202). -/
def State.cmdWork (s : State) (c : CoreId) (q : Cmd) : State :=
  match q.ins with
  | .cpyt _ => s.unit c q (fun s t => s.copyUnit c q t)
  | .gthr _ => s.unit c q (fun s t => s.copyUnit c q t)
  | .cpyl _ => s.unit c q (fun s t => s.linearUnit c q (len40 q.xs1) t)
  | .migr _ => s.unit c q (fun s t => s.migrUnit c q false t)
  | .migrRemap _ => s.unit c q (fun s t => s.migrUnit c q true t)
  | .coll _ => s.unit c q (fun s t => s.collUnit c q t)
  | .drg _ => if q.data.bytes.isEmpty then s else s.unit c q (fun s t => s.drgUnit c q t)
  | .sends _ => match deliveryOf c q with | some d => s.unit c q (fun s _ => s.laneUnit q d) | none => s
  | .cpylBerth _ => match deliveryOf c q with | some d => s.unit c q (fun s t => s.deliveryUnit c q d t) | none => s
  | .mcast _ => match deliveryOf c q with | some d => s.unit c q (fun s t => s.deliveryUnit c q d t) | none => s
  | .send .. => match deliveryOf c q with | some d => s.unit c q (fun s t => s.deliveryUnit c q d t) | none => s
  | .fwr _ => s.unit c q (fun s t => s.fabricUnit c q t)
  | .fwrBerth _ => s.unit c q (fun s t => s.fabricUnit c q t)
  | .ffaa _ => s.unit c q (fun s t => s.fabricUnit c q t)
  | .fflg _ => s.unit c q (fun s t => s.fabricUnit c q t)
  | .fflgAdd _ => s.unit c q (fun s t => s.fabricUnit c q t)
  | .cpab _ => if q.after.all (fun i => !(s.core c).queue.any (fun p => p.id == i)) then s.finish c q.id [] else s
  | _ => s

end Sys2Proof.Machine
end

