-- ==== Sys2Proof/Machine/Fetch.lean ====
section
/-! DEFINITION. What a core does in one cycle around its instructions: the fetch and its checks (R62-R65, R81-R89, R301), the
end of a wait (R236) and of its measure (R303), and the matrix array's next event (R173, R180, R182, R183, R190). -/
namespace Sys2Proof.Machine
open Sys2Proof

-- Fetching a bundle ---------------------------------------------------------------------------------------------------

/-- What a fetch comes to: a trap taken before the bundle, or the bundle. -/
inductive Fetched where
  | trapped (s : State)
  | bundle (s : State) (b : Bundle)

/-- The operands of an MX slot. -/
def mxOperands (i : Instr) : Option MX :=
  match i with
  | .mstrm o _ => some o | .mstrma o _ => some o | .mstrmh o _ => some o | .mclr o => some o | .mdrn o _ => some o
  | .mdrnh o _ => some o | .mrest o _ => some o | _ => none

/-- The low byte of the count register the check of R81 uses. -/
def Core.countByte (k : Core) (b : Bundle) : BitVec 8 :=
  match b.slots.findSome? (fun p => p.2.bind mxOperands) with
  | some o => (k.readX o.xn).val.setWidth 8
  | none => 0

/-- The words of the active plane from an offset, as many as a bundle can have. -/
def Plane.words8 (p : Plane) (off : Nat) : List (BitVec 32) :=
  let bs := p.bytes.readRun off 32
  (List.range 8).map (fun i => BitVec.ofNat 32 (leNat ((bs.drop (4 * i)).take 4)))

/-- A trap of the fetch takes its cycle (R133), the bundle's first where no earlier one was (R248). -/
def State.fetchTrap (s : State) (c : CoreId) (epc faddr : Word) : State :=
  ((s.seeFirst c []).takeTrap c 0x02 7 0 epc faddr).modCore c Core.taskCycle

/-- Fetches the bundle at the program counter from the active plane (R82, R86). Destination conflicts are decided in the first cycle the bundle
could issue (R81, R236). A bundle that passes CODELEN is refused for that before any other fault of Table 10, which the manual does not order (log 154). At a task's own entry, where no bundle transferred control, FADDR is the entry's offset (log 139). -/
def State.fetchOnce (s : State) (c : CoreId) : Fetched :=
  let k := s.core c
  let off := k.pc.toNat
  if !k.active.marked off then .trapped (s.fetchTrap c k.pc (k.via.getD k.pc))
  else
    match k.active.words8 off with
    | [] => .trapped (s.fetchTrap c k.pc k.pc)
    | hdr :: ws =>
      if off + 4 * bundleWords hdr > k.active.codelen then .trapped (s.fetchTrap c k.pc k.pc)
      else
        match decodeBundle hdr ws with
        | none => .trapped (s.fetchTrap c k.pc 0)
        | some b => if !(k.first.any (fun f => f.pc == k.pc)) && b.conflict (k.countByte b) then .trapped (s.fetchTrap c k.pc 0) else .bundle s b

/-- Whether the planes flip before the bundle at the program counter (R64, R301): a marked header with DP in task mode, the
token held. -/
def Core.flipsHere (k : Core) : Bool :=
  k.swreq && !k.csr.hm && k.active.marked k.pc.toNat && bit (k.active.word k.pc.toNat) 25

/-- The fetch, after a flip at a drain point. -/
def State.fetch (s : State) (c : CoreId) : Fetched :=
  (s.modCore c (fun k => if k.flipsHere then k.flip else k)).fetchOnce c

/-- Opens a fetched bundle for its slots. -/
def State.openBundle (s : State) (c : CoreId) (b : Bundle) : State :=
  s.modCore c (fun k => { k with bundle := some ⟨k.pc, k.pc + BitVec.ofNat 64 (4 * b.words), b.slots.length, []⟩ })

/-- A slot that is not an instruction: cause 0x01 in that slot (R82). -/
def State.badSlot (s : State) (slot : Slot) : State := s.issue slot 2 (.early (flt 0x01))

-- Waits ---------------------------------------------------------------------------------------------------------------

/-- Whether what a core waits for has come (R236). -/
def State.waitOver (s : State) (c : CoreId) (w : Wait) : Bool :=
  let k := s.core c
  match w with
  | .sem n t => !((k.sem n).val.ult t)
  | .fence m => !k.classBusy m
  | .land n => !(k.berth n).arm || (match k.checkBerth n with | .late _ => false | _ => true)
  | .time t => !(s.tnow.ult t)
  | .dom l => (match k.lastArr[l.ix] with | some a => !domV (k.csr.domOf l) || phaseLater (k.csr.dphOf l) a | none => true)
  | .spawn t => s.spawnGrant c t
  | .phase m _ => !k.phaseBusy m
  | .phaseAbort m _ qs => !k.phaseBusy m && decide (k.queue.length + qs.length ≤ 32)
  | .msync => k.mxLanded && !k.mx.gate.isPending
  | .exit => k.exitReady
  | .buffer n _ => !(k.berth n).arm || !(k.berth n).pending || (match k.checkBerth n with | .late _ => false | _ => true)
  | .queue => decide (k.queue.length < 32)
  | .cow g => !s.cowHeld c g
  | .row n => !(k.berth n).arm || !(k.berth n).pending || (match k.checkBerth n with | .late _ => false | _ => true)
  | .hoist => !k.mx.hoist.isEmpty

/-- The event that ends a wait. -/
def Wait.endEvent (w : Wait) (c : CoreId) : Instr :=
  match w with
  | .buffer .. => .landingFreezeRelease c
  | .row _ => .landingFreezeRelease c
  | .queue => .engineQueueEntryFree c
  | .hoist => .hoistEntryAvailable c
  | _ => .waitSatisfied c

/-- Ends a wait: the bundle is issued in this cycle. -/
def State.endWait (s : State) (c : CoreId) (ev : Instr) : State :=
  let k := s.core c
  match k.freeze with
  | some f =>
    if k.run == .running && !f.ready && f.wait.endEvent c == ev && s.waitOver c f.wait
    then s.setCore c { k with freeze := some { f with ready := true } } else s
  | none => s

/-- A wait ends (R236). -/
def execWaitSatisfied (core : CoreId) (s : State) : Host.Outcome State Fault Refusal := .next (s.endWait core (.waitSatisfied core))
/-- A landing or stream freeze ends (R302, R182). -/
def execLandingFreezeRelease (core : CoreId) (s : State) : Host.Outcome State Fault Refusal :=
  .next (s.endWait core (.landingFreezeRelease core))
/-- An engine queue freeze ends (R199). -/
def execEngineQueueEntryFree (core : CoreId) (s : State) : Host.Outcome State Fault Refusal :=
  .next (s.endWait core (.engineQueueEntryFree core))
/-- A hoist entry becomes available (R183). -/
def execHoistEntryAvailable (core : CoreId) (s : State) : Host.Outcome State Fault Refusal :=
  .next (s.endWait core (.hoistEntryAvailable core))

/-- CAUSE.DETAIL and CAUSE.SLOT of an expired wait (R237, Table 3); none where LATEMAX does not apply. -/
def Wait.lateDetail (w : Wait) : Option (BitVec 16 × Nat) :=
  match w with
  | .sem n _ => some (0x0100 + n.setWidth 16, 0)
  | .fence _ => some (0xFFFC, 0)
  | .land n => some (n.setWidth 16, 0)
  | .dom l => some (0xFFF0 + BitVec.ofNat 16 (l.ix.val + 1), 0)
  | .spawn _ => some (0xFFF9, 0)
  | .phase .. => some (0xFFFA, 0)
  | .phaseAbort .. => some (0xFFFA, 0)
  | .buffer n _ => some (n.setWidth 16, 7)
  | .queue => some (0xFFFD, 5)
  | .row n => some (n.setWidth 16, 4)
  | .hoist => some (0xFFFF, 4)
  | .time _ => none
  | .msync => none
  | .exit => none
  | .cow _ => none

/-- LATEMAX in ticks: 0 is read as 2^32 - 1 (R20). -/
def Csrs.lateLimit (r : Csrs) : Nat := if r.latemax = 0 then 2 ^ 32 - 1 else r.latemax.toNat

/-- Whether a freeze has lasted LATEMAX ticks with its wait still not over (R237, R303). -/
def State.lateNow (s : State) (c : CoreId) : Option (BitVec 16 × Nat) :=
  let k := s.core c
  match k.freeze with
  | some f =>
    let late (w : Wait) (t : Word) : Option (BitVec 16 × Nat) :=
      if !s.waitOver c w && decide ((s.tnow - t).toNat ≥ k.csr.lateLimit) then w.lateDetail else none
    if k.run == .running then
      match if f.ready then none else late f.wait f.since with
      | some d => some d
      | none => f.row.bind (fun r => late r.1 r.2)
    else none
  | none => none

/-- A wait outlasts LATEMAX: cause 0x0B at the waiting bundle (R237, R303). -/
def execLatemaxExpiry (core : CoreId) (s : State) : Host.Outcome State Fault Refusal :=
  match s.lateNow core with
  | some (d, sl) => .next ((s.takeTrap core 0x0B sl d (s.core core).pc 0).modCore core Core.taskCycle)
  | none => .next s

-- Landing and the array -----------------------------------------------------------------------------------------------

/-- A pending result lands, at its bound or before it; an older one to its granule is superseded (R85). A write of a marked hold granule waits
for its copy (R367). Numbers from that of the results on are those of the rows on their way to the accumulator. -/
def execResultLanding (core : CoreId) (idx : Nat) (s : State) : Host.Outcome State Fault Refusal :=
  let held := match (s.core core).pend[idx]? with | some e => (s.landBlocked core e).isSome | none => false
  if held then .next s
  else .next (s.modCore core (fun k => if idx < k.pend.length then k.landAt idx else { k with mx := k.mx.landRow (idx - k.pend.length) }))

/-- The array event due now in a core (R173, R180). -/
def Core.arrayDue (k : Core) (c : CoreId) : Option Instr :=
  if k.drainDue then some (.drainBoundTrap c)
  else if k.gateDue then some (.gateTakesEffect c)
  else if k.wakeDue then some (.wakeEnd c)
  else match k.mxDue with
    | some (.start _) => some (.mxQueuedStart c)
    | some (.row i) =>
      match k.mx.items[i]? with
      | none => none
      | some it =>
        if k.hoistEmpty it then none
        else match k.rowCheck it with
          | .late _ => none
          | _ => some (.streamRowEntry c)
    | none => none

/-- The wait of a stream whose next row is due but cannot enter (R182, R183). -/
def Core.rowWait (k : Core) : Option Wait :=
  match k.mxDue with
  | some (.row i) =>
    match k.mx.items[i]? with
    | none => none
    | some it =>
      if k.hoistEmpty it then some .hoist
      else match k.rowCheck it with
        | .late n => some (.row n)
        | _ => none
  | _ => none

/-- A queued MX instruction starts (R173). -/
def execMxQueuedStart (core : CoreId) (s : State) : Host.Outcome State Fault Refusal :=
  match (s.core core).mxDue with
  | some (.start i) => .next (s.modCore core (fun k => k.startItem i))
  | _ => .next s

/-- A stream row enters the array, or its berth raises a schedule fault (R180, R182). -/
def execStreamRowEntry (core : CoreId) (s : State) : Host.Outcome State Fault Refusal :=
  let k := s.core core
  match k.mxDue with
  | some (.row i) =>
    match k.mx.items[i]? with
    | none => .next s
    | some it =>
      if k.hoistEmpty it then .next s
      else match k.rowCheck it with
        | .late _ => .next s
        | .bad n => .next (s.takeTrap core 0x0A 4 (n.setWidth 16) k.pc 0)
        | .pass ns => .next (s.modCore core (fun k => (k.passBerths ns).enterRow i (s.choice == 0))).chosen
  | _ => .next s

/-- The trap of a drain whose bound register is in trap mode (R186): at a bundle boundary after the element was read. -/
def execDrainBoundTrap (core : CoreId) (s : State) : Host.Outcome State Fault Refusal :=
  let k := s.core core
  match k.mx.drainTraps with
  | [] => .next s
  | (i, _) :: rest =>
    if k.run != .running then .next s
    else .next ((s.setCore core { k with mx := { k.mx with drainTraps := rest } }).takeTrap core 0x09 4 (i.setWidth 16) k.pc 0)

/-- A pending gate takes effect (R190). -/
def execGateTakesEffect (core : CoreId) (s : State) : Host.Outcome State Fault Refusal :=
  .next (s.modCore core (fun k => if k.gateDue then k.gateEffect else k))

/-- The array's wake ends (R190). -/
def execWakeEnd (core : CoreId) (s : State) : Host.Outcome State Fault Refusal :=
  .next (s.modCore core (fun k => if k.wakeDue then k.gateEnds .isOpen else k))

end Sys2Proof.Machine
end

