-- ==== Sys2Proof/Machine/Sched.lean ====
section
/-! DEFINITION. The sequencer and the context engine: tide occurrences (R286-R289), launch and selection (R291-R293), pre-emption,
context save and resume (R31, R204, R294, R304-R306). -/
namespace Sys2Proof.Machine
open Sys2Proof

-- Tide entries (R286, R287) -------------------------------------------------------------------------------------------

/-- The 32 bytes of entry i of a plane's tide table. -/
def Plane.tide (p : Plane) (i : BitVec 8) : List Byte := p.bytes.readRun (0x12000 + 32 * i.toNat) 32
/-- TLAUNCH. -/
def teLaunch (e : List Byte) : Nat := fieldAt e 0 8
/-- PC. -/
def tePc (e : List Byte) : Nat := fieldAt e 8 2
/-- FLAGS. -/
def teFlags (e : List Byte) : Byte := e.getD 10 0
/-- VALID. -/
def teValid (e : List Byte) : Bool := bit (teFlags e) 0
/-- PREEMPT. -/
def tePreempt (e : List Byte) : Bool := bit (teFlags e) 1
/-- REPEAT. -/
def teRepeat (e : List Byte) : Bool := bit (teFlags e) 2
/-- SWAP. -/
def teSwap (e : List Byte) : Bool := bit (teFlags e) 3
/-- DPV. -/
def teDpv (e : List Byte) : Bool := bit (teFlags e) 4
/-- DPSET. -/
def teDpset (e : List Byte) : Byte := e.getD 11 0
/-- PERIOD. -/
def tePeriod (e : List Byte) : Nat := fieldAt e 12 4
/-- ARG. -/
def teArg (e : List Byte) : Word := BitVec.ofNat 64 (fieldAt e 16 8)
/-- TASKID. -/
def teTaskid (e : List Byte) : BitVec 32 := BitVec.ofNat 32 (fieldAt e 24 4)
/-- RCOUNT. -/
def teRcount (e : List Byte) : Nat := fieldAt e 28 2
/-- ROOT with RV. -/
def teRoot (e : List Byte) : Byte := e.getD 30 0

/-- The domain preset set of an entry (R287). -/
def Plane.presetSet (p : Plane) (e : List Byte) : List Byte := p.bytes.readRun (0x11C00 + 32 * (teDpset e).toNat) 32
/-- The DOM value of a preset set. -/
def presetDom (b : List Byte) (l : Level) : Word := BitVec.ofNat 64 (fieldAt b (8 * l.ix.val) 8)

/-- Whether an entry is faulty (R289). -/
def State.tideBad (s : State) (c : CoreId) (p : Plane) (e : List Byte) : Bool :=
  let b := p.presetSet e
  fld (teFlags e) 5 3 != 0#3 || fld (teDpset e) 5 3 != 0#3 || bit (teRoot e) 6 || e.getD 31 0 != 0 || bit (teTaskid e) 31
    || tePc e % 4 != 0 || decide (tePc e ≥ p.codelen)
    || (if teRepeat e then tePeriod e == 0 else tePeriod e != 0 || teRcount e != 0)
    || (teDpv e && ([Level.l1, Level.l2, Level.l3].any (fun l => s.domRejected c l (presetDom b l)) || fieldAt b 25 7 != 0))

/-- The due tick of occurrence k of an entry (R288). -/
def teDue (e : List Byte) (k : Nat) : Nat := teLaunch e + (if teRepeat e then k * tePeriod e else 0)
/-- Whether an entry has an occurrence k (R288). One with REPEAT and no period has only occurrence 0. -/
def teHas (e : List Byte) (k : Nat) : Bool :=
  k == 0 || (teRepeat e && tePeriod e != 0 && (teRcount e == 0 || decide (k < teRcount e)))

/-- The occurrences of an entry. -/
def Plane.occOf (p : Plane) (i : BitVec 8) : Occ := SMap.get .none p.occ i.toNat
/-- Changes the occurrences of an entry. -/
def Plane.setOcc (p : Plane) (i : BitVec 8) (o : Occ) : Plane := { p with occ := SMap.set .none p.occ i.toNat o }

/-- Arms a plane (R288): occurrence 0 of every valid entry is to come. -/
def Plane.arm (p : Plane) : Plane :=
  { p with armed := true,
           occ := ((List.range 256).filter (fun i => teValid (p.tide (BitVec.ofNat 8 i)))).map (fun i => (i, ⟨true, none, 0⟩)) }

/-- Consumes the pending occurrence of an entry. -/
def Plane.consume (p : Plane) (i : BitVec 8) : Plane := p.setOcc i { p.occOf i with pend := none }

/-- Whether an entry's next occurrence has come due (R288). -/
def Plane.occDue (p : Plane) (now : Word) (i : BitVec 8) : Bool :=
  let o := p.occOf i
  o.live && decide (teDue (p.tide i) o.next ≤ now.toNat)

/-- Whether R294 can apply to what a core runs: a spawned or resumed task. -/
def Core.yields (k : Core) : Bool := k.run == .running && k.origin

/-- A tide occurrence falls due (R288): a pending one is dropped and counted. A PREEMPT entry that would pre-empt is checked at
this moment (R294). -/
def execTideOccurrenceDue (core : CoreId) (plane : Bool) (entry : BitVec 8) (s : State) : Host.Outcome State Fault Refusal :=
  let k := s.core core
  let p := k.plane plane
  if !p.occDue s.tnow entry then .next s
  else
    let e := p.tide entry
    let o := p.occOf entry
    let n := o.next + 1
    let o1 : Occ := ⟨teHas e n, some o.next, n⟩
    let k1 := if o.pend.isSome then { k with missed := satAdd k.missed 1 } else k
    if tePreempt e && p.armed && plane == k.act && k.yields && s.tideBad core p e then
      .next ((s.setCore core (k1.modPlane plane (fun p => p.setOcc entry { o1 with pend := none }))).postRecord core (.tideFaulty core plane entry))
    else .next (s.setCore core (k1.modPlane plane (fun p => p.setOcc entry o1)))

/-- The next entry of a core's planes whose occurrence has come due. -/
def Core.tideDue (k : Core) (now : Word) : Option (Bool × BitVec 8) :=
  let find (b : Bool) := ((k.plane b).occ.find? (fun e => (k.plane b).occDue now (BitVec.ofNat 8 e.1))).map (fun e => (b, BitVec.ofNat 8 e.1))
  match find false with
  | some r => some r
  | none => find true

/-- The pending occurrences of the active plane while it is armed: due tick and entry (R288). -/
def Core.pendingTides (k : Core) : List (Nat × BitVec 8) :=
  let p := k.active
  if p.armed then p.occ.filterMap (fun e => e.2.pend.map (fun n => (teDue (p.tide (BitVec.ofNat 8 e.1)) n, BitVec.ofNat 8 e.1))) else []

/-- The first of some occurrences: the earliest due tick, then the lowest entry (R293). -/
def firstTide (os : List (Nat × BitVec 8)) : Option (Nat × BitVec 8) :=
  os.foldl (fun best o =>
    match best with
    | none => some o
    | some b => if o.1 < b.1 || (o.1 == b.1 && o.2.ult b.2) then some o else some b) none

-- Launch (R15, R20, R170, R291, R292) ---------------------------------------------------------------------------------

/-- The matrix state at launch (R170). -/
def Mx.launch (m : Mx) : Mx :=
  { Mx.reset with acc := m.acc, w0 := m.w0, w1 := m.w1, act := m.act, gate := m.gate, sticky := m.events &&& stLost, nextSeq := m.nextSeq }

/-- A plane preset (R88). -/
def Plane.preset (p : Plane) (o : Nat) : Nat := p.field (0x15000 + o) 4

/-- A task starts on a core (R291, R292): the launch values, with the presets of the active plane. -/
def Core.launch (k : Core) (pc : Nat) (arg : Word) (r : Csrs) (spawned : Bool) : Core :=
  let p := k.active
  { k with
    regs := Regs.reset.setX 1 arg false,
    csr := { r with hvec := BitVec.ofNat 64 (p.preset 0x10), latemax := BitVec.ofNat 32 (p.preset 0x14), collto := BitVec.ofNat 32 (p.preset 0x18) },
    pc := BitVec.ofNat 64 pc, via := none, bubble := false, bundle := none, freeze := none, first := none, relT := none, entering := none,
    landing := none, run := .running, origin := spawned,
    task := k.nextTask, nextTask := k.nextTask + 1, pend := [], arrivals := [], lastArr := Vector.replicate 3 none, phase := none,
    cache := [], mx := k.mx.launch }

/-- Launches a tide occurrence (R291): it is late by `late` ticks. -/
def State.launchTide (s : State) (c : CoreId) (e : List Byte) (entry : BitVec 8) (late : Nat) : State :=
  let k := s.core c
  let b := k.active.presetSet e
  let dom (l : Level) : Word := if teDpv e then domMask l (presetDom b l) else 0
  let rv := bit (teRoot e) 7
  let r : Csrs := { Csrs.reset with
    taskid := teTaskid e, slip := BitVec.ofNat 64 late, dom := #v[dom .l1, dom .l2, dom .l3],
    ardom := if teDpv e then BitVec.ofNat 2 (fieldAt b 24 1) else 0,
    weight := if rv then 0x80000000 else 0,
    rootloc := if rv then BitVec.ofNat 64 ((fld (teRoot e) 0 6).toNat * 65536 + c.toNat) else 0 }
  let k1 := if teSwap e then (if k.shrdy then k.flip else k) else k.boundary
  let s1 := s.setCore c (k1.launch (tePc e) (teArg e) r false)
  if teSwap e && !k.shrdy then s1.postRecord c (.swapMissing c k.act entry) else s1

/-- Launches the head of a spawn queue (R292). -/
def Core.launchSpawn (k : Core) (e : SpawnEntry) : Core :=
  let r : Csrs := { Csrs.reset with taskid := e.taskid, weight := e.weight, rootloc := e.root }
  { k with spawnq := k.spawnq.drop 1 }.boundary.launch e.pc.toNat e.arg r true

/-- What the sequencer has to select at a free core (R293). -/
def Core.selectable (k : Core) : Bool :=
  k.run == .idle && (!k.pendingTides.isEmpty || k.suspended.isSome || !k.spawnq.isEmpty)

/-- The sequencer selects (R293): a due occurrence, the suspended task, the head of the spawn queue. A faulty occurrence is
consumed (R289). -/
def State.select (s : State) (c : CoreId) : State :=
  let k := s.core c
  match firstTide k.pendingTides with
  | some (due, i) =>
    let e := k.active.tide i
    let s1 := s.setCore c (k.modPlane k.act (fun p => p.consume i))
    if s.tideBad c k.active e then s1.postRecord c (.tideFaulty c k.act i)
    else s1.launchTide c e i (s.tnow.toNat - due)
  | none =>
    if k.suspended.isSome then s.setCore c { k.boundary with run := .resuming s.tnow }
    else
      match k.spawnq with
      | e :: _ => s.setCore c (k.launchSpawn e)
      | [] => s

/-- Selection at a free core (R293). -/
def execSelection (core : CoreId) (s : State) : Host.Outcome State Fault Refusal :=
  if (s.core core).selectable then .next (s.select core) else .next s

-- Pre-emption (R294, R305) --------------------------------------------------------------------------------------------

/-- The occurrence that pre-empts what a core runs at this boundary (R294). -/
def Core.preemptor (k : Core) : Option (Nat × BitVec 8) :=
  if k.yields && !k.csr.hm && k.bundle.isNone && k.entering.isNone && k.suspended.isNone
  then firstTide (k.pendingTides.filter (fun o => tePreempt (k.active.tide o.2))) else none

/-- The gate while its task is out (R170, R191): a request is parked, a wake goes on. -/
def Gate.whileOut (g : Gate) (t : Nat) : Gate :=
  let wake (w : Nat) : Gate := if w > 0 then .waking (w + t) else .isOpen
  match g with | .pending _ w => wake w | .waking w => wake w | g => g

/-- The longest that landing can take when issue stops (R85, R305): the 140 cycles of a row that has entered, or what is left of the latest
bound. -/
def Core.landTicks (k : Core) : Nat :=
  k.pend.foldl (fun n e => max n (e.due - if e.mx then k.mt else k.ct)) 140

/-- Issue stops for a pre-emption (R305 item 1), and results begin to land: within how many ticks, by their bounds, is a choice. A faulty entry
is consumed. -/
def State.preempt (s : State) (c : CoreId) : State :=
  let k := s.core c
  match k.preemptor with
  | none => s
  | some (_, i) =>
    if s.tideBad c k.active (k.active.tide i) then
      (s.setCore c (k.modPlane k.act (fun p => p.consume i))).postRecord c (.tideFaulty c k.act i)
    else
      (s.setCore c { k with run := .preempting s.tnow k.act i, landing := some (min s.choice k.landTicks), freeze := none,
                            resumeWait := k.freeze.isSome, first := none, relT := k.firstSeen }).chosen

/-- Whether a core that stopped for a pre-emption has landed its results (R305 item 2): writes to marked granules wait for their copies
(R191). -/
def State.landsNow (s : State) (c : CoreId) : Bool := (s.core c).landing == some 0 && !s.landHeld c

/-- The results of a core that stopped for a pre-emption land, and its matrix work parks (R305 item 2). -/
def State.landPreempted (s : State) (c : CoreId) : State := (s.modCore c (fun k => { k.park with landing := none })).arriveAll c

/-- A tick of landing before a context save (R305 item 2): the copies that writes wait for are asked for. -/
def State.landTick (s : State) (c : CoreId) : State :=
  (s.askPending c).modCore c (fun k => { k with landing := k.landing.map (fun n => n - 1) })

/-- The commands a context save waits for (R204). -/
def State.saveHeld (s : State) (c : CoreId) : Bool :=
  let k := s.core c
  k.queue.any (fun q => q.task == k.task && s.usesPad c q && !k.behindTrim q)

/-- The context save begins (R204, R305): a task boundary (R301). -/
def execContextSaveBegin (core : CoreId) (s : State) : Host.Outcome State Fault Refusal :=
  match (s.core core).run with
  | .preempting p pl e =>
    if (s.core core).landing.isSome || s.saveHeld core then .next s
    else .next (s.modCore core (fun k => { k.flushAll.boundary with run := .saving p s.tnow pl e }))
  | _ => .next s

-- The context area (R31, R304) ----------------------------------------------------------------------------------------

/-- The task CSRs in ascending address order (R304). -/
def taskCsrs : List (BitVec 12) :=
  [0x000, 0x001, 0x002, 0x003, 0x004, 0x010, 0x012, 0x014, 0x015, 0x018, 0x019, 0x01A, 0x01B, 0x020, 0x021, 0x022, 0x023,
   0x025, 0x026, 0x027, 0x030, 0x031]
    ++ (List.range 16).map (fun i => BitVec.ofNat 12 (0x040 + i)) ++ [0x050, 0x051, 0x090, 0x091, 0x0A0, 0x0C0, 0x0D0]

/-- Replaces `n` bytes at `a`, both multiples of 32, by cells and poisoned granules that lie there. -/
def PMem.splice (m : PMem) (a n : Nat) (cells : Memory) (bad : List Nat) : PMem :=
  { cells := m.cells.takeWhile (fun c => c.1 < a) ++ (cells ++ m.cells.from (a + n)),
    bad := m.bad.takeWhile (fun g => g < a / 32) ++ (bad ++ m.bad.dropWhile (fun g => g < (a + n) / 32)) }

/-- Replaces a run of bytes that starts at a multiple of 32 and fills its granules, without poison. -/
def PMem.put (m : PMem) (a : Nat) (bs : List Byte) : PMem := m.splice a bs.length (Memory.cells a bs) []

/-- The cells of a memory's first n bytes moved to `a`, with their poison. -/
def PMem.moveIn (m : PMem) (a n : Nat) (src : PMem) : PMem :=
  m.splice a n ((src.cells.takeWhile (fun c => c.1 < n)).map (fun c => (c.1 + a, c.2)))
    ((src.bad.takeWhile (fun g => g < n / 32)).map (fun g => g + a / 32))

/-- The first n bytes of a part of a memory, as a memory of its own. -/
def PMem.moveOut (m : PMem) (a n : Nat) : PMem :=
  { cells := ((m.cells.from a).takeWhile (fun c => c.1 < a + n)).map (fun c => (c.1 - a, c.2)),
    bad := ((m.bad.dropWhile (fun g => g < a / 32)).takeWhile (fun g => g < (a + n) / 32)).map (fun g => g - a / 32) }

/-- The granules, rising, of listed items of `z` bytes at `a` that satisfy `f`. -/
def listedGrans {α : Type} (a z : Nat) (m : SMap α) (f : α → Bool) : List Nat :=
  ((m.filter (fun e => f e.2)).map (fun e => (a + z * e.1) / 32)).eraseDups

/-- A weight plane in memory: the raw E-forms of its 4,096 cells, zero and NaR in their written form (R44), poisoned cells in poisoned granules. -/
def PMem.putForms (m : PMem) (a : Nat) (w : SMap EForm) : PMem :=
  m.splice a 8192 (Memory.cells a ((List.range 4096).flatMap (fun i => bytesOf (efWritten (SMap.get .zeroCell w i).raw).toNat 2)))
    (listedGrans a 2 (w.filter (fun e => e.1 < 4096)) (·.poison))

/-- The resume record (R304, Table 4). It holds 16 bits of the offset: a task taken out between a JMPR to a target of 2^16 or more (R127) and the fault
of that fetch resumes at the low 16 bits (log 73). -/
def resumeRecord (pc : Word) (wait : Bool) (p : Word) (dph : Vector (BitVec 32) 3) (arr : Vector (Option (BitVec 32)) 3) (plane : Bool)
    (entry : BitVec 8) : List Byte :=
  bytesOf (pc.toNat % 65536 + 0x110000 + (if wait then 2 ^ 24 else 0)) 8 ++ bytesOf p.toNat 8
    ++ [0, 1, 2].flatMap (fun i => bytesOf ((arr.toList.getD i none).getD (dph.toList.getD i 0 - 1)).toNat 4)
    ++ List.replicate 4 0 ++ bytesOf (entry.toNat + (if plane then 256 else 0)) 8 ++ List.replicate 88 0

/-- Bytes 0 to 0x2FFF of the context area (R31, Table 12) in runs: offset and bytes. -/
def State.contextRuns (s : State) (c : CoreId) (p : Word) (plane : Bool) (entry : BitVec 8) : List (Nat × List Byte) :=
  let k := s.core c
  let r := k.regs
  let reg (i : Nat) : Reg := BitVec.ofNat 5 i
  let berth (i : Nat) : Nat :=
    let b := k.berth (BitVec.ofNat 5 i)
    b.base.toNat + b.lenm1.toNat * 2 ^ 16 + (b.arm.toNat + 2 * b.mesh.toNat + 4 * b.fab.toNat + 8 * b.mc.toNat) * 2 ^ 32
      + b.etag.toNat * 2 ^ 80 + b.atag.toNat * 2 ^ 96
  [(0, (List.range 32).flatMap (fun i => bytesOf (k.readX (reg i)).val.toNat 8)
      ++ [BitVec.ofNat 8 (r.p.toNat ||| 1), r.pp &&& 0xFE] ++ List.replicate 6 0 ++ bytesOf (r.xp &&& 0xFFFFFFFE).toNat 4 ++ [r.kp &&& 0xFE]
      ++ List.replicate 51 0
      ++ (List.range 8).flatMap (fun i => bytesOf (k.readK (BitVec.ofNat 3 i)).toNat 16)),
   (0x200, taskCsrs.flatMap (fun a => bytesOf ((s.csrRead c a).getD 0).toNat 8) ++ List.replicate 24 0
      ++ resumeRecord k.pc k.resumeWait p k.csr.dph k.lastArr plane entry),
   (0x400, (List.range 64).flatMap (fun i => let m := k.sem (BitVec.ofNat 6 i); bytesOf m.val.toNat 4 ++ bytesOf m.status.toNat 4)),
   (0x600, (List.range 32).flatMap (fun i => bytesOf (berth i) 16)),
   (0x800, k.mx.record k.mt),
   (0xC00, (List.range 32).flatMap (fun i => bytesOf (k.poisonV (reg i)).toNat 2)),
   (0x1000, (List.range 32).flatMap (fun i => bytesOf (k.readV (reg i)).toNat 128))]

/-- The 2 KiB of the 16 hoist entries: a poisoned part of an entry makes its granule poisoned. -/
def PMem.putHoist (m : PMem) (a : Nat) (h : List (BitVec 1024 × BitVec 16)) : PMem :=
  m.splice a 2048 (Memory.cells a (padTo 2048 ((h.take 16).flatMap (fun e => bytesOf e.1.toNat 128))))
    (((h.take 16).zip (List.range 16)).flatMap (fun e =>
      ((List.range 4).filter (fun g => (fld e.1.2 (4 * g) 4 : BitVec 4) != 0)).map (fun g => a / 32 + 4 * e.2 + g)))

/-- The context area of a core, its 11 frames one after another (R304, R404). -/
def State.contextArea (s : State) (c : CoreId) : PMem :=
  ((s.core c).context.zip (List.range 11)).foldl (fun m f => m.moveIn (65536 * f.2) 65536 (s.hbm.moveOut (65536 * f.1) 65536)) .empty

/-- Writes the context area of a core. -/
def State.setContextArea (s : State) (c : CoreId) (a : PMem) : State :=
  { s with hbm := ((s.core c).context.zip (List.range 11)).foldl (fun m f => m.moveIn (65536 * f.1) 65536 (a.moveOut (65536 * f.2) 65536)) s.hbm }

/-- The runs of the context area that lie after its records: those of Table 12 the engine writes and reads alike. -/
def contextImage : List (Nat × Nat) := [(0x1000, 0x1000), (0x2000, 0x800), (0x4000, 0x4000), (0x8000, 0x1000), (0x10000, 0x20000), (0x30000, 0x80000)]

/-- The accesses of the context engine to some runs of a core's context area, frame by frame: their samples (R320), and for reads their draws
(R326). -/
def State.contextAccess (s : State) (c : CoreId) (runs : List (Nat × Nat)) (write : Bool) : State :=
  let k := s.core c
  runs.foldl (fun s r =>
    (List.range ((r.2 + 65535) / 65536)).foldl (fun s i =>
      let loc := 65536 * k.context.getD ((r.1 + 65536 * i) / 65536) 0 + r.1 % 65536
      let n := min 65536 (r.2 - 65536 * i)
      let t := s.sampleRun (Config.physicalIa loc) loc n write k.part
      if !write && bit (s.part k.part).flags 0 then (List.range (n / 32)).foldl (fun t j => t.injectHbm k.part (loc + 32 * j)) t else t) s) s

/-- Fills the context area of a core (R31). -/
def State.saveContext (s0 : State) (c : CoreId) (p : Word) (plane : Bool) (entry : BitVec 8) : State :=
  let s := (((s0.injectReads c .acc (List.range 16384)).injectReads c .pad (List.range 16384)).contextAccess c ((0, 0x1C0) :: (0x200, 0xA40) :: contextImage) true)
  let k := s.core c
  let m0 := (s.contextRuns c p plane entry).foldl (fun (m : PMem) r => m.put r.1 r.2) (s.contextArea c)
  let m1 := ((m0.putHoist 0x2000 k.mx.hoist).putForms 0x4000 (k.mx.plane k.mx.act)).putForms 0x6000 (k.mx.plane (!k.mx.act))
  let masks := (List.range 256).flatMap (fun r => bytesOf (rowMask k.mx r (·.nar)) 8 ++ bytesOf (rowMask k.mx r (·.poison)) 8)
  let m2 := (m1.put 0x8000 masks).splice 0x10000 131072
    ((k.mx.acc.filter (fun e => e.1 < 16384)).flatMap (fun e => Memory.cells (0x10000 + 8 * e.1) (bytesOf e.2.val.toNat 8))) []
  s.setContextArea c (m2.moveIn 0x30000 524288 k.sp)

/-- The matrix state that stays registered with a suspended task: all but what the area holds. -/
def Mx.keep (m : Mx) : Mx := { m with acc := [], w0 := [], w1 := [], hoist := [] }

/-- Ticks within which a context save or restore ends (R305, R306). -/
def contextTicks : Nat := 5600

/-- The context save ends: the task is suspended and the core free (R305). -/
def execContextSaveEnd (core : CoreId) (s : State) : Host.Outcome State Fault Refusal :=
  match (s.core core).run with
  | .saving p _ pl e =>
    .next ((s.saveContext core p pl e).modCore core (fun k =>
      { k with run := .idle, phase := none, via := none, bubble := false,
               mx := { k.mx with gate := k.mx.gate.whileOut k.mt, gateParked := false, gateAr := [], parked := [], parkedTraps := [] },
               suspended := some { dom := k.csr.dom, dph := k.csr.dph, task := k.task, bndhit := 0, phase := k.phase, via := k.via,
                                   bubble := k.bubble, mx := k.mx.keep, arr := Vector.replicate 3 none, relT := k.relT } }))
  | _ => .next s

-- Resume (R306) -------------------------------------------------------------------------------------------------------

/-- The register files a context area holds; what lies in a poisoned granule is poisoned (R32). -/
def PMem.contextRegs (m : PMem) : Regs :=
  let bad (o n : Nat) : Bool := (List.range ((o % 32 + n + 31) / 32)).any (fun i => m.poisoned (o / 32 + i))
  let ofBits (n : Nat) (f : Nat → Bool) : Nat := (List.range n).foldl (fun a i => if f i then a + 2 ^ i else a) 0
  let pq := bad 0x100 16
  let vq := bad 0xC00 64
  { x := Vector.ofFn (fun i => BitVec.ofNat 64 (m.readNat (8 * i.val) 8)),
    xp := BitVec.ofNat 32 (ofBits 32 (fun i => (m.readNat 0x108 4).testBit i || pq || bad (8 * i) 8)),
    p := BitVec.ofNat 8 (m.readNat 0x100 1),
    pp := BitVec.ofNat 8 (ofBits 8 (fun i => (m.readNat 0x101 1).testBit i || pq)),
    v := Vector.ofFn (fun i => BitVec.ofNat 1024 (m.readNat (0x1000 + 128 * i.val) 128)),
    vp := Vector.ofFn (fun i => BitVec.ofNat 16 (ofBits 16 (fun g =>
      (m.readNat (0xC00 + 2 * i.val) 2).testBit g || vq || bad (0x1000 + 128 * i.val + 8 * g) 8))),
    k := Vector.ofFn (fun i => BitVec.ofNat 128 (m.readNat (0x140 + 16 * i.val) 16)),
    kp := BitVec.ofNat 8 (ofBits 8 (fun i => (m.readNat 0x10C 1).testBit i || pq || bad (0x140 + 16 * i) 16)) }

/-- The CSRs a context area holds, with the adjustments of R306: out of handler mode, DPH live, SLIP grown by `gone`, BNDHIT with
what arrived meanwhile. -/
def PMem.contextCsrs (m : PMem) (u : Suspended) (gone : Word) : Csrs :=
  let w (i : Nat) : Word := BitVec.ofNat 64 (m.readNat (0x200 + 8 * i) 8)
  { hm := false, hmx := false, hvx := false, pha := bit (w 0) 3, cause := w 1 &&& 0x00000000FFFF07FF#64, epc := w 2, faddr := w 3, hvec := w 4,
    taskid := (w 5).setWidth 32, tcyc := w 6, slip := satAdd (w 7) gone.toNat, latemax := (w 8).setWidth 32, lc := #v[w 9, w 10],
    le := #v[(w 11).setWidth 33, (w 12).setWidth 33], ardom := (w 13).setWidth 2, dom := #v[domMask .l1 (w 14), domMask .l2 (w 15), domMask .l3 (w 16)], dph := u.dph,
    fpmode := (w 20).setWidth 5, fpflags := (w 21).setWidth 7, bnd := Vector.ofFn (fun i => w (22 + i.val)),
    bndmode := (w 38).setWidth 32, bndhit := (w 39).setWidth 16 ||| u.bndhit, weight := (w 40).setWidth 32, rootloc := w 41,
    phbase := w 42, srseed := w 43, collto := (w 44).setWidth 32 }

/-- A weight plane a context area holds. -/
def PMem.contextForms (m : PMem) (a : Nat) : SMap EForm :=
  (List.range 4096).filterMap (fun i =>
    let e : EForm := ⟨BitVec.ofNat 16 (m.readNat (a + 2 * i) 2), m.poisoned ((a + 2 * i) / 32)⟩
    if e = .zeroCell then none else some (i, e))

/-- The accumulator store a context area holds: an element whose bits or mask are poisoned is poisoned (R32). -/
def PMem.contextAcc (m : PMem) : SMap AccEl :=
  (List.range 16384).filterMap (fun i =>
    let mask (o : Nat) : Bool := (m.readNat (0x8000 + 16 * (i / 64) + o) 8).testBit (i % 64)
    let a := 0x10000 + 8 * i
    let e : AccEl := ⟨BitVec.ofNat 64 (m.readNat a 8), mask 0, mask 8 || m.poisoned (a / 32) || m.poisoned ((0x8000 + 16 * (i / 64)) / 32)⟩
    if e = .zero then none else some (i, e))

/-- The hoist entries a context area holds. -/
def PMem.contextHoist (m : PMem) (a n : Nat) : List (BitVec 1024 × BitVec 16) :=
  (List.range n).map (fun i =>
    (BitVec.ofNat 1024 (m.readNat (a + 128 * i) 128),
     BitVec.ofNat 16 ((List.range 16).foldl (fun acc g => if m.poisoned (a / 32 + 4 * i + g / 4) then acc + 2 ^ g else acc) 0)))

/-- The matrix state a resume restores from a valid record (R306): the work kept for the task when the record is the one that was
written, else what the record says. -/
def PMem.contextMx (m : PMem) (u : Suspended) (now : Mx) (rec' : List Byte) (ardom : BitVec 2) : Mx :=
  let h := m.contextHoist 0x2000 (min 16 (fieldAt rec' 0 8 / 2 ^ 32 % 32))
  let w (x : Bool) : SMap EForm := m.contextForms (if x = now.act then 0x4000 else 0x6000)
  let base := if ({ u.mx with hoist := h }.record 0) = rec' then u.mx else { u.mx with parkedTraps := [] }.restore rec' ardom
  { base with acc := m.contextAcc, w0 := w false, w1 := w true, act := now.act, hoist := h, nextSeq := max now.nextSeq u.mx.nextSeq }

/-- The context is restored (R306): the task runs from its resume offset, or takes cause 0x14 first when its matrix record fails the
check of R194. The offset has 16 bits (log 73). -/
def State.restoreContext (s0 : State) (c : CoreId) (u : Suspended) : State :=
  let s := s0.contextAccess c ((0, 0x1C0) :: (0x200, 0x200) :: (0x800, 0x440) :: contextImage) false
  let k := s.core c
  let m := s.contextArea c
  let rec' := m.cells.readRun 0x800 1024
  let pc := BitVec.ofNat 64 (m.readNat 0x380 2)
  let r := m.contextCsrs u (s.tnow - BitVec.ofNat 64 (m.readNat 0x388 8))
  let arr : Vector (Option (BitVec 32)) 3 :=
    Vector.ofFn (fun i => match u.arr[i] with | some a => some a | none => some (BitVec.ofNat 32 (m.readNat (0x390 + 4 * i.val) 4)))
  let k1 : Core := { k with
    regs := m.contextRegs, csr := r, pc := pc, via := u.via, bubble := u.bubble, run := .running, origin := true, task := u.task,
    bundle := none, freeze := none, first := none, relT := u.relT, entering := none, landing := none, pend := [], arrivals := [], lastArr := arr, phase := u.phase, cache := [], suspended := none,
    sp := m.moveOut 0x30000 524288 }
  if recordBad rec' then
    (s.setCore c { k1 with mx := k.mx.launch }).takeTrap c 0x14 4 0 pc 0
  else s.setCore c { k1 with mx := m.contextMx u k.mx rec' r.ardom }.unpark

/-- The resume ends (R306). -/
def execContextResumeEnd (core : CoreId) (s : State) : Host.Outcome State Fault Refusal :=
  let k := s.core core
  match k.run, k.suspended with
  | .resuming _, some u => .next (s.restoreContext core u)
  | _, _ => .next s

end Sys2Proof.Machine
end

