-- ==== Sys2Proof/Machine/Translate.lean ====
section
/-! DEFINITION. What the management firmware does to the page table and to held accesses (R314-R318, R366, R398), and the clearing
of the error filters (R323). -/
namespace Sys2Proof.Machine
open Sys2Proof

/-- The owner of an HBM frame in the frame map (R397); none for a free frame. -/
def State.frameOwner (s : State) (f : Nat) : Option (BitVec 5) :=
  match SMap.get 0 s.frames f with | 0 => none | n + 1 => some (BitVec.ofNat 5 n)

/-- Bits of an entry that exist (R314, Table 4). -/
def pteMask : BitVec 64 := 0x7FFFFF1FFF

/-- The frames an entry names. -/
def pteFrames (e : BitVec 64) : List Nat := if bit e 7 then (List.range 32).map (fun i => pteFrame e + i) else [pteFrame e]

/-- The check of the update port (R398); a 2 MiB entry names an aligned frame (R314). -/
def State.pteAllowed (s : State) (e : BitVec 64) : Bool :=
  (!bit e 7 || pteFrame e % 32 == 0) && (pteFrames e).all (fun f => s.frameOwner f == some (pteOwner e))

/-- Whether a granule of a page entry is marked by the cut of a partition (R366). -/
def State.entryMarked (s : State) (key : Nat) (e : BitVec 64) (p : BitVec 5) : Bool :=
  (List.range (if bit e 7 then 32 else 1)).any (fun i => ((s.part p).markOf false 0 (65536 * (key + i))).isSome)

/-- Remembers whether a marked entry was last written with W. -/
def Cut.noteW (c : Cut) (key : Nat) (w : Bool) : Cut :=
  { c with wasW := if w then (if c.wasW.contains key then c.wasW else c.wasW ++ [key]) else c.wasW.filter (fun k => k != key) }

/-- An entry written through the update port (R314, R366, R398): refused entries keep their value; a marked one keeps C = 1 and
W = 0, and its W is remembered. -/
def State.updateEntry (s : State) (page : Nat) (pte : BitVec 64) : State :=
  let e := pte &&& pteMask
  if !s.pteAllowed e then s
  else
    let key := if bit e 7 then page / 32 * 32 else page
    let p := pteOwner e
    let covered := if bit e 7 then (List.range 31).map (fun i => key + 1 + i) else []
    let base := covered.foldl (fun m k => SMap.set 0 m k 0) s.pages
    if s.entryMarked key e p && (pteW e || pteC (SMap.get 0 s.pages key)) then
      ({ s with pages := SMap.set 0 base key ((e ||| 4#64) &&& ~~~ 2#64) }).modPart p (fun t => { t with cut := t.cut.map (fun (c : Cut) => c.noteW key (pteW e)) })
    else { s with pages := SMap.set 0 base key e }

/-- The firmware writes a page-table entry (R314, R398), once it runs (R414). -/
def execPageTableUpdate (page : Nat) (pte : Word) (s : State) : Host.Outcome State Fault Refusal := 
  .next (if s.firmware then s.updateEntry page pte else s)

/-- The firmware answers a fault with MAP (R316): the entry is updated and the held access translated again. An update the port
refuses answers nothing (R398). -/
def execFaultMap (id : Nat) (pte : Word) (s : State) : Host.Outcome State Fault Refusal :=
  match s.faults.find? (fun f => f.id == id && !f.refused) with
  | none => .next s
  | some f =>
    if s.pteAllowed (pte &&& pteMask) then
      .next { s.updateEntry (f.ia / 65536) pte with faults := s.faults.filter (fun (x : PageFault) => x.id != id) }
    else .next s

/-- The held access of a fault is to end with PAGE. -/
def State.refuseFault (s : State) (id : Nat) : State :=
  { s with faults := s.faults.map (fun (f : PageFault) => if f.id = id then { f with refused := true } else f) }

/-- The firmware answers a fault with REFUSE (R316). -/
def execFaultRefuse (id : Nat) (s : State) : Host.Outcome State Fault Refusal := .next (s.refuseFault id)

/-- Whether a fault has gone without an answer for FAULTMAX ticks (R316). -/
def State.faultLate (s : State) (f : PageFault) : Bool := !f.refused && decide ((s.tnow - f.since).toNat ≥ s.faultMax f.part)

/-- FAULTMAX runs out on a held access (R316). -/
def execFaultmaxExpiry (id : Nat) (s : State) : Host.Outcome State Fault Refusal :=
  match s.faults.find? (fun f => f.id == id) with
  | none => .next s
  | some f => if s.faultLate f then .next (s.refuseFault id) else .next s

/-- Whether a filter is to be cleared (R323). -/
def State.filterDue (s : State) (f : Nat) : Bool :=
  match s.tele.cleared[f]? with
  | none => false
  | some t => decide ((s.tnow - t).toNat ≥ s.tele.clrint.toNat)

/-- A filter is cleared, all at once (R323). -/
def execFilterClear (f : BitVec 4) (s : State) : Host.Outcome State Fault Refusal :=
  if !s.filterDue f.toNat then .next s
  else .next { s with tele := { s.tele with
    filters := s.tele.filters.filter (fun e => e.1 / 4096 != f.toNat), cleared := s.tele.cleared.setIfInBounds f.toNat s.tnow } }

end Sys2Proof.Machine
end

