-- ==== Sys2Proof/Machine/Drydock.lean ====
section
/-! DEFINITION. The drydock (R360-R373): the cut, copies ahead of the drain, the drain with its sealed segments and manifest, and how
it ends. -/
namespace Sys2Proof.Machine
open Sys2Proof

-- Segments and manifest (R371, R372) ----------------------------------------------------------------------------------

/-- Big-endian bytes of a number. -/
def bytesBE (v n : Nat) : List Byte := (bytesOf v n).reverse

/-- The largest segment (R371). -/
def segmentMax : Nat := 0x100000
/-- Segments of a range. -/
def SnapRange.segments (r : SnapRange) : Nat := (r.len + segmentMax - 1) / segmentMax
/-- Lengths of the segments of a range. -/
def SnapRange.lens (r : SnapRange) : List Nat := (List.range r.segments).map (fun i => min segmentMax (r.len - i * segmentMax))
/-- Where a segment goes in the storage target, of an image whose segments have the lengths given: R451 says it of one of 64 KiB and 32 KiB;
otherwise it is open (log 21). -/
def segmentOffset (lens : List Nat) (i : Nat) : Nat := if lens = [65536, 32768] then 65536 * (i + 1) else Config.segmentAt lens i
/-- Segments of the image of a set. -/
def Part.segments (p : Part) : Nat := (p.ranges.map SnapRange.segments).sum

/-- Bytes 0 to 191 of a manifest (R372, Table 4), of the image of a cut. -/
def State.manifestHead (s : State) (p : BitVec 5) (c : Cut) : List Byte :=
  let t := s.part p
  bytesOf 0x4B445844 4 ++ bytesOf 1 2 ++ bytesOf (c.level.ix.val + 1) 2 ++ bytesOf c.image.toNat 8 ++ bytesOf c.n.toNat 4 ++ bytesOf 0 4
    ++ bytesOf c.c.toNat 8 ++ bytesOf ((t.measure.getD 0).toNat) 48 ++ padTo 48 packageIdentity ++ bytesOf s.chip.toNat 4
    ++ bytesOf p.toNat 4 ++ bytesOf t.segments 8 ++ bytesOf ((t.ranges.map (fun r => r.len)).sum) 8 ++ List.replicate 40 0

/-- The sealing key of an image (R371). -/
def State.sealKey (s : State) (tenant : Word) (measure : BitVec 384) (c image : Word) : List Byte :=
  let secret := ((s.harbour.tenants.find? (fun t => t.id == tenant)).bind (fun t => t.secret)).getD []
  Config.hkdf secret (bytesOf measure.toNat 48) (bytesBE c.toNat 8 ++ bytesBE image.toNat 8) 32

/-- The IV of segment i (R371). -/
def segmentIv (i : Nat) : List Byte := bytesBE i 8 ++ List.replicate 4 0

/-- Bytes 0 to 31 of a segment entry (R372). -/
def segmentEntry (range len off storage : Nat) : List Byte :=
  bytesOf range 2 ++ bytesOf 0 2 ++ bytesOf len 4 ++ bytesOf off 8 ++ bytesOf storage 8 ++ bytesOf 0 8

/-- A new tree is endorsed with the next leaf of the device key, whose record is advanced first; when the leaves are used up, with none (R400,
R401). -/
def Harbour.endorse (h : Harbour) : Harbour :=
  if h.leaf.toNat < 2 ^ 20 then { h with leaf := h.leaf + 1, endorsed := some h.leaf } else { h with endorsed := none }

/-- One more signature of the per-boot LMS tree; after 32,768 a new tree is made, endorsed with the next leaf of the device key (R400,
R401). -/
def Harbour.signOnce (h : Harbour) : Harbour :=
  if h.signed + 1 ≥ 32768 then { h with tree := h.tree + 1, trees := h.trees + 1, signed := 0 }.endorse else { h with signed := h.signed + 1 }

/-- Sends the manifest with its signatures and endorsement (R372). -/
def State.sendManifest (s : State) (p : BitVec 5) (c : Cut) : State :=
  match (s.part p).snapset with
  | none => s
  | some set =>
    let body := s.manifestHead p c ++ c.segs.flatten
    let m := body ++ padTo 96 (aliasSign body)
    let n := m ++ padTo 1612 (Config.lmsSign s.harbour.trees m) ++ endorsement s.harbour.trees s.harbour.tree (s.harbour.endorsed.map (·.toNat))
    { s with out := s.out ++ [OutMsg.segment p set.addr n], harbour := s.harbour.signOnce }

-- The cut (R363-R366) -------------------------------------------------------------------------------------------------

/-- The DOM value and task of each member a core holds at a key: its running and its suspended task (R363). -/
def Core.memberTasks (k : Core) (key : Word) (l : Level) : List Nat :=
  (if k.run != .idle && !(match k.run with | .resuming _ => true | _ => false) && k.csr.domOf l == key then [k.task] else [])
    ++ (match k.suspended with | some u => if u.dom[l.ix] == key then [u.task] else [] | none => [])

/-- The image identifier of a SNAP (R232). -/
def snapImage (q : Cmd) : Word := q.xd

/-- Whether every member on this package has started a SNAP (R363 item 1), among the SNAPs `ws`. -/
def State.membersIn (s : State) (key : Word) (l : Level) (ws : List (CoreId × Cmd)) : Bool :=
  allCores.all (fun c => ((s.core c).memberTasks key l).all (fun t => ws.any (fun w => w.1 == c && w.2.task == t)))

/-- Whether a COLL of the partition up to step n is still to complete (R363 item 2). -/
def State.collPending (s : State) (p : BitVec 5) (n : BitVec 32) : Bool :=
  allCores.any (fun c => (s.core c).part == p && (s.core c).queue.any (fun q =>
    match q.ins with | .coll _ => !(n.ult (coN (q.blocks.getD 0 []))) | _ => false))

/-- The SNAPs of the members at the barrier of a waiting one, for which every member on the package has started, that one first. -/
def State.cutGroup (s : State) (ws : List (CoreId × Cmd)) (w : CoreId × Cmd) : Option (Level × List (CoreId × Cmd)) :=
  let same (a b : CoreId × Cmd) : Bool := a.2.xs1 == b.2.xs1 && snapLevel a.2.ins == snapLevel b.2.ins
  match snapLevel w.2.ins with
  | none => none
  | some l =>
    if s.membersIn w.2.xs1 l ws then
      (let mine := ws.filter (fun v => same w v || ((s.core v.1).memberTasks w.2.xs1 l).contains v.2.task)
       some (l, mine.filter (same w) ++ mine.filter (fun v => !same w v)))
    else none

/-- Whether the SNAPs of a group disagree, or do not go past the previous cut (R363). -/
def State.cutBad (s : State) (p : BitVec 5) (ws : List (CoreId × Cmd)) : Bool :=
  match ws with
  | [] => true
  | w :: _ =>
    ws.any (fun v => snapN v.2 != snapN w.2 || snapImage v.2 != snapImage w.2 || snapLevel v.2.ins != snapLevel w.2.ins)
      || (match (s.part p).lastCut with | some n => !(n.ult (snapN w.2)) | none => false)

/-- The page entries of the set's HBM ranges. -/
def State.setKeys (s : State) (p : BitVec 5) : List Nat :=
  (((s.part p).ranges.filter (fun r => !r.hold)).flatMap (fun r =>
    (List.range r.units).map (fun i => s.pageKey (r.base / 65536 + i)))).eraseDups

/-- The next value of a tenant's in-session counter, taken at once (R373, R410). -/
def State.takeCounter (s : State) (tenant : Word) : State × Word :=
  match s.harbour.tenants.find? (fun t => t.id == tenant) with
  | none => (s, 0)
  | some t =>
    let c := t.insession + 1
    ({ s with harbour := { s.harbour with tenants := s.harbour.tenants.map (fun (x : Tenant) => if x.id == tenant then { x with insession := c } else x) } }, c)

/-- Ends the wait of SNAPs with a status. -/
def State.endSnaps (s : State) (ws : List (CoreId × Nat)) (st : Status) : State :=
  ws.foldl (fun s w => s.finish w.1 w.2 (if st = .ok then [] else [st])) s

/-- The cut (R366): the marks, C and W of the pages, the counter of the image (R373), the members. -/
def State.makeCut (s : State) (p : BitVec 5) (l : Level) (ws : List (CoreId × Cmd)) : State :=
  match ws with
  | [] => s
  | w :: _ =>
    let s0 := allCores.foldl (fun s c => if (s.core c).part == p && !(s.core c).buf.isEmpty then s.modCore c Core.flushAll else s) s
    let s1 := s0.takeCounter (s0.part p).tenant
    let keys := (s.setKeys p).filter (fun k => pteW (SMap.get 0 s.pages k))
    let sealed := ws.filter (fun v => match v.2.ins with | .snapSeal .. => true | _ => false)
    let n := snapN w.2
    let cut : Cut := { n := n, image := snapImage w.2, level := l, pos := 0, copies := [], copying := [], wasW := keys, drained := [], segs := [],
                       members := sealed.map (fun v => (v.1, v.2.id)), c := s1.2 }
    let s2 := s1.1.modPart p (fun t => { t with
      cut := some cut, lastCut := some n,
      lastL3 := if l == .l3 then some n else t.lastL3,
      confirmed := if l == .l3 then none else t.confirmed })
    let s3 := { s2 with pages := keys.foldl (fun m k => SMap.set 0 m k ((SMap.get 0 m k ||| 4#64) &&& ~~~ 2#64)) s2.pages }
    let s4 := sealed.foldl (fun s v => s.modCmd v.1 v.2.id (fun q => { q with delivering := true })) s3
    let s5 := if (s4.part p).units == 0 then s4.sendManifest p cut else s4
    s5.endSnaps ((ws.filter (fun v => match v.2.ins with | .snap .. => true | _ => false)).map (fun v => (v.1, v.2.id))) .ok

/-- The cut a partition has due on this package (R363 items 1 to 3): of the first waiting SNAP whose conditions hold, a level 3 one last, since
that waits for its confirmation while another needs none. -/
def State.cutDue (s : State) (p : BitVec 5) : Option (Level × List (CoreId × Cmd)) :=
  let ws := s.waitingSnaps p
  let due (l3 : Bool) : Option (Level × List (CoreId × Cmd)) :=
    (ws.filter (fun w => (snapLevel w.2.ins == some .l3) == l3)).findSome? (fun w => if s.collPending p (snapN w.2) then none else s.cutGroup ws w)
  if (s.part p).cut.isSome then none else match due false with | some g => some g | none => due true

/-- Ends the wait of SNAPs with RECORD (R363); a later SNAP of the same N is then one the group is told of again. -/
def State.recordSnaps (s : State) (p : BitVec 5) (ws : List (CoreId × Cmd)) : State :=
  (s.endSnaps (ws.map (fun w => (w.1, w.2.id))) .record).modPart p (fun t => { t with confirmed := none })

/-- The level 3 members of a partition on this package have all started: the collective engine tells the other packages of the group (R363 item
4), once for each N. -/
def State.confirmCut (s : State) (p : BitVec 5) : State :=
  let ws := s.waitingSnaps p
  match ws.find? (fun w => snapLevel w.2.ins == some .l3 && s.membersIn w.2.xs1 .l3 ws) with
  | none => s
  | some w =>
    let n := snapN w.2
    if (s.part p).confirmed == some n then s
    else
      ((s.groupOf w.2.xs1).filter (fun c => c != s.chip)).foldl (fun s chip =>
        ({ s with out := s.out ++ [OutMsg.cutConfirm chip p n] }).xmit (packetOf 2 ⟨chip, s.chip, 0, .confirm p n, 3, 0, 0⟩ [] .delivered))
        (s.modPart p (fun t => { t with confirmed := some n }))

/-- SNAPs of the group on another package disagree with those here: no cut is taken anywhere, and the members complete with RECORD (R363). -/
def State.refuseCut (s : State) (p : BitVec 5) : State :=
  s.recordSnaps p ((s.waitingSnaps p).filter (fun w => snapLevel w.2.ins == some .l3))

/-- The cut instant (R363). At level 3 the event stands for the confirmation of the collective engine that every member of the group
has started. SNAPs that disagree complete with RECORD and no cut is taken. -/
def execCutInstant (part : BitVec 5) (s : State) : Host.Outcome State Fault Refusal :=
  match s.cutDue part with
  | none => .next s
  | some (l, ws) =>
    if s.cutBad part ws then .next (s.recordSnaps part ws) else .next (s.makeCut part l ws)

/-- The copy a writer waits for is made, when the snapshot buffer has room (R367, R368). -/
def execCowCopyDone (part : BitVec 5) (g : Nat) (s : State) : Host.Outcome State Fault Refusal :=
  match (s.part part).cut, granuleAt (s.part part).ranges g with
  | some c, some (r, _) => if c.copying.contains g && s.bufRoom part r.unit then .next (s.makeCopy part g) else .next s
  | _, _ => .next s

-- Draining and sealing (R370-R373) ------------------------------------------------------------------------------------

/-- Encrypts and sends the segment that has been filled (R371): `range` it lies in, and its offset there. -/
def State.sendSegment (s : State) (p : BitVec 5) (c : Cut) (range off : Nat) : State :=
  let t := s.part p
  match t.snapset with
  | none => s
  | some set =>
    let i := c.segs.length
    let data := c.drained.flatten
    let store := segmentOffset (t.ranges.flatMap SnapRange.lens) i
    let entry := segmentEntry range data.length off store
    let sealed := Config.gcmSeal (s.sealKey t.tenant (t.measure.getD 0) c.c c.image) (segmentIv i) ((s.manifestHead p c).take 64 ++ entry) data
    let s1 := { s with out := s.out ++ [OutMsg.segment p (set.addr + BitVec.ofNat 64 store) sealed.1] }
    s1.modPart p (fun t => { t with dryBytes := satAdd t.dryBytes data.length,
                                    cut := some { c with drained := [], segs := c.segs ++ [entry ++ padTo 16 sealed.2] } })

/-- The number of the range that holds a granule. -/
def rangeIx (rs : List SnapRange) (g i : Nat) : Nat :=
  match rs with
  | [] => i
  | r :: rest => if g < r.units then i else rangeIx rest (g - r.units) (i + 1)

/-- Whether everything of a cut has been drained. -/
def Part.allDrained (p : Part) : Bool := match p.cut with | some c => decide (c.pos ≥ p.units) | none => false

/-- The drain sends the next granule (R370): from the buffer, or read in place; it is unmarked, W comes back on a page, and its buffer
space is free. A full segment, and after the last the manifest, is sent. -/
def execDrainGranule (part : BitVec 5) (s0 : State) : Host.Outcome State Fault Refusal :=
  let t := s0.part part
  match t.cut, t.cut.bind (fun c => granuleAt t.ranges c.pos) with
  | some c, some (r, a) =>
    let s := if c.copies.any (fun e => e.1 == c.pos) then s0 else s0.granuleReads part r a
    let data := match c.copies.find? (fun e => e.1 == c.pos) with | some e => e.2 | none => s.granuleBlob r a
    let c1 := { c with pos := c.pos + 1, copies := c.copies.filter (fun e => e.1 != c.pos), copying := c.copying.filter (fun g => g != c.pos),
                       drained := c.drained ++ [data.bytes] }
    let s1 := s.modPart part (fun t => { t with cut := some c1 })
    let s2 := if r.hold then s1 else s1.unmarkPage part a
    let off := a - r.base
    let ends := off + r.unit
    let s3 := if ends % segmentMax = 0 || ends ≥ r.len then
        s2.sendSegment part c1 (rangeIx t.ranges c.pos 0) (off / segmentMax * segmentMax) else s2
    match (s3.part part).cut with
    | some c2 => if (s3.part part).allDrained then .next (s3.sendManifest part c2) else .next s3
    | none => .next s3
  | _, _ => .next s0

/-- The target confirms the image (R373): the SEAL members complete, and C is to be marked committed. -/
def execImageConfirmed (part : BitVec 5) (s : State) : Host.Outcome State Fault Refusal :=
  let t := s.part part
  match t.cut with
  | none => .next s
  | some c =>
    if !t.allDrained then .next s
    else
      let s1 := (s.modPart part (fun t => { t with cut := none })).endSnaps c.members .ok
      .next { s1 with out := s1.out ++ [OutMsg.commitC t.tenant c.c] }

/-- The drain fails (R373): marks cleared, the buffer freed, SEAL members with PAGE, or LINK when the target cannot be reached. -/
def execDrainFailure (part : BitVec 5) (unreachable : Bool) (s : State) : Host.Outcome State Fault Refusal :=
  let t := s.part part
  match t.cut with
  | none => .next s
  | some c =>
    let pages := (s.setKeys part).foldl (fun m k =>
      let e := SMap.get 0 m k
      if pteC e then SMap.set 0 m k ((if c.wasW.contains k then e ||| 2#64 else e) &&& ~~~ 4#64) else m) s.pages
    .next (({ s with pages := pages }.modPart part (fun t => { t with cut := none })).endSnaps c.members (if unreachable then .link else .page))

end Sys2Proof.Machine
end

