-- ==== Sys2Proof/Machine/Links.lean ====
section
/-! DEFINITION. The torus link layer (R380, R381, R383, R386, R396) and the time of the package (R284, R395, R415). -/
namespace Sys2Proof.Machine
open Sys2Proof

-- Flits (R380) --------------------------------------------------------------------------------------------------------

/-- One bit of CRC-32, reflected, polynomial 0x04C1_1DB7. -/
def crcBit (r : BitVec 32) : BitVec 32 := if bit r 0 then (r >>> 1) ^^^ 0xEDB88320 else r >>> 1

/-- CRC-32 of IEEE 802.3 over bytes, from a register value (log 23). -/
def crcRun (r : BitVec 32) : List Byte → BitVec 32
  | [] => r
  | b :: rest => crcRun ((List.range 8).foldl (fun r _ => crcBit r) (r ^^^ b.setWidth 32)) rest

/-- The CRC of a flit: over header bits [31:0] and bytes 8 to 63. -/
def flitCrc (f : BitVec 512) : BitVec 32 :=
  ~~~ crcRun (BitVec.allOnes 32) (bytesOf (fld f 0 32 : BitVec 32).toNat 4 ++ bytesOf (fld f 64 448 : BitVec 448).toNat 56)

/-- SEQ. -/
def flitSeq (f : BitVec 512) : BitVec 12 := fld f 20 12
/-- VC. -/
def flitVc (f : BitVec 512) : BitVec 2 := fld f 18 2
/-- TYPE. -/
def flitType (f : BitVec 512) : Nat := (fld f 14 4 : BitVec 4).toNat
/-- CVC. -/
def flitCvc (f : BitVec 512) : BitVec 2 := fld f 12 2
/-- CRED. -/
def flitCred (f : BitVec 512) : Nat := (fld f 4 8 : BitVec 8).toNat
/-- Payload bytes 8 and 9 of an ACK or NAK: a sequence number. -/
def flitNumber (f : BitVec 512) : BitVec 12 := fld f 64 12

/-- Whether a type takes a sequence number (R381). -/
def sequenced (ty : Nat) : Bool := decide (1 ≤ ty ∧ ty ≤ 3) || ty == 7

/-- A flit that fails R380: a CRC mismatch, a reserved type, a non-zero reserved field. -/
def flitBad (f : BitVec 512) : Bool :=
  flitCrc f != fld f 32 32 || decide (flitType f ≥ 8) || fld f 0 4 != 0#4 || (!sequenced (flitType f) && flitSeq f != 0)

/-- A flit from its fields. -/
def makeFlit (seq : BitVec 12) (vc : BitVec 2) (ty : BitVec 4) (cvc : BitVec 2) (cred : BitVec 8) (pay : BitVec 448) : BitVec 512 :=
  let f : BitVec 512 := pay ++ (0#32 ++ (seq ++ vc ++ ty ++ cvc ++ cred ++ 0#4))
  f ||| ((flitCrc f).setWidth 512 <<< 32)

-- Sending -------------------------------------------------------------------------------------------------------------

/-- The credits a port returns with its next flit: the first channel that owes any. -/
def TorusPort.credit (t : TorusPort) : BitVec 2 × BitVec 8 :=
  match [0#2, 1, 2, 3].find? (fun c => decide (t.owed[c.toNat]'(c.isLt) > 0)) with
  | some c => (c, BitVec.ofNat 8 (min 255 (t.owed[c.toNat]'(c.isLt))))
  | none => (0, 0)

/-- Puts a flit on the wire; the injector of the transmit side may flip one of its bits (R326, R327). -/
def State.emit (s : State) (p : Port) (f : BitVec 512) : State :=
  let key := injPort (portIx p).val false
  let j := s.injector key
  if !bit j.cfg 0 then { s with out := s.out ++ [OutMsg.flit p f] }
  else
    let d := injectDraw j.cfg j.gen
    let g := if d.2.2.isSome then f ^^^ (1#512 <<< ((fld d.1 0 12 : BitVec 12).toNat % 512)) else f
    { s with inj := SMap.set ⟨0, 0, 0⟩ s.inj key ⟨d.2.1, d.1, j.part⟩, out := s.out ++ [OutMsg.flit p g] }

/-- Sends a flit with the credits it returns; a sequenced one takes the next SEQ and is kept for replay (R381, R383). -/
def State.sendFlit (s : State) (p : Port) (vc : BitVec 2) (ty : BitVec 4) (pay : BitVec 448) : State :=
  let t := s.port p
  let c := t.credit
  let seq := if sequenced ty.toNat then t.txSeq else 0
  let f := makeFlit seq vc ty c.1 c.2 pay
  let t1 := { t with owed := t.owed.set c.1.toNat (t.owed[c.1.toNat]'(c.1.isLt) - c.2.toNat) c.1.isLt }
  let t2 := if sequenced ty.toNat then
      { t1 with txSeq := t.txSeq + 1, unacked := t.unacked ++ [f], progress := if t.unacked.isEmpty then s.tnow else t.progress } else t1
  (s.modPort p (fun _ => t2)).emit p f

/-- An ACK of everything accepted so far (R381). -/
def State.sendAck (s : State) (p : Port) : State :=
  let t := s.port p
  (s.modPort p (fun t => { t with sinceAck := 0, lastAck := s.tnow })).sendFlit p 0 4 ((t.rxSeq - 1).setWidth 448)

/-- Bytes of a packet in flits. -/
def packetBytes (k : Packet) : Nat := 64 * k.flits.length

/-- Deficit round robin (R386): the port after the visits made, with the packet that goes next where one does. A class whose next packet finds
its channel busy with another packet waits for it. -/
def TorusPort.pick (t : TorusPort) (wgt : Vector (BitVec 8) 4) : Nat → TorusPort × Option Packet
  | 0 => (t, none)
  | n + 1 =>
    let c := t.visit
    let q := t.classes[c.toNat]'(c.isLt)
    let next : TorusPort := { t with visit := c + 1, granted := false }
    match q with
    | [] => TorusPort.pick { next with deficit := next.deficit.set c.toNat 0 c.isLt } wgt n
    | k :: rest =>
      let d := t.deficit[c.toNat]'(c.isLt) + (if t.granted then 0 else 256 * (wgt[c.toNat]'(c.isLt)).toNat)
      let had : TorusPort := { t with deficit := t.deficit.set c.toNat d c.isLt, granted := true }
      if !(t.going[k.vc.toNat]'(k.vc.isLt)).isEmpty then
        TorusPort.pick { next with deficit := had.deficit } wgt n
      else if packetBytes k ≤ d then
        ({ had with classes := had.classes.set c.toNat rest c.isLt, deficit := had.deficit.set c.toNat (if rest.isEmpty then 0 else d - packetBytes k) c.isLt }, some k)
      else TorusPort.pick { next with deficit := had.deficit } wgt n

/-- Visits made in one tick; the deficit gathered stays for the next (R386). -/
def pickFuel : Nat := 16384

/-- Starts a packet on its channel; one of which the pier has no copy is kept until its last flit is acknowledged. -/
def TorusPort.start (t : TorusPort) (k : Packet) : TorusPort :=
  { t with going := t.going.set k.vc.toNat k.flits k.vc.isLt, begun := putBit t.begun k.vc.toNat false,
           sending := if k.fate == .copied then t.sending else t.sending ++ [(k, none)] }

/-- The last flit of the packet on a channel goes, with the number `seq`. -/
def TorusPort.lastGoes (t : TorusPort) (c : BitVec 2) (seq : BitVec 12) : TorusPort :=
  { t with sending := t.sending.map (fun e => if e.1.vc = c && e.2.isNone then (e.1, some seq) else e) }

/-- Takes up the next packets: of the response channel, and of the classes when no other channel has a flit that may go. -/
def TorusPort.takeUp (t : TorusPort) (wgt : Vector (BitVec 8) 4) : TorusPort :=
  let t1 := if t.going[1].isEmpty then (match t.resp with | k :: rest => ({ t with resp := rest }).start k | [] => t) else t
  let able (c : BitVec 2) : Bool := !(t1.going[c.toNat]'(c.isLt)).isEmpty && decide (t1.credits[c.toNat]'(c.isLt) > 0)
  if [0#2, 1, 2, 3].any able || t1.classes.toList.all (·.isEmpty) then t1
  else match t1.pick wgt pickFuel with | (t2, some k) => t2.start k | (t2, none) => t2

/-- The channel whose flit goes next: responses first (R386), each only against a credit (R383). -/
def TorusPort.nextChannel (t : TorusPort) : Option (BitVec 2) :=
  [1#2, 0, 2, 3].find? (fun c => !(t.going[c.toNat]'(c.isLt)).isEmpty && decide (t.credits[c.toNat]'(c.isLt) > 0))

/-- What a port does in a tick: one flit of a packet while fewer than 2,047 are unacknowledged, or an idle flit that returns credits;
and one accepted flit leaves its buffer (R381, R383): a packet received whole that is for another package goes on (R382). -/
def State.linkPump (s : State) (p : Port) : State :=
  if !(s.port p).up then s
  else
    let t0 := s.port p
    let got : TorusPort × Option (BitVec 2 × List (BitVec 448)) := match t0.rx with
      | f :: rest =>
        let v := flitVc f
        let flits := t0.inflow[v.toNat]'(v.isLt) ++ [fld f 64 448]
        let last := flitType f == 3
        ({ t0 with rx := rest, owed := t0.owed.set v.toNat (t0.owed[v.toNat]'(v.isLt) + 1) v.isLt,
                   inflow := t0.inflow.set v.toNat (if last then [] else flits) v.isLt }, if last then some (v, flits) else none)
      | [] => (t0, none)
    let s0 := s.modPort p (fun _ => got.1)
    let s1' := match got.2 with | some k => s0.forward k.1 k.2 | none => s0
    let t := (s1'.port p).takeUp s.wgt
    let s1 := s1'.modPort p (fun _ => t)
    match (if t.unacked.length < 2047 then t.nextChannel else none) with
    | some c =>
      match t.going[c.toNat]'(c.isLt) with
      | f :: rest =>
        let ty : BitVec 4 := if rest.isEmpty then 3 else if bit t.begun c.toNat then 2 else 1
        (s1.modPort p (fun t => { (if rest.isEmpty then t.lastGoes c t.txSeq else t) with
          going := t.going.set c.toNat rest c.isLt, begun := putBit t.begun c.toNat true,
          credits := t.credits.set c.toNat (t.credits[c.toNat]'(c.isLt) - 1) c.isLt })).sendFlit p c ty f
      | [] => s1
    | none => if t.credit.2 = 0 then s1 else s1.sendFlit p 0 0 0

-- Failure and retraining (R381, R382, R384) ---------------------------------------------------------------------------

/-- The packets a port that goes down leaves to be sent another way (R382, R388): those it has not begun of which the pier has no copy, and all
that are delivered in the end, until they are acknowledged. -/
def TorusPort.leaves (t : TorusPort) : List Packet :=
  (t.sending.filter (fun e => e.1.fate == .delivered || (e.2.isNone && !bit t.begun e.1.vc.toNat))).map (·.1)
    ++ t.queued.filter (fun k => k.fate != .copied)

/-- The port goes down in both directions (R381): its replay buffers are discarded and the firmware is told; the packets still held go the other way
(R382), and the copies whose first hop it was are re-sent on the routes now current (R384). -/
def State.portDown (s : State) (p : Port) : State :=
  let t := s.port p
  let s1 := { s.modPort p (fun _ => { TorusPort.reset with
      up := false, replays := t.replays, bad := t.bad, downs := satAdd t.downs 1, resends := t.resends,
      beaconPeer := t.beaconPeer, beaconAt := t.beaconAt, beaconTx := t.beaconTx }) with fw := s.fw ++ [.portDown p] }
  (s.sent.filter (fun e => e.hop == some p && !e.waiting)).foldl (fun s e => s.resendCopy e) (t.leaves.foldl State.xmit s1)

/-- The flits from a sequence number on, of those unacknowledged. -/
def TorusPort.since (t : TorusPort) (seq : BitVec 12) : List (BitVec 512) := t.unacked.dropWhile (fun f => flitSeq f != seq)

/-- Replays the unacknowledged flits (R381). A replay before which the last one brought no progress counts that one as failed; the
third failed in a row takes the port down. -/
def State.replay (s : State) (p : Port) : State :=
  let t := s.port p
  let failed := if t.replaying then t.failed + 1 else t.failed
  if t.unacked.isEmpty then s
  else if failed ≥ 3 then s.portDown p
  else
    t.unacked.foldl (fun s f => s.emit p f)
      (s.modPort p (fun t => { t with failed := failed, replaying := true, progress := s.tnow, replays := satAdd t.replays 1 }))

/-- An ACK, or the part of a NAK that acknowledges: flits before `seq` are acknowledged (R381). -/
def State.acknowledge (s : State) (p : Port) (seq : BitVec 12) : State :=
  let t := s.port p
  let left := t.since seq
  if t.unacked.isEmpty || left.length = t.unacked.length || (left.isEmpty && seq != t.txSeq) then s
  else s.modPort p (fun t => { t with
    unacked := left, failed := 0, replaying := false, progress := s.tnow,
    sending := t.sending.filter (fun e => e.2.all (fun n => left.any (fun f => flitSeq f == n))) })

/-- The NAK the first discarded flit provokes (R381); a choice sends it again at a later one, as a replay that fails ends in a NAK. -/
def State.sendNak (s0 : State) (p : Port) : State :=
  let t := s0.port p
  let again := t.naked && s0.choice != 0
  let s := if t.naked then s0.chosen else s0
  if t.naked && !again then s else (s.modPort p (fun t => { t with naked := true })).sendFlit p 0 5 (t.rxSeq.setWidth 448)

/-- A sequenced flit that is good: accepted in order, otherwise discarded; the first one discarded provokes a NAK (R381). -/
def State.acceptFlit (s : State) (p : Port) (f : BitVec 512) : State :=
  let t := s.port p
  if flitSeq f = t.rxSeq then
    let s1 := s.modPort p (fun t => { t with
      rxSeq := t.rxSeq + 1, naked := false, sinceAck := t.sinceAck + 1, lastAck := if t.sinceAck = 0 then s.tnow else t.lastAck,
      rx := if flitType f = 7 then t.rx else t.rx ++ [f] })
    if t.sinceAck + 1 ≥ 64 then s1.sendAck p else s1
  else s.sendNak p

/-- Credits a flit returns (R383): a buffer has 256. -/
def TorusPort.refill (t : TorusPort) (f : BitVec 512) : TorusPort :=
  let c := flitCvc f
  { t with credits := t.credits.set c.toNat (min 256 (t.credits[c.toNat]'(c.isLt) + flitCred f)) c.isLt }

/-- The neighbour's beacon (R396): its time, and when it came, for the servo of the firmware. -/
def State.noteBeacon (s : State) (p : Port) (sent recv : Word) : State :=
  { s.modPort p (fun t => { t with beaconPeer := sent, beaconAt := s.tnow }) with fw := s.fw ++ [.beacon p sent recv s.tnow] }

/-- What a good flit does. -/
def State.takeFlit (s : State) (p : Port) (f : BitVec 512) : State :=
  let refill (s : State) : State := s.modPort p (fun t => t.refill f)
  match flitType f with
  | 0 => refill s
  | 4 => (refill s).acknowledge p (flitNumber f + 1)
  | 5 => ((refill s).acknowledge p (flitNumber f)).replay p
  | 6 => (refill s).noteBeacon p (fld f 64 64) (fld f 128 64)
  | _ => (if flitSeq f = (s.port p).rxSeq then refill s else s).acceptFlit p f

/-- A flit arrives at a port (R380, R381): one that is bad, or that the receive-side injector corrupts (R327), is discarded and counted. -/
def execFlitReceive (p : Port) (flit : BitVec 512) (s : State) : Host.Outcome State Fault Refusal :=
  if !(s.port p).up then .next s
  else
    let key := injPort (portIx p).val true
    let j := s.injector key
    let d := injectDraw j.cfg j.gen
    let on := bit j.cfg 0
    let s1 := if on then { s with inj := SMap.set ⟨0, 0, 0⟩ s.inj key ⟨d.2.1, d.1, j.part⟩ } else s
    if flitBad flit || (on && d.2.2.isSome) then
      .next ((s1.modPort p (fun t => { t with bad := satAdd t.bad 1 })).sendNak p)
    else .next (s1.takeFlit p flit)

/-- An ACK goes 256 ticks after the first flit accepted since the last one (R381). -/
def State.ackDue (s : State) (p : Port) : Bool :=
  let t := s.port p
  t.up && decide (t.sinceAck > 0) && decide ((s.tnow - t.lastAck).toNat ≥ 256)

/-- A cumulative ACK is sent when its time has come (R381). -/
def execAckTimer (p : Port) (s : State) : Host.Outcome State Fault Refusal := if s.ackDue p then .next (s.sendAck p) else .next s

/-- Whether 4,096 ticks have passed without ACK progress (R381). -/
def State.replayDue (s : State) (p : Port) : Bool :=
  let t := s.port p
  t.up && !t.unacked.isEmpty && decide ((s.tnow - t.progress).toNat ≥ 4096)

/-- The transmitter replays from the oldest unacknowledged flit (R381). -/
def execReplayTimeout (p : Port) (s : State) : Host.Outcome State Fault Refusal := if s.replayDue p then .next (s.replay p) else .next s

/-- The firmware retrains a port that is down (R381): it comes back for new traffic. -/
def execPortRetrain (p : Port) (s : State) : Host.Outcome State Fault Refusal :=
  if (s.port p).up || !s.firmware then .next s else .next (s.modPort p (fun t => { t with up := true }))

-- Beacons and time (R284, R395, R396, R415) ---------------------------------------------------------------------------

/-- Whether a port's beacon is due (R396). -/
def State.beaconDue (s : State) (p : Port) : Bool := (s.port p).up && decide ((s.tnow - (s.port p).beaconTx).toNat ≥ 65536)

/-- A beacon goes every 65,536 ticks (R396): TNOW, and when the last beacon came. It takes no SEQ and is never replayed. -/
def execBeaconSend (p : Port) (s : State) : Host.Outcome State Fault Refusal :=
  if !s.beaconDue p then .next s
  else .next ((s.modPort p (fun t => { t with beaconTx := s.tnow })).sendFlit p 0 6 (0#320 ++ (s.port p).beaconAt ++ s.tnow))

/-- The servo's judgement of TLOCK after a measurement (R415, Table 6), which a choice stands for: 1 within 8 ticks, 2 not, else as
before. It judges what is measured after the load. -/
def State.judge (s : State) : State :=
  if !s.firmware || !s.clock.loaded then s else
  { s.chosen with clock := { s.clock with tlock := if s.choice = 1 then true else if s.choice = 2 then false else s.clock.tlock } }

/-- A beacon arrives (R396). -/
def execBeaconReceive (p : Port) (sent recv : Word) (s : State) : Host.Outcome State Fault Refusal :=
  if (s.port p).up then .next (s.noteBeacon p sent recv).judge else .next s

/-- A PTP event message is timestamped to one tick (R395). -/
def execPtpEventMessage (port : BitVec 2) (egress : Bool) (seqId : BitVec 16) (s : State) : Host.Outcome State Fault Refusal :=
  if s.firmware then .next { s with out := s.out ++ [OutMsg.timestamp port egress seqId s.tnow] }.judge else .next s

/-- A discipline step (R284): TNOW is to advance by 2 or by 0 in this cycle, at most once in any 1,024 consecutive cycles; after the load (R415). -/
def execDisciplineStep (two : Bool) (s : State) : Host.Outcome State Fault Refusal :=
  if !s.firmware || !s.clock.loaded || s.clock.lastStep.any (fun c => decide (s.clock.cycle < c + 1024)) then .next s
  else .next { s with clock := { s.clock with step := some two, lastStep := some s.clock.cycle } }

/-- The firmware loads TNOW (R415): after FLOCK, once, no smaller than it is, before any LAUNCH of this boot. -/
def execTnowLoad (v : Word) (s : State) : Host.Outcome State Fault Refusal :=
  if !s.firmware || !s.clock.flock || s.clock.loaded || s.clock.launched || v.ult s.tnow then .next s
  else .next { s with tnow := v, clock := { s.clock with loaded := true } }

/-- The core clock locks to a reference, 0 to 3 an Ethernet port, 4 to 9 a torus port (R415, Table 6 of R396). -/
def execFrequencyLock (src : BitVec 8) (s : State) : Host.Outcome State Fault Refusal :=
  if !s.firmware || src.toNat > 9 then .next s
  else .next { s with clock := { s.clock with src := src, flock := true, hold := false } }

/-- The reference is lost (R395): holdover at the last locked frequency. -/
def execReferenceLoss (s : State) : Host.Outcome State Fault Refusal :=
  .next { s with clock := { s.clock with flock := false, hold := true } }

/-- The time status word (Table 6). -/
def Clock.status (k : Clock) : Word := 0#48 ++ k.src ++ 0#5 ++ bitOf 1 k.hold ++ bitOf 1 k.flock ++ bitOf 1 k.tlock

/-- Whether a message leaves by an Ethernet port. -/
def OutMsg.ethernet (m : OutMsg) : Bool :=
  match m with
  | .completion .. | .reply .. | .rdmaAck .. | .rdmaInvalid _ | .status .. | .segment .. | .commitC .. => true
  | _ => false

/-- The messages that have left the package, in order: an Ethernet message waits while every Ethernet port is paused (R389, log 142). -/
def State.sentOut (s : State) : List OutMsg :=
  ((s.out.zip (List.range s.out.length)).filter (fun e => !e.1.ethernet || decide (e.2 < s.gone))).map (·.1)

/-- The Ethernet ports send what waits, unless every one of them is paused on the priority of flow control (R389). -/
def State.ethernetTick (s : State) : State := if s.paused = 0xF then s else { s with gone := s.out.length }

/-- A priority flow control frame pauses or resumes an Ethernet port (R389) on the priority the firmware has chosen. -/
def execPfcPauseFrame (port : BitVec 2) (pause : Bool) (s : State) : Host.Outcome State Fault Refusal :=
  .next { s with paused := putBit s.paused port.toNat pause }

end Sys2Proof.Machine
end

