-- ==== Sys2Proof/Machine/Host.lean ====
section
/-! DEFINITION. What the host asks: RDMA accesses (R390, R391), host commands with their checks and completion records (R392-R394),
plane loads (R89, R300) and restores (R374). -/
namespace Sys2Proof.Machine
open Sys2Proof

-- Partitions ----------------------------------------------------------------------------------------------------------

/-- The partition a virtual function is bound to (R391). -/
def State.vfPart (s : State) (vf : BitVec 8) : Option (BitVec 5) :=
  match SMap.get 0 s.vfs vf.toNat with | 0 => none | n + 1 => some (BitVec.ofNat 5 n)

/-- The cores of a partition in ascending id. -/
def State.coresOf (s : State) (p : BitVec 5) : List CoreId := allCores.filter (s.ownsCore p)

-- RDMA (R390, R391) ---------------------------------------------------------------------------------------------------

/-- The handle an rkey was issued for, when it belongs to the function's partition. -/
def State.rkeyHandle (s : State) (vf : BitVec 8) (rkey : BitVec 32) : Option (BitVec 5 × BitVec 12) :=
  match s.vfPart vf with
  | none => none
  | some p => (s.rkeys.find? (fun k => k.key == rkey && k.part == p)).map (fun k => (p, k.handle))

/-- A host access is checked as an engine access through its handle (R309, R391); one that fails is answered with a NAK. Accesses are numbered in
arrival order (R282). -/
def State.hostAccess (s : State) (vf : BitVec 8) (qp : BitVec 6) (rkey : BitVec 32) (off : Nat) (write : Bool) (data : List Byte) (len : Nat) : State :=
  let nak := { s with out := s.out ++ [OutMsg.rdmaAck vf false []] }
  if s.boot != .none then s
  else match s.rkeyHandle vf rkey with
  | none => nak
  | some (p, h) =>
    if s.handleOkFor p h off len (if write then .hostWrite else .hostRead) then
      { s with hostOps := s.hostOps ++ [⟨s.nextHost, vf, qp, p, h, hGen (s.handle p h), off, write, data, len, 0, none, none⟩],
               nextHost := s.nextHost + 1 }
    else nak

/-- A host RDMA WRITE arrives (R391). -/
def execRdmaWrite (pair : QueuePair) (rkey : BitVec 32) (off : Nat) (data : List Byte) (s : State) : Host.Outcome State Fault Refusal :=
  .next (s.hostAccess pair.vf pair.qp rkey off true data data.length)

/-- A host RDMA READ arrives (R391). -/
def execRdmaRead (vf : BitVec 8) (rkey : BitVec 32) (off len : Nat) (s : State) : Host.Outcome State Fault Refusal :=
  .next (s.hostAccess vf 0 rkey off false [] len)

/-- Atomics are not supported (R390): a remote-invalid-request NAK. -/
def execRdmaAtomicRequest (vf : BitVec 8) (s : State) : Host.Outcome State Fault Refusal :=
  if s.boot != .none then .next s else .next { s with out := s.out ++ [OutMsg.rdmaInvalid vf] }

-- Host commands (R392) ------------------------------------------------------------------------------------------------

/-- The completion record of a command (R392). -/
def State.complete32 (s : State) (m : HostMsg) (status reason : Nat) (results : List Byte) : State :=
  { s with out := s.out ++ [OutMsg.completion m.vf (BitVec.ofNat 64 (fieldAt m.bytes 8 8)) (BitVec.ofNat 32 (fieldAt m.bytes 16 4))
      (padTo 4 (m.bytes.drop 4 |>.take 4) ++ padTo 2 (m.bytes.take 2) ++ [BitVec.ofNat 8 status, BitVec.ofNat 8 reason] ++ padTo 24 results)] }

/-- Whether some bytes are all zero. -/
def zeros (bs : List Byte) (o n : Nat) : Bool := ((bs.drop o).take n).all (fun b => b == 0)

/-- Whether the RDMA writes of a function's queue pair 1 that arrived before the access numbered `n`, and the image reads of its LOAD_PLANEs before
it, have been performed (R282, R392). -/
def State.hostReady (s : State) (vf : BitVec 8) (n : Nat) : Bool :=
  s.hostOps.all (fun h => h.vf != vf || h.qp != 1 || !(h.write || h.load.isSome) || decide (n ≤ h.no))

/-- The first command of a function that waits for its turn, with its number in arrival order (R392). -/
def State.firstWait (s : State) (vf : BitVec 8) : Option (HostMsg × Nat) := s.hostWait.find? (fun w => w.1.vf == vf)

/-- The state in which a command of a function is processed now; none while it must wait for earlier writes of its queue pair or earlier
commands (R282, R392). -/
def State.takeTurn (s : State) (m : HostMsg) : Option State :=
  match s.firstWait m.vf with
  | none => if s.hostReady m.vf s.nextHost then some s else none
  | some w => if w.1 == m && s.hostReady m.vf w.2 then some { s with hostWait := s.hostWait.erase w } else none

/-- What a command comes to before its own effect (R392): malformed, an unbound function or another partition, a state that does not
accept it, or the partition it acts on, in the state `s`. `ok` holds the fields that must be well formed. -/
def State.checkedCommand (s : State) (m : HostMsg) (code : Nat) (anyState : Bool) (ok : Bool) (f : State → BitVec 5 → State) : State :=
  if fieldAt m.bytes 0 2 != code || decide (m.bytes.length < 64) || decide (m.bytes.length > 64 + 4032) || !zeros m.bytes 2 2 || !ok then s.complete32 m 3 0 []
  else
    match s.vfPart m.vf with
    | none => s.complete32 m 2 0 []
    | some p => if anyState || (s.part p).state == .running then f s p else s.complete32 m 1 9 []

/-- A host command (R392): processed after the earlier writes and commands of its queue pair, for which it waits (R282). A message with another
command's code is not this command. -/
def State.hostCommand (s : State) (m : HostMsg) (code : Nat) (anyState : Bool) (ok : Bool) (f : State → BitVec 5 → State) : State :=
  let c := fieldAt m.bytes 0 2
  if s.boot != .none || (c != code && decide (1 ≤ c ∧ c ≤ 12)) then s
  else
    match s.takeTurn m with
    | some t => t.checkedCommand m code anyState ok f
    | none => { s with hostWait := s.hostWait ++ [(m, s.nextHost)], nextHost := s.nextHost + 1 }

/-- A field of a message: its number. -/
def msgNum (m : HostMsg) (o n : Nat) : Nat := fieldAt m.bytes o n
/-- The payload of a message. -/
def msgPayload (m : HostMsg) : List Byte := m.bytes.drop 64

/-- Whether bytes 20 to 23 are a rectangle (R393). -/
def rectOk (m : HostMsg) : Bool :=
  decide (msgNum m 20 1 ≤ msgNum m 22 1 ∧ msgNum m 22 1 ≤ 63 ∧ msgNum m 21 1 ≤ msgNum m 23 1 ∧ msgNum m 23 1 ≤ 31)
/-- The cores of the rectangle in ascending id. -/
def rectCores (m : HostMsg) : List CoreId :=
  allCores.filter (fun c => decide (msgNum m 20 1 ≤ coreX c ∧ coreX c ≤ msgNum m 22 1 ∧ msgNum m 21 1 ≤ coreY c ∧ coreY c ≤ msgNum m 23 1))

-- Plane loads (R88, R89, R300) ----------------------------------------------------------------------------------------

/-- ENCID of D2048-A1. -/
def encId : Nat := 0x5A1C03E977D2B4F0
/-- Bytes of a plane (R29). -/
def planeBytes : Nat := 98304

/-- The header walk (R89): offsets of the headers, over words from an offset; `skip` words belong to the bundle before. -/
def walkHeaders (off skip : Nat) : List (BitVec 32) → List Nat
  | [] => []
  | w :: rest => match skip with
    | 0 => off :: walkHeaders (off + 4) (bundleWords w - 1) rest
    | n + 1 => walkHeaders (off + 4) n rest

/-- Little-endian 32-bit words of bytes. -/
def words32 (bs : List Byte) : Nat → List (BitVec 32)
  | 0 => []
  | n + 1 => BitVec.ofNat 32 (leNat (bs.take 4)) :: words32 (bs.drop 4) n

/-- accept_plane (R89): the marks, or the reason of the refusal. -/
def acceptPlane (img : List Byte) : Except Nat (List Nat) :=
  let n := fieldAt img 0x15008 4
  if fieldAt img 0x15000 8 != encId then .error 1
  else if n == 0 || decide (n > 65536) || n % 4 != 0 then .error 2
  else if fieldAt img 0x1500C 4 != 0 || !zeros img 0x1501C 0x2FE4 then .error 4
  else
    let marks := walkHeaders 0 0 (words32 img (n / 4))
    if marks.contains (fieldAt img 0x15010 4) then .ok marks else .error 3

/-- The results of LOAD_PLANE (R392, Table 4). -/
def loadResults (l : PlaneLoad) (low : CoreId) : List Byte := bytesOf l.loaded 4 ++ bytesOf l.refused.length 4 ++ bytesOf low.toNat 2

/-- The refused core of the lowest id. -/
def lowestRefused (rs : List (CoreId × Nat)) : Option (CoreId × Nat) :=
  rs.foldl (fun b r => match b with | none => some r | some x => if r.1.ult x.1 then some r else some x) none

/-- Completes a LOAD_PLANE whose cores have all ended. -/
def State.endLoad (s : State) (l : PlaneLoad) : State :=
  if l.left != 0 then s
  else
    let s1 := { s with loads := s.loads.filter (fun (x : PlaneLoad) => x.id != l.id) }
    match lowestRefused l.refused with
    | none => s1.complete32 l.msg 0 0 (loadResults l 0)
    | some r => s1.complete32 l.msg 1 r.2 (loadResults l r.1)

/-- Replaces a LOAD_PLANE in progress and ends it when it is over. -/
def State.putLoad (s : State) (l : PlaneLoad) : State :=
  ({ s with loads := s.loads.map (fun (x : PlaneLoad) => if x.id = l.id then l else x) }).endLoad l

/-- Whether a partition accepts an image (R406): before LAUNCH any, then those of its catalogue. -/
def State.catalogued (s : State) (p : BitVec 5) (img : List Byte) : Bool :=
  (s.part p).measure.isNone || (s.part p).catalogue.contains (Config.sha384 img)

/-- The plane a load of a core writes: the shadow plane (R29, R300). -/
def Core.loadTarget (k : Core) : Bool := !k.act

/-- Starts the loads of an image on the cores of a rectangle (R300): SHRDY is cleared and the plane disarmed. -/
def State.beginLoad (s : State) (p : BitVec 5) (m : HostMsg) (img : List Byte) : State :=
  let id := s.nextLoad
  let start (acc : State × List (CoreId × Nat) × Nat) (c : CoreId) : State × List (CoreId × Nat) × Nat :=
    let k := acc.1.core c
    if k.swreq || k.loading.isSome then (acc.1, acc.2.1 ++ [(c, 5)], acc.2.2)
    else if !s.catalogued p img then (acc.1, acc.2.1 ++ [(c, 6)], acc.2.2)
    else (acc.1.setCore c { k.modPlane k.loadTarget (fun q => { q with armed := false }) with shrdy := false, loading := some (img, s.tnow, id) },
          acc.2.1, acc.2.2 + 1)
  let r := (rectCores m).foldl start (s, [], 0)
  let l : PlaneLoad := ⟨id, m, 0, r.2.1, r.2.2⟩
  ({ r.1 with loads := r.1.loads ++ [l], nextLoad := id + 1 }).endLoad l

/-- Ticks of the load of a plane (R300). -/
def loadTicks : Nat := 12288

/-- Whether a core's load is over. -/
def State.loadDue (s : State) (c : CoreId) : Bool :=
  match (s.core c).loading with | some (_, t, _) => decide ((s.tnow - t).toNat ≥ loadTicks) | none => false

/-- The load of a plane ends (R89, R300): the plane is written and checked, and the check decides SHRDY. A table armed during
the load is armed as it was loaded (R288). -/
def execPlaneLoadEnd (core : CoreId) (s : State) : Host.Outcome State Fault Refusal :=
  let k := s.core core
  match k.loading with
  | some (img, _, id) =>
    if !s.loadDue core then .next s
    else
      let r := acceptPlane img
      let marks := match r with | .ok ms => ms | .error _ => []
      let plane : Plane := ⟨Memory.cells 0 (img.take planeBytes), marks, false, []⟩
      let put (old : Plane) : Plane := if old.armed then plane.arm else plane
      let s1 := s.setCore core { k.modPlane k.loadTarget put with shrdy := r.isOk, loading := none }
      match s1.loads.find? (fun l => l.id == id) with
      | none => .next s1
      | some l =>
        match r with
        | .ok _ => .next (s1.putLoad { l with loaded := l.loaded + 1, left := l.left - 1 })
        | .error e => .next (s1.putLoad { l with refused := l.refused ++ [(core, e)], left := l.left - 1 })
  | none => .next s

/-- LOAD_PLANE (R300, R392, R393). An image in a handle is read as an engine reads it. -/
def execLoadPlane (m : HostMsg) (s : State) : Host.Outcome State Fault Refusal :=
  let src := msgNum m 24 1
  let ptr := BitVec.ofNat 64 (msgNum m 32 8)
  let ok := rectOk m && decide (src ≤ 1) && zeros m.bytes 25 3 && (src == 0 || zeros m.bytes 28 4 && tagOf ptr == 2) && zeros m.bytes 40 24
    && (msgPayload m).isEmpty
  .next (s.hostCommand m 1 true ok fun s p =>
    if !(rectCores m).all (s.ownsCore p) then s.complete32 m 2 0 []
    else if src = 0 then s.beginLoad p m (padTo planeBytes (m.fetched.take planeBytes))
    else
      let h := ptrHandle ptr
      if s.handleOkFor p h (offsetOf ptr) planeBytes .src && hSpace (s.handle p h) == 1 then
        { s with hostOps := s.hostOps ++ [⟨s.nextHost, m.vf, 1, p, h, hGen (s.handle p h), offsetOf ptr, false, [], planeBytes, 0, none, some m⟩],
                 nextHost := s.nextHost + 1 }
      else s.complete32 m 2 0 [])

-- Host accesses in progress -------------------------------------------------------------------------------------------

/-- A host access ends: acknowledged with its data, refused, or the load it reads for begins. -/
def State.endHostOp (s : State) (h : HostOp) (good : Bool) (data : List Byte) : State :=
  match h.load with
  | none => { s with out := s.out ++ [OutMsg.rdmaAck h.vf good data] }
  | some m => if good then s.beginLoad h.part m data else s.complete32 m 1 0 []

/-- One granule of a host access (R391): what becomes of it, none when it has ended. A fault record of one names core, opcode and class 0, since it
has no command (log 160). -/
def State.hostStep (s : State) (h : HostOp) : State × Option HostOp :=
  if h.pos ≥ h.len then (s.endHostOp h true h.data, none)
  else
    match s.holdNow h.why with
    | .still => (s, some h)
    | .page => ((s.dropFault h.why).endHostOp h false [], none)
    | .retry since =>
      let e := s.handle h.part h.handle
      if hGen e != h.gen then ((s.dropFault h.why).endHostOp h false [], none)
      else
        let pl := handlePlace h.part e (h.off + h.pos)
        let n := min (h.len - h.pos) (32 - pl.addr % 32)
        let held (s1 : State) (w : Holding) : State × Option HostOp :=
          ((s1.dropFault h.why).report w 0 0 0, some { h with why := some (match w.why with | .fault _ => .fault s1.nextFault | x => x) })
        if h.write then
          match s.writeBytes pl ((h.data.drop h.pos).take n) false since with
          | .ok s1 _ => (s1, some { h with pos := h.pos + n, why := none })
          | .stop s1 _ => ((s1.dropFault h.why).endHostOp h false [], none)
          | .hold s1 w => held s1 w
        else
          match s.readBytes pl n since with
          | .ok s1 r => if r.2 then (s1.endHostOp h false [], none) else (s1, some { h with pos := h.pos + n, data := h.data ++ r.1, why := none })
          | .stop s1 _ => ((s1.dropFault h.why).endHostOp h false [], none)
          | .hold s1 w => held s1 w

/-- Whether a host access waits for an earlier write of its queue pair, which reaches its home first (R282). -/
def behindWrite (before : List HostOp) (h : HostOp) : Bool := h.write && before.any (fun e => e.write && e.vf == h.vf && e.qp == h.qp)

/-- One tick of every host access that is not behind a write of its queue pair. -/
def State.hostTick (s : State) : State :=
  s.hostOps.foldl (fun s h =>
    if behindWrite s.hostOps h then { s with hostOps := s.hostOps ++ [h] }
    else
      let r := s.hostStep h
      { r.1 with hostOps := r.1.hostOps ++ r.2.toList }) { s with hostOps := [] }

-- Tide tables, semaphores, classes, rings -----------------------------------------------------------------------------

/-- Arms or disarms a tide table on a rectangle (R288, R393). -/
def State.tideCommand (s : State) (m : HostMsg) (code : Nat) (f : Plane → Plane) : State :=
  let ok := rectOk m && decide (msgNum m 24 1 ≤ 1) && zeros m.bytes 25 39 && (msgPayload m).isEmpty
  s.hostCommand m code false ok fun s p =>
    if !(rectCores m).all (s.ownsCore p) then s.complete32 m 2 0 []
    else
      ((rectCores m).foldl (fun s c => s.modCore c (fun k => k.modPlane (if msgNum m 24 1 = 1 then !k.act else k.act) f)) s).complete32 m 0 0 []

/-- ARM_TIDE (R288). -/
def execArmTide (m : HostMsg) (s : State) : Host.Outcome State Fault Refusal := .next (s.tideCommand m 2 Plane.arm)
/-- DISARM_TIDE (R288). -/
def execDisarmTide (m : HostMsg) (s : State) : Host.Outcome State Fault Refusal :=
  .next (s.tideCommand m 3 (fun p => { p with armed := false }))

/-- SEM_ADD (R392): a signed add under R23. -/
def execSemAdd (m : HostMsg) (s : State) : Host.Outcome State Fault Refusal :=
  let ok := decide (msgNum m 20 2 < 2048) && decide (msgNum m 22 1 < 64) && zeros m.bytes 23 1 && zeros m.bytes 28 36 && (msgPayload m).isEmpty
  let c : CoreId := BitVec.ofNat 11 (msgNum m 20 2)
  .next (s.hostCommand m 11 false ok fun s p =>
    if !s.ownsCore p c then s.complete32 m 2 0 []
    else (s.semAdd c (BitVec.ofNat 6 (msgNum m 22 1)) (BitVec.ofNat 32 (msgNum m 24 4)).toInt).complete32 m 0 0 [])

/-- SET_CLASS (R386): weights 1 to 255, for a partition created with its operator flag. -/
def execSetClass (m : HostMsg) (s : State) : Host.Outcome State Fault Refusal :=
  let w (i : Nat) : BitVec 8 := BitVec.ofNat 8 (msgNum m (20 + i) 1)
  let ok := (List.range 4).all (fun i => w i != 0) && zeros m.bytes 24 40 && (msgPayload m).isEmpty
  .next (s.hostCommand m 7 false ok fun s p =>
    if !bit (s.part p).flags 1 then s.complete32 m 2 0 [] else ({ s with wgt := #v[w 0, w 1, w 2, w 3] }).complete32 m 0 0 [])

/-- The entries of a ring table in the payload (R393). -/
def ringEntries (bs : List Byte) : List (BitVec 32) := words32 bs (bs.length / 4)

/-- Whether a table is one of RING 3 (R387): four members on this package, member b in basin b. -/
def State.basinRing (s : State) (es : List (BitVec 32)) : Bool :=
  es.length == 4 && (es.zip (List.range 4)).all (fun e => (fld e.1 0 21 : BitVec 21) == s.chip && coreBasin (fld e.1 21 11) == e.2)

/-- Whether a COLL of a partition runs. -/
def State.collRuns (s : State) (p : BitVec 5) : Bool :=
  allCores.any (fun c => (s.core c).part == p && (s.core c).queue.any (fun q => q.started && (match q.ins with | .coll _ => true | _ => false)))

/-- SET_RING (R387, R393). -/
def execSetRing (m : HostMsg) (s : State) : Host.Outcome State Fault Refusal :=
  let r := msgNum m 20 1
  let es := ringEntries (msgPayload m)
  let ok := decide (r ≤ 3) && zeros m.bytes 22 42 && (msgPayload m).length == 4 * (msgNum m 21 1 + 1) && (r != 3 || s.basinRing es)
  .next (s.hostCommand m 6 false ok fun s p =>
    if s.collRuns p then s.complete32 m 1 1 []
    else ({ s with ringTables := SMap.set [] s.ringTables (p.toNat * 4 + r) es }).complete32 m 0 0 [])

-- Handles and capabilities (R307, R310, R332) -------------------------------------------------------------------------

/-- The reserved bits of a handle entry and the fields of its space (R307, Tables 1 and 2). -/
def handleFormOk (e : BitVec 256) : Bool :=
  let aux := hAux e
  let low := fld e 4 4 == 0#4 && fld e 13 3 == 0#3 && fld e 21 11 == 0#11 && fld e 48 16 == 0#16
  let form :=
    match hSpace e with
    | 0 => true
    | 1 => aux == 0 && hBase e % 32 == 0
    | 2 => fld aux 21 3 == 0#3 && fld aux 29 1 == 0#1 && fld aux 31 33 == 0#33
             && (if bit aux 30 then (BitVec.ofNat 64 (hBase e)) &&& ~~~ 0x1F07FF#64 == 0 else hBase e % 32 == 0)
    | 3 => decide ((fld aux 0 8 : BitVec 8).toNat ≤ 191) && fld aux 8 24 == 0#24
    | 4 => fld aux 11 53 == 0#53
    | 5 => fld aux 11 53 == 0#53
    | 6 => aux == 0 && hBase e % 32 == 0
    | _ => false
  low && form

/-- Whether an entry names only what its partition owns (R391, R411). -/
def State.handleInside (s : State) (p : BitVec 5) (e : BitVec 256) : Bool :=
  match hSpace e with
  | 3 => s.vfPart (fld (hAux e) 0 8) == some p
  | 4 => s.ownsCore p (fld (hAux e) 0 11)
  | 5 => s.ownsCore p (fld (hAux e) 0 11)
  | _ => true

/-- Whether two ranges overlap. -/
def overlaps (a n b k : Nat) : Bool := decide (a < b + k) && decide (b < a + n) && decide (0 < n) && decide (0 < k)

/-- Whether a space-6 handle lies over the snapshot set or its buffer (R360). -/
def Part.overSet (p : Part) (e : BitVec 256) : Bool :=
  match p.snapset with
  | none => false
  | some t => hSpace e == 6 && (overlaps (hBase e) (hBound e) t.bufIa t.bufLen
      || t.ranges.any (fun r => !r.hold && overlaps (hBase e) (hBound e) r.base r.len))

/-- The bits of an entry that LAUNCH fixes: SPACE, RIGHTS, OWNER, BOUND (R406). -/
def fixedBits (e : BitVec 256) : Nat × BitVec 5 × BitVec 5 × Nat := (hSpace e, hRights e, hOwner e, hBound e)

/-- The firmware connects queue pair 0 of a function, the device's requester pair (R391). -/
def State.connect0 (s : State) (vf : Nat) : State :=
  let n := SMap.get .empty s.nets vf
  { s with nets := SMap.set .empty s.nets vf { n with pairs := n.pairs ||| 1 } }

/-- BIND_HANDLE (R310, R392, R393): the entry with its GEN advanced, an rkey, and the range registers that held it invalidated; a host handle
connects its function's requester pair (R391). -/
def execBindHandle (m : HostMsg) (s : State) : Host.Outcome State Fault Refusal :=
  let n := msgNum m 20 2
  let e : BitVec 256 := BitVec.ofNat 256 (msgNum m 24 32)
  let h : BitVec 12 := BitVec.ofNat 12 n
  let ok := decide (n < 4096) && zeros m.bytes 22 2 && zeros m.bytes 56 8 && handleFormOk e && (msgPayload m).isEmpty
  .next (s.hostCommand m 4 true ok fun s p =>
    let old := s.handle p h
    if hOwner e != p || !s.handleInside p e then s.complete32 m 2 0 []
    else if (s.part p).measure.isSome && fixedBits e != fixedBits old then s.complete32 m 1 7 []
    else if (s.part p).overSet e then s.complete32 m 1 8 []
    else
      let gen := hGen old + 1
      let e1 : BitVec 256 := (e &&& ~~~ (0xFFFF#256 <<< 32)) ||| (gen.setWidth 256 <<< 32)
      let key := Config.rkey s.nextKey
      let s1 : State := { s with
        handles := SMap.set 0 s.handles (p.toNat * 4096 + n) e1, rkeys := ⟨key, p, h⟩ :: s.rkeys, nextKey := s.nextKey + 1,
        cores := s.cores.map (fun k => if k.part == p && !k.ranges.isEmpty then { k with ranges := k.ranges.filter (fun r => r.1 != h) } else k) }
      (if hSpace e = 3 then s1.connect0 (fld (hAux e) 0 8).toNat else s1).complete32 m 0 0 (bytesOf key.toNat 4 ++ bytesOf gen.toNat 2))

/-- The reserved bits and field limits of a capability entry (R332, Table 2). -/
def capFormOk (e : BitVec 128) : Bool :=
  let base := (fld e 32 22 : BitVec 22).toNat
  let bound := (fld e 64 23 : BitVec 23).toNat
  fld e 3 13 == 0#13 && fld e 21 11 == 0#11 && fld e 54 10 == 0#10 && fld e 87 1 == 0#1 && fld e 105 7 == 0#7
    && (!bit e 0 || (base % 32 == 0 && bound % 32 == 0 && decide (bound ≥ 32)))

/-- SET_CAP (R332, R393). -/
def execSetCap (m : HostMsg) (s : State) : Host.Outcome State Fault Refusal :=
  let e : BitVec 128 := BitVec.ofNat 128 (msgNum m 24 16)
  let c : CoreId := BitVec.ofNat 11 (msgNum m 20 2)
  let ok := decide (msgNum m 20 2 < 2048) && decide (msgNum m 22 1 < 64) && zeros m.bytes 23 1 && zeros m.bytes 40 24 && capFormOk e && (msgPayload m).isEmpty
  .next (s.hostCommand m 5 false ok fun s p =>
    if !s.ownsCore p c || fld e 16 5 != p then s.complete32 m 2 0 []
    else
      let i : BitVec 6 := BitVec.ofNat 6 (msgNum m 22 1)
      let gen : BitVec 16 := (fld ((s.core c).caps[i.toNat]'(i.isLt)) 112 16) + 1
      let e1 : BitVec 128 := (e &&& ~~~ (0xFFFF#128 <<< 112)) ||| (gen.setWidth 128 <<< 112)
      (s.modCore c (fun k => { k with caps := k.caps.set i.toNat e1 i.isLt })).complete32 m 0 0 (bytesOf gen.toNat 2))

-- The snapshot set (R360) ---------------------------------------------------------------------------------------------

/-- Range i of the payload of SET_SNAPSET. -/
def rangeAt (bs : List Byte) (i : Nat) : SnapRange :=
  let o := 24 * i
  ⟨fieldAt bs o 1 == 1, BitVec.ofNat 11 (fieldAt bs (o + 2) 2), fieldAt bs (o + 8) 8, fieldAt bs (o + 16) 8⟩

/-- Whether range i is well formed. -/
def rangeFormOk (bs : List Byte) (i : Nat) : Bool :=
  let o := 24 * i
  decide (fieldAt bs o 1 ≤ 1) && zeros bs (o + 1) 1 && zeros bs (o + 4) 4
    && (if fieldAt bs o 1 = 1 then decide (fieldAt bs (o + 2) 2 < 2048) else fieldAt bs (o + 2) 2 == 0)

/-- Whether a partition owns every page of an IA range. -/
def State.ownsPages (s : State) (p : BitVec 5) (base len : Nat) : Bool :=
  base % 65536 == 0 && len % 65536 == 0 && decide (base + len ≤ 2 ^ 52)
    && (List.range (len / 65536)).all (fun i => let e := s.pageEntry (base + 65536 * i); e != 0 && pteOwner e == p)

/-- The context frames of a partition's cores. -/
def State.contextFrames (s : State) (p : BitVec 5) : List Nat := (s.coresOf p).flatMap (fun c => (s.core c).context)

/-- Whether a range overlaps a context area, the buffer, or a dredge result area of the partition. -/
def State.rangeClash (s : State) (p : BitVec 5) (r : SnapRange) (buf len : Nat) : Bool :=
  !r.hold && (overlaps r.base r.len buf len
    || (s.handles.any (fun e => e.1 / 4096 == p.toNat && hSpace e.2 == 6 && overlaps r.base r.len (hBase e.2) (hBound e.2)))
    || (let fs := s.contextFrames p; (List.range (r.len / 65536)).any (fun i => fs.contains (pteLoc (s.pageEntry (r.base + 65536 * i)) (r.base + 65536 * i) / 65536))))

/-- Whether a set of ranges is refused (R360). -/
def State.setRefused (s : State) (p : BitVec 5) (rs : List SnapRange) (buf len : Nat) : Bool :=
  !s.ownsPages p buf len || decide (len < 4194304)
    || rs.any (fun r => (if r.hold then !s.ownsCore p r.core || r.base % 2048 != 0 || r.len % 2048 != 0 || decide (r.base + r.len > 0x400000)
                         else !s.ownsPages p r.base r.len) || s.rangeClash p r buf len)
    || !rs.Pairwise (fun a b => (a.hold == b.hold && (!a.hold || a.core == b.core) && overlaps a.base a.len b.base b.len) = false)

/-- SET_SNAPSET (R360, R392, R393); a storage target connects its function's requester pair (R391). -/
def execSetSnapset (m : HostMsg) (s : State) : Host.Outcome State Fault Refusal :=
  let n := msgNum m 20 1
  let bs := msgPayload m
  let rs := (List.range n).map (rangeAt bs)
  let ok := decide (n ≤ 64) && decide (msgNum m 21 1 ≤ 191) && zeros m.bytes 22 2 && zeros m.bytes 28 4 && zeros m.bytes 56 8
    && bs.length == 24 * n && (List.range n).all (rangeFormOk bs)
  let vf : BitVec 8 := BitVec.ofNat 8 (msgNum m 21 1)
  .next (s.hostCommand m 8 false ok fun s p =>
    if (s.part p).cut.isSome || !(s.waitingSnaps p).isEmpty then s.complete32 m 1 1 []
    else if s.setRefused p rs (msgNum m 40 8) (msgNum m 48 8) then s.complete32 m 1 2 []
    else if s.vfPart vf != some p then s.complete32 m 1 3 []
    else
      let t : SnapSet := ⟨rs, msgNum m 40 8, msgNum m 48 8, vf, BitVec.ofNat 32 (msgNum m 24 4), BitVec.ofNat 64 (msgNum m 32 8)⟩
      ((s.modPart p (fun q => { q with snapset := some t })).connect0 vf.toNat).complete32 m 0 0 [])

/-- CANCEL_CUT (R363): the pending SNAPs complete with RECORD. -/
def execCancelCut (m : HostMsg) (s : State) : Host.Outcome State Fault Refusal :=
  .next (s.hostCommand m 9 false (zeros m.bytes 20 44 && (msgPayload m).isEmpty) fun s p =>
    (s.recordSnaps p (s.waitingSnaps p)).complete32 m 0 0 [])

-- Restore (R374) ------------------------------------------------------------------------------------------------------

/-- The entries of segments of a range from offset `off` on: range, length, offset. -/
def rangeSegments (i : Nat) (r : SnapRange) : List (Nat × Nat × Nat) :=
  (List.range r.segments).map (fun k => (i, min segmentMax (r.len - k * segmentMax), k * segmentMax))

/-- The segments of the image of a set (R371). -/
def setSegments (rs : List SnapRange) : List (Nat × Nat × Nat) := (rs.zip (List.range rs.length)).flatMap (fun r => rangeSegments r.2 r.1)

/-- Segment entry i of a manifest. -/
def manifestEntry (m : List Byte) (i : Nat) : List Byte := (m.drop (192 + 48 * i)).take 48
/-- Segment count of a manifest. -/
def manifestS (m : List Byte) : Nat := fieldAt m 136 8

/-- Whether the signatures of a manifest verify (R372, R374), the first under the alias key of its endorsement (R401). -/
def manifestSigned (m : List Byte) : Bool :=
  let n := 192 + 48 * manifestS m
  Config.ecdsaOk ((m.drop (n + 1708 + 64)).take 96) (m.take n) ((m.drop n).take 96) && Config.lmsOk (m.take (n + 1708 + 2220))

/-- Whether the segments of a manifest are those of a set. -/
def sameLayout (m : List Byte) (rs : List SnapRange) : Bool :=
  let es := setSegments rs
  manifestS m == es.length && fieldAt m 144 8 == (rs.map (fun r => r.len)).sum
    && (es.zip (List.range es.length)).all (fun e =>
      let t := manifestEntry m e.2
      fieldAt t 0 2 == e.1.1 && fieldAt t 4 4 == e.1.2.1 && fieldAt t 8 8 == e.1.2.2)

/-- Writes a run of restored bytes of a partition into 2 KiB parts of a hold or 64 KiB pages (R374), whose accesses are sampled (R320). -/
def State.writeRange (s : State) (p : BitVec 5) (r : SnapRange) (off : Nat) (data : List Byte) : State :=
  if r.hold then s.modCore r.core (fun k => { k with
      hold := k.hold.put (r.base + off) data,
      holdErr := k.holdErr.filter (fun e => decide (e.1 < (r.base + off) / 32) || decide (e.1 ≥ (r.base + off + data.length) / 32)) })
  else
    (List.range (data.length / 65536)).foldl (fun s i =>
      let ia := r.base + off + 65536 * i
      let loc := pteLoc (s.pageEntry ia) ia
      { s.sampleRun ia loc 65536 true p with hbm := s.hbm.put loc ((data.drop (65536 * i)).take 65536) }) s

/-- Opens and writes the segments from number i on; whether all their tags verified. -/
def State.restoreSegments (s : State) (p : BitVec 5) (rs : List SnapRange) (key m image : List Byte) : List ((Nat × Nat × Nat) × Nat) → State × Bool
  | [] => (s, true)
  | (e, i) :: rest =>
    let t := manifestEntry m i
    let cipher := (image.drop (fieldAt t 16 8)).take e.2.1
    match Config.gcmOpen key (segmentIv i) (m.take 64 ++ t.take 32) cipher (t.drop 32) with
    | none => (s, false)
    | some data =>
      match rs[e.1]? with
      | some r => (s.writeRange p r e.2.2 (padTo e.2.1 (data.take e.2.1))).restoreSegments p rs key m image rest
      | none => (s, false)

/-- The tenant of a partition as the harbourmaster knows it. -/
def State.tenantOf (s : State) (p : BitVec 5) : Tenant :=
  (s.harbour.tenants.find? (fun t => t.id == (s.part p).tenant)).getD ⟨(s.part p).tenant, none, 0, 0⟩

/-- Replaces what the harbourmaster knows of a tenant. -/
def State.setTenant (s : State) (t : Tenant) : State :=
  { s with harbour := { s.harbour with tenants := s.harbour.tenants.filter (fun (x : Tenant) => x.id != t.id) ++ [t] } }

/-- Whether every page of a set is there to be written. -/
def State.setMapped (s : State) (p : BitVec 5) (rs : List SnapRange) : Bool :=
  rs.all (fun r => r.hold || (List.range r.units).all (fun i => let e := s.pageEntry (r.base + 65536 * i); pteP e && pteOwner e == p))

/-- restore (R374) of a manifest and the image that follows it in storage. -/
def State.restoreImage (s : State) (p : BitVec 5) (m : List Byte) : Nat × State :=
  let rs := (s.part p).ranges
  let t := s.tenantOf p
  let c := fieldAt m 24 8
  if fieldAt m 0 4 != 0x4B445844 || fieldAt m 4 2 != 1 || !manifestSigned m then (1, s)
  else if (s.part p).state == .running || !sameLayout m rs || !s.setMapped p rs then (5, s)
  else
    match t.secret, (s.part p).measure with
    | some secret, some measure =>
      if (m.drop 32).take 48 != bytesOf measure.toNat 48 then (2, s)
      else if c < max t.committed.toNat t.insession.toNat then (3, s)
      else
        let key := Config.hkdf secret (bytesOf measure.toNat 48) (bytesBE c 8 ++ bytesBE (fieldAt m 8 8) 8) 32
        let es := setSegments rs
        let r := s.restoreSegments p rs key m m (es.zip (List.range es.length))
        if r.2 then
          (0, (r.1.setTenant { t with insession := BitVec.ofNat 64 (max t.insession.toNat c) }).modPart p (fun q =>
            { q with lastCut := some (BitVec.ofNat 32 (fieldAt m 16 4)), restoring := false }))
        else (4, r.1.modPart p (fun q => { q with restoring := true }))
    | _, _ => (2, s)

/-- RESTORE (R374, R392, R393), accepted in STOPPED only (R405). What the device reads from storage is `fetched`: the manifest at offset
0, the segments at their storage offsets. Where a cut of the partition is still draining, an image that would be written waits for the copies of
the marked granules (R367). -/
def execRestore (m : HostMsg) (s : State) : Host.Outcome State Fault Refusal :=
  let ok := decide (msgNum m 20 1 ≤ 191) && zeros m.bytes 21 3 && zeros m.bytes 28 4 && zeros m.bytes 40 24 && (msgPayload m).isEmpty
  .next (s.hostCommand m 10 true ok fun s p =>
    if (s.part p).state != .stopped then s.complete32 m 1 9 []
    else if s.vfPart (BitVec.ofNat 8 (msgNum m 20 1)) != some p then s.complete32 m 2 0 []
    else
      let r := s.restoreImage p m.fetched
      let left := if r.1 = 0 || r.1 = 4 then (s.part p).marksLeft else []
      if !left.isEmpty then
        let t := left.foldl (fun s g => s.askCopy p g) s
        { t with hostWait := (m, 0) :: t.hostWait }
      else if r.1 = 0 then r.2.complete32 m 0 0 [] else r.2.complete32 m 1 r.1 [])

-- READ_STATUS (R394) --------------------------------------------------------------------------------------------------

/-- The counters of a core: missed occurrences, lane conflicts, SLIP of the running task, fault records. -/
def coreCounters (k : Core) : List Byte :=
  bytesOf k.missed.toNat 8 ++ bytesOf k.laneConf.toNat 8 ++ bytesOf (if k.run == .idle then 0 else k.csr.slip.toNat) 8 ++ bytesOf k.faultRecs.toNat 8

/-- The counters of a torus port. -/
def portCounters (t : TorusPort) : List Byte :=
  bytesOf t.replays.toNat 8 ++ bytesOf t.bad.toNat 8 ++ bytesOf t.downs.toNat 8 ++ bytesOf t.resends.toNat 8

/-- The status block of a partition. -/
def State.statusBlock (s : State) (p : BitVec 5) : List Byte :=
  let cs := s.coresOf p
  let q := s.part p
  let body := cs.flatMap (fun c => coreCounters (s.core c))
    ++ bytesOf q.migrSlip.toNat 8 ++ bytesOf q.cpylBytes.toNat 8 ++ bytesOf q.collBytes.toNat 8 ++ bytesOf q.dryBytes.toNat 8
    ++ s.ports.toList.flatMap portCounters ++ bytesOf s.clock.status.toNat 8
  bytesOf (64 + body.length) 8 ++ bytesOf cs.length 2 ++ bytesOf 6 2 ++ List.replicate 52 0 ++ body

/-- READ_STATUS (R394): the block, cut at the maximum length named, goes to the host address. -/
def execReadStatus (m : HostMsg) (s : State) : Host.Outcome State Fault Refusal :=
  let max' := msgNum m 24 4
  let ok := decide (max' ≤ 65536) && zeros m.bytes 28 4 && zeros m.bytes 40 24 && (msgPayload m).isEmpty
  .next (s.hostCommand m 12 false ok fun s p =>
    let b := (s.statusBlock p).take max'
    ({ s with out := s.out ++ [OutMsg.status (BitVec.ofNat 64 (msgNum m 32 8)) (BitVec.ofNat 32 (msgNum m 20 4)) b] }).complete32 m 0 0 (bytesOf b.length 8))

-- Commands that waited ------------------------------------------------------------------------------------------------

/-- Processes a host command again by its code (R392). -/
def execHostMsg (m : HostMsg) (s : State) : Host.Outcome State Fault Refusal :=
  match fieldAt m.bytes 0 2 with
  | 2 => execArmTide m s | 3 => execDisarmTide m s | 4 => execBindHandle m s | 5 => execSetCap m s | 6 => execSetRing m s
  | 7 => execSetClass m s | 8 => execSetSnapset m s | 9 => execCancelCut m s | 10 => execRestore m s | 11 => execSemAdd m s
  | 12 => execReadStatus m s | _ => execLoadPlane m s

/-- The waiting commands whose turn has come (R282, R392). -/
def State.hostDue (s : State) : List HostMsg :=
  (s.hostWait.filter (fun w => s.firstWait w.1.vf == some w && s.hostReady w.1.vf w.2)).map (·.1)

end Sys2Proof.Machine
end

