-- ==== Sys2Proof/Machine/Security.lean ====
section
/-! DEFINITION. The harbourmaster's requests (R397-R412): partitions made, launched, stopped and destroyed, injection (R327), attestation,
the release of sealing secrets, counters, and the capability window (R419). -/
namespace Sys2Proof.Machine
open Sys2Proof

-- Requests and replies (R403, R412) -----------------------------------------------------------------------------------

/-- A field of a request: its number. -/
def reqNum (m : ReqMsg) (o n : Nat) : Nat := fieldAt m.bytes o n

/-- The reply (R412), signed by the alias key. -/
def State.replyReq (s : State) (m : ReqMsg) (status reason : Nat) (body : List Byte) : State :=
  let r := padTo 4 ((m.bytes.drop 4).take 4) ++ padTo 2 (m.bytes.take 2) ++ [BitVec.ofNat 8 status, BitVec.ofNat 8 reason] ++ List.replicate 56 0 ++ body
  { s with out := s.out ++ [OutMsg.reply m.vf (r ++ padTo 96 (aliasSign r))] }

/-- The codes of Table 8. -/
def reqCodes : List Nat := [0x101, 0x102, 0x103, 0x104, 0x105, 0x106, 0x110, 0x111, 0x112, 0x113]

/-- Whether the harbourmaster answers requests (R402, R414): after its own start. -/
def State.answers (s : State) : Bool := s.boot == .none || s.boot == .management

/-- What every request comes to before its own checks: another request's code is not this request; behind a CREATE or DESTROY that waits it is
taken later (log 146); a reserved code, a non-zero reserved byte, or `ok` false is malformed. -/
def State.request (s : State) (m : ReqMsg) (code : Nat) (ok : Bool) (f : State) : State :=
  let c := reqNum m 0 2
  if !s.answers || (c != code && reqCodes.contains c) then s
  else if s.harbour.busy.isSome then { s with harbour := { s.harbour with queue := s.harbour.queue ++ [m] } }
  else if c != code || decide (m.bytes.length < 64) || !zeros m.bytes 2 2 || !zeros m.bytes 8 56 || !ok then s.replyReq m 3 0 []
  else f

/-- Offset of the first field byte of an operator request (R412). -/
def opField : Nat := 120

/-- The authentication of an operator request of `n` field bytes (R403): signature, identity, sequence number. -/
def State.operatorOk (s : State) (m : ReqMsg) (n : Nat) : Bool :=
  Config.ecdsaOk s.harbour.operator (m.bytes.take (opField + n)) (m.bytes.drop (opField + n))
    && (m.bytes.drop 64).take 48 == padTo 48 packageIdentity && decide (reqNum m 112 8 > s.harbour.seq.toNat)

/-- An accepted operator request: its sequence number is the last one accepted. -/
def State.acceptSeq (s : State) (m : ReqMsg) : State := { s with harbour := { s.harbour with seq := BitVec.ofNat 64 (reqNum m 112 8) } }

/-- An operator request with `n` field bytes: authenticated (status 2), then refused with a reason or done. -/
def State.operatorRequest (s : State) (m : ReqMsg) (code n : Nat) (ok : Bool) (f : Except Nat (State × List Byte)) : State :=
  s.request m code (ok && m.bytes.length == opField + n + 96)
    (if !s.operatorOk m n then s.replyReq m 2 0 []
     else match f with
       | .error r => s.replyReq m 1 r []
       | .ok t => (t.1.acceptSeq m).replyReq m 0 0 t.2)

-- CREATE (R404) -------------------------------------------------------------------------------------------------------

/-- Frames of HBM: eight stacks of 48 GiB (Table 6 of R420). -/
def hbmFrames : Nat := 6291456

/-- A sweep with its trimmer registers and generators cleared (R404): what runs on is the work of the previous owner. -/
def Sweep.scrub (w : Sweep) : Sweep :=
  { w with threads := w.threads.map (fun t => { t with w := Vector.replicate 16 0, wp := Vector.replicate 16 0, c := Vector.replicate 8 0, cp := 0, gen := 0 }) }

/-- What clearing does to a core (R404 step 2): a plane that has been cleared is not ready (log 145). -/
def Core.scrub (k : Core) : Core :=
  { k with
    pend := [], buf := [], arrivals := [], releases := [], entering := none, notes := [], exits := [], shrdy := false, swreq := false,
    sp := .empty, hold := .empty, holdErr := [], mx := { Mx.reset with sticky := k.mx.sticky, act := k.mx.act, nextSeq := k.mx.nextSeq },
    planes := Vector.replicate 2 .empty, bank := ⟨Vector.replicate 8 0, 0, Vector.replicate 4 0⟩, sems := Vector.replicate 64 .reset,
    berths := Vector.replicate 32 .reset, spawnq := [], spawnAt := none, spawnSeq := 0, sweep := k.sweep.map Sweep.scrub, cache := [], ranges := [],
    caps := Vector.replicate 64 0 }

/-- Clears frames of HBM. -/
def PMem.clearFrames (m : PMem) (fs : List Nat) : PMem := fs.foldl (fun m f => m.splice (65536 * f) 65536 [] []) m

/-- Drops what the engines and the barrier network hold for some cores: collective chunks that have come or are on their way, or were given up, flits
on lanes, and the arrivals counted at barriers of these cores and, at level 3, of the groups `gs` (R411: nothing of them reaches a later owner). -/
def State.forgetCores (s : State) (cs : List CoreId) (gs : List (BitVec 16)) : State :=
  let here (op : FabOp) : Bool := match op.kind with | .chunk core _ => cs.contains core | _ => false
  let ours (key : Word) (l : Level) : Bool := if l == .l3 then gs.contains (fld key 0 16) else (domCores key).any cs.contains
  { s with
    chunks := s.chunks.filter (fun e => !cs.contains e.1), missed := s.missed.filter (fun e => !cs.contains e.1),
    flying := s.flying.filter (fun op => !here op), lanes := s.lanes.filter (fun f => !cs.contains f.src && !cs.contains f.dst),
    bars := s.bars.filter (fun b => !ours b.key b.level), l3 := s.l3.filter (fun e => !ours e.1 .l3) }

/-- Clears cores and frames and the handle table of a partition (R404 step 2). -/
def State.scrub (s : State) (p : BitVec 5) (cs : List CoreId) (fs : List Nat) : State :=
  let s1 := (cs.foldl (fun s c => s.modCore c Core.scrub) s).forgetCores cs (s.part p).groups
  { s1 with hbm := s1.hbm.clearFrames fs, handles := s1.handles.filter (fun e => e.1 / 4096 != p.toNat), rkeys := s1.rkeys.filter (fun k => k.part != p) }

/-- Cores of a quay mask in ascending id. -/
def maskCores (q : BitVec 32) : List CoreId := allCores.filter (fun c => bit q (coreQuay c))

/-- Inserts a frame into a rising list. -/
def sortFrames (fs : List Nat) : List Nat := fs.foldl (fun l f => insertNat f l) []

/-- Frames of a CREATE. -/
def createFrames (m : ReqMsg) : List Nat := (words32 (m.bytes.drop (opField + 284)) (reqNum m (opField + 276) 4)).map (·.toNat)

/-- The virtual functions of a mask of 24 bytes. -/
def maskVfs (bs : List Byte) : List Nat := (List.range 192).filter (fun f => bit (bs.getD (f / 8) 0) (f % 8))

/-- Number of quays of a mask. -/
def quayCount (q : BitVec 32) : Nat := ((List.range 32).filter (fun i => bit q i)).length

/-- The fields of CREATE that are refused (R404, Table 5). -/
def State.createRefused (s : State) (p : BitVec 5) (q : BitVec 32) (vfs fs : List Nat) : Bool :=
  (s.part p).state != .none || q == 0 || q &&& ~~~ s.quays != 0
    || allParts.any (fun r => (s.part r).state != .none && (s.part r).quays &&& q != 0)
    || vfs.any (fun f => SMap.get 0 s.vfs f != 0)
    || fs.any (fun f => decide (f ≥ hbmFrames) || SMap.get 0 s.frames f != 0) || (sortFrames fs).length != fs.length
    || decide (fs.length < 704 * quayCount q)

/-- Clears the injectors of the mesh ports of some cores, of the stacks and of the torus ports (R404 step 6). -/
def clearInjectors (m : SMap Injector) (cs : List CoreId) : SMap Injector :=
  m.filter (fun e => decide (e.1 ≥ 64) && !cs.contains (BitVec.ofNat 11 ((e.1 - 64) / 8)))

/-- Whether no engine operation or trimmer sweep remains on some cores (R404 step 2). -/
def State.quiet (s : State) (cs : List CoreId) : Bool := cs.all (fun c => (s.core c).queue.isEmpty && (s.core c).sweep.isNone)

/-- Steps 1 and 2 of CREATE (R404): the frame map, and clearing. -/
def State.clearPart (s : State) (p : BitVec 5) (q : BitVec 32) (fs : List Nat) : State :=
  ({ s with frames := fs.foldl (fun (t : SMap Nat) i => SMap.set 0 t i (p.toNat + 1)) s.frames }).scrub p (maskCores q) fs

/-- Steps 3 to 6 of CREATE (R404): the partition is open. -/
def State.makePart (s : State) (p : BitVec 5) (m : ReqMsg) (q : BitVec 32) (vfs fs : List Nat) : State :=
  let f := opField
  let cs := maskCores q
  let sorted := sortFrames fs
  let s2 := (cs.zip (List.range cs.length)).foldl (fun s e =>
    s.modCore e.1 (fun k => { k with part := p, context := (sorted.drop (11 * e.2)).take 11, inj := 0 })) s
  let old := s.part p
  let tenant : Word := BitVec.ofNat 64 (reqNum m (f + 32) 8)
  let part : Part := { Part.empty with
    state := .open_, flags := BitVec.ofNat 8 (reqNum m (f + 1) 1), quays := q, vfs := vfs, tenant := tenant,
    kskey := (m.bytes.drop (f + 48)).take 96,
    groups := (List.range (reqNum m (f + 144) 1)).map (fun i => BitVec.ofNat 16 (reqNum m (f + 148 + 2 * i) 2)),
    faultmax := BitVec.ofNat 64 (reqNum m (f + 40) 8), frames := sorted,
    migrSlip := old.migrSlip, cpylBytes := old.cpylBytes, collBytes := old.collBytes, dryBytes := old.dryBytes }
  let s3 := { s2.modPart p (fun _ => part) with
    vfs := vfs.foldl (fun (t : SMap Nat) v => SMap.set 0 t v (p.toNat + 1)) s2.vfs, inj := clearInjectors s2.inj cs }
  if s3.harbour.tenants.any (fun t => t.id == tenant) then s3 else s3.setTenant ⟨tenant, none, 0, 0⟩

/-- The partition a request names. -/
def reqPart (m : ReqMsg) : BitVec 5 := BitVec.ofNat 5 (reqNum m opField 1)
/-- The quay mask of a CREATE. -/
def createQuays (m : ReqMsg) : BitVec 32 := BitVec.ofNat 32 (reqNum m (opField + 4) 4)
/-- The virtual functions of a CREATE. -/
def createVfs (m : ReqMsg) : List Nat := maskVfs ((m.bytes.drop (opField + 8)).take 24)

/-- DESTROY at last (R407): page-table entries and frames of the partition lose their owner (log 145), its functions are unbound, its tenant is
forgotten with its last partition. -/
def State.dropPart (s2 : State) (p : BitVec 5) : State :=
  let q := s2.part p
  let s3 := { s2.modPart p (fun _ => { Part.empty with migrSlip := q.migrSlip, cpylBytes := q.cpylBytes, collBytes := q.collBytes, dryBytes := q.dryBytes }) with
    pages := s2.pages.filter (fun e => pteOwner e.2 != p),
    handles := s2.handles.filter (fun e => e.1 / 4096 != p.toNat), rkeys := s2.rkeys.filter (fun k => k.part != p),
    frames := q.frames.foldl (fun (t : SMap Nat) i => SMap.set 0 t i 0) s2.frames,
    vfs := q.vfs.foldl (fun (t : SMap Nat) v => SMap.set 0 t v 0) s2.vfs,
    faults := s2.faults.filter (fun f => f.part != p),
    loads := s2.loads.filter (fun (l : PlaneLoad) => s2.vfPart l.msg.vf != some p) }
  if allParts.any (fun r => (s3.part r).state != .none && (s3.part r).tenant == q.tenant) then s3
  else s3.setTenant { s3.harbour.tenants.find? (fun t => t.id == q.tenant) |>.getD ⟨q.tenant, none, 0, 0⟩ with secret := none, insession := 0 }

/-- The cores whose engine work the harbourmaster waits for in a request. -/
def State.busyCores (s : State) (m : ReqMsg) : List CoreId :=
  if reqNum m 0 2 = 0x101 then maskCores (createQuays m) else s.coresOf (reqPart m)

/-- What a CREATE or DESTROY does once the engine work is over, and its reply. -/
def State.endRequest (s : State) (m : ReqMsg) : State :=
  (if reqNum m 0 2 = 0x101 then s.makePart (reqPart m) m (createQuays m) (createVfs m) (createFrames m) else s.dropPart (reqPart m)).replyReq m 0 0 []

/-- A CREATE or DESTROY that waits goes on when no engine work remains (R404). -/
def State.harbourDone (s : State) : State :=
  match s.harbour.busy with
  | some m => if s.quiet (s.busyCores m) then { s with harbour := { s.harbour with busy := none } }.endRequest m else s
  | none => s

/-- An operator request that may wait for engine work to end (R404, R407). -/
def State.operatorStart (s : State) (m : ReqMsg) (code n : Nat) (ok : Bool) (f : Except Nat State) : State :=
  s.request m code (ok && m.bytes.length == opField + n + 96)
    (if !s.operatorOk m n then s.replyReq m 2 0 []
     else match f with
       | .error r => s.replyReq m 1 r []
       | .ok t => (let u := t.acceptSeq m; { u with harbour := { u.harbour with busy := some m } }).harbourDone)

/-- CREATE (R404, R412): every field is checked, then it acts, and waits for engine work of a previous owner on the named cores; refused while
the management image does not run (R414). -/
def execCreate (m : ReqMsg) (s : State) : Host.Outcome State Fault Refusal :=
  let f := opField
  let n := reqNum m (f + 276) 4
  let p := reqPart m
  let q := createQuays m
  let fs := createFrames m
  let ng := reqNum m (f + 144) 1
  let ok := decide (reqNum m f 1 < 32) && decide (reqNum m (f + 1) 1 < 4) && zeros m.bytes (f + 2) 2 && decide (ng ≤ 64) && zeros m.bytes (f + 145) 3
    && zeros m.bytes (f + 148 + 2 * ng) (128 - 2 * ng) && zeros m.bytes (f + 280) 4
  .next (s.operatorStart m 0x101 (284 + 4 * n) ok
    (if s.boot == .management || s.createRefused p q (createVfs m) fs then .error 0 else .ok (s.clearPart p q fs)))

-- LAUNCH (R406) -------------------------------------------------------------------------------------------------------

/-- A digest before another in ascending byte order. -/
def digestLe (a b : BitVec 384) : Bool := decide (leNat (bytesOf a.toNat 48).reverse ≤ leNat (bytesOf b.toNat 48).reverse)

/-- Inserts a digest in ascending byte order. -/
def insertDigest (d : BitVec 384) : List (BitVec 384) → List (BitVec 384)
  | [] => [d]
  | e :: rest => if digestLe d e then d :: e :: rest else e :: insertDigest d rest

/-- The catalogue of a LAUNCH, sorted. -/
def launchDigests (m : ReqMsg) : List (BitVec 384) :=
  (List.range (reqNum m (opField + 4) 4)).foldl (fun l i => insertDigest (BitVec.ofNat 384 (reqNum m (opField + 8 + 48 * i) 48)) l) []

/-- The handle table as measured: BASE and AUX[63:32] zero (R406). -/
def State.measuredHandles (s : State) (p : BitVec 5) : List Byte :=
  (List.range 4096).flatMap (fun h =>
    bytesOf (s.handle p (BitVec.ofNat 12 h) &&& ~~~ ((0xFFFFFFFFFFFFFFFF#256 <<< 64) ||| (0xFFFFFFFF#256 <<< 224))).toNat 32)

/-- The tenant measurement (R406). -/
def State.measurement (s : State) (p : BitVec 5) (ds : List (BitVec 384)) : BitVec 384 :=
  Config.sha384 ([0x4E, 0x4D, 0x53, 0x52] ++ bytesOf ds.length 4 ++ ds.flatMap (fun d => bytesOf d.toNat 48)
    ++ bytesOf (Config.sha384 (s.measuredHandles p)).toNat 48 ++ bytesOf (quayCount (s.part p).quays) 4)

/-- LAUNCH (R405, R406): refused with reason 8 until FLOCK (R415), and outside OPEN. -/
def execLaunch (m : ReqMsg) (s : State) : Host.Outcome State Fault Refusal :=
  let f := opField
  let n := reqNum m (f + 4) 4
  let p : BitVec 5 := BitVec.ofNat 5 (reqNum m f 1)
  let ok := decide (reqNum m f 1 < 32) && decide (reqNum m (f + 1) 1 ≤ 1) && zeros m.bytes (f + 2) 2 && decide (1 ≤ n ∧ n ≤ 64)
  let ds := launchDigests m
  let d := s.measurement p ds
  .next (s.operatorRequest m 0x102 (8 + 48 * n) ok
    (if !s.clock.flock then .error 8
     else if (s.part p).state != .open_ then .error 9
     else .ok ({ s.modPart p (fun q => { q with
          state := if reqNum m (f + 1) 1 = 1 then .stopped else .running, catalogue := ds, measure := some d }) with
        clock := { s.clock with launched := true } }, bytesOf d.toNat 48)))

-- STOP, RESUME, DESTROY (R405, R407) ----------------------------------------------------------------------------------

/-- The running task of a core is abandoned by STOP (R14, R405), when writes on their way no longer wait for copies (R191). -/
def State.stopTask (s : State) (c : CoreId) : State :=
  let k := s.core c
  if k.run == .idle then s
  else match k.run with
    | .resuming _ => s.modCore c (fun k => { k with run := .idle })
    | _ =>
      let s1 := s.postRecord c (.abandoned c Config.stopCause k.pc k.csr.epc k.csr.cause)
      let final : Entering := { code := 0, slot := 0, detail := 0, epc := 0, faddr := 0, drop := true }
      if s1.landHeld c then s1.modCore c (fun k => { k with entering := some final, bundle := none, freeze := none, bubble := false, landing := none })
      else s1.dropTask c

/-- A core stops (R405): its tasks end as abandoned, with their records, spawned entries are discarded with their weight, tide tables are
disarmed. -/
def State.stopCore (s : State) (c : CoreId) : State :=
  let s1 := s.stopTask c
  let s2 := match (s.core c).suspended with
    | some u =>
      let m := s1.contextArea c
      let w (o : Nat) : Word := BitVec.ofNat 64 (m.readNat o 8)
      ((s1.postRecord c (.abandoned c Config.stopCause (w 0x380 &&& 0xFFFF) (w 0x210) (w 0x208))).abortAll c 0xFFFF (fun q => q.task == u.task)).modCore c
        (fun k => { k with suspended := none })
    | none => s1
  s2.modCore c (fun k => { k with spawnq := [], spawnAt := none, planes := k.planes.map (fun p => { p with armed := false }) })

/-- A partition stops. -/
def State.stopPart (s : State) (p : BitVec 5) : State :=
  ((s.coresOf p).foldl (fun s c => s.stopCore c) s).modPart p (fun q => { q with state := .stopped })

/-- The fields of STOP, RESUME and DESTROY. -/
def simpleOk (m : ReqMsg) : Bool := decide (reqNum m opField 1 < 32) && zeros m.bytes (opField + 1) 7

/-- STOP (R405), of a RUNNING partition. -/
def execStop (m : ReqMsg) (s : State) : Host.Outcome State Fault Refusal :=
  let p : BitVec 5 := BitVec.ofNat 5 (reqNum m opField 1)
  .next (s.operatorRequest m 0x103 8 (simpleOk m)
    (if (s.part p).state != .running then .error 9 else .ok (s.stopPart p, [])))

/-- RESUME (R405), of a STOPPED partition that no failed restore left half written (R374). -/
def execResume (m : ReqMsg) (s : State) : Host.Outcome State Fault Refusal :=
  let p : BitVec 5 := BitVec.ofNat 5 (reqNum m opField 1)
  .next (s.operatorRequest m 0x104 8 (simpleOk m)
    (if (s.part p).state != .stopped then .error 9
     else if (s.part p).restoring then .error 0
     else .ok (s.modPart p (fun q => { q with state := .running }), [])))

/-- The engine commands of a core are aborted, its sweep is stopped with ABORTED, its SNAPs completed with RECORD (R407); a task whose writes
still wait for copies ends without them. -/
def State.abortCore (s : State) (c : CoreId) : State :=
  let s0 := if (s.core c).entering.isSome then (s.modCore c (fun k => { k with pend := [] })).dropTask c else s
  let s1 := s0.abortAll c 0xFFFF (fun _ => true)
  (s1.core c).queue.foldl (fun s q => if isSnap q.ins then s.complete c q.id .record else s) s1

/-- DESTROY acts up to its clearing (R407): as STOP, aborting the engine operations of the partition's cores. -/
def State.destroyPart (s : State) (p : BitVec 5) : State :=
  let cs := s.coresOf p
  let s1 := cs.foldl (fun s c => (s.abortCore c).modCore c (fun k => { k with loading := none })) (s.stopPart p)
  (s1.scrub p cs (s.part p).frames).modPart p (fun q => { q with cut := none })

/-- DESTROY (R407), in every state of a partition. -/
def execDestroy (m : ReqMsg) (s : State) : Host.Outcome State Fault Refusal :=
  .next (s.operatorStart m 0x105 8 (simpleOk m)
    (if (s.part (reqPart m)).state == .none then .error 9 else .ok (s.destroyPart (reqPart m))))

-- INJECT (R327) -------------------------------------------------------------------------------------------------------

/-- Whether every partition of the package was created with TEST (R326). -/
def State.allTest (s : State) : Bool := allParts.all (fun p => (s.part p).state == .none || bit (s.part p).flags 0)

/-- The configuration of an injector with a new RATE, KIND, targets and EN; COUNT stays. -/
def injConfig (old : Word) (m : ReqMsg) (targets : BitVec 5) : Word :=
  let f := opField
  let b3 : BitVec 8 := BitVec.ofNat 8 (reqNum m (f + 3) 1)
  BitVec.ofNat 32 (reqNum m (f + 8) 4) ++ (fld old 16 16 : BitVec 16) ++ 0#8 ++ (fld b3 0 2 : BitVec 2) ++ targets ++ (fld b3 2 1 : BitVec 1)

/-- The seed of a request, 0 read as 1. -/
def injSeed (m : ReqMsg) : Word := let v : Word := BitVec.ofNat 64 (reqNum m (opField + 16) 8); if v = 0 then 1 else v

/-- Sets an injector of a stack or of a port for the partition of the request (R327). -/
def State.setInjector (s : State) (m : ReqMsg) (key : Nat) : State :=
  { s with inj := SMap.set ⟨0, 0, 0⟩ s.inj key ⟨injConfig (s.injector key).cfg m 0, injSeed m, reqPart m⟩ }

/-- The directions a request names. -/
def injDirs (m : ReqMsg) : List Bool := match reqNum m (opField + 2) 1 with | 0 => [false] | 1 => [true] | _ => [false, true]

/-- The effect of INJECT. -/
def State.injectSet (s : State) (m : ReqMsg) : State :=
  let f := opField
  let i := reqNum m (f + 4) 2
  match reqNum m (f + 1) 1 with
  | 0 =>
    let c : CoreId := BitVec.ofNat 11 i
    let b7 : BitVec 8 := BitVec.ofNat 8 (reqNum m (f + 7) 1)
    let s1 := s.modCore c (fun k => { k with inj := injConfig k.inj m (fld b7 0 5), gen := injSeed m })
    if bit b7 4 then [0, 1, 2, 3].foldl (fun s n => (s.setInjector m (injMesh c n false)).setInjector m (injMesh c n true)) s1 else s1
  | 1 => s.setInjector m (injStack i)
  | 2 => (injDirs m).foldl (fun s d => s.setInjector m (injPort i d)) s
  | _ => (injDirs m).foldl (fun s d => s.setInjector m (injMesh (BitVec.ofNat 11 i) (reqNum m (f + 6) 1) d)) s

/-- Whether the fields of INJECT are in range (R327). -/
def injectFormOk (m : ReqMsg) : Bool :=
  let f := opField
  let kind := reqNum m (f + 1) 1
  let dir := reqNum m (f + 2) 1
  let i := reqNum m (f + 4) 2
  let port := reqNum m (f + 6) 1
  let b7 := reqNum m (f + 7) 1
  decide (reqNum m f 1 < 32) && decide (kind ≤ 3) && (if kind < 2 then dir == 0 else decide (dir ≤ 2)) && decide (reqNum m (f + 3) 1 < 8)
    && reqNum m (f + 3) 1 % 4 != 3
    && (match kind with | 1 => decide (i < 8) | 2 => decide (i < 6) | _ => decide (i < 2048))
    && (if kind = 3 then decide (port ≤ 3) else port == 0) && (if kind = 0 then decide (b7 < 32) else b7 == 0) && zeros m.bytes (f + 12) 4

/-- INJECT (R327): refused without TEST, for what the partition does not own, and for a link unless every partition has TEST. -/
def execInject (m : ReqMsg) (s : State) : Host.Outcome State Fault Refusal :=
  let f := opField
  let p : BitVec 5 := BitVec.ofNat 5 (reqNum m f 1)
  let kind := reqNum m (f + 1) 1
  let c : CoreId := BitVec.ofNat 11 (reqNum m (f + 4) 2)
  let link := decide (kind ≥ 2) || (kind == 0 && (BitVec.ofNat 8 (reqNum m (f + 7) 1) : BitVec 8).getLsbD 4)
  let owns := if kind = 0 || kind = 3 then s.ownsCore p c else true
  .next (s.operatorRequest m 0x106 24 (injectFormOk m)
    (if (s.part p).state == .none || !bit (s.part p).flags 0 || !owns || (link && !s.allTest) then .error 0 else .ok (s.injectSet m, [])))

-- ATTEST, RELEASE, COMMIT, CAPS (R408-R410, R419) ---------------------------------------------------------------------

/-- The code of a state in a report. -/
def partCode (p : PartState) : Nat := match p with | .running => 2 | .stopped => 1 | _ => 0

/-- Bytes 0 to 447 of a report (R408, Table 6). -/
def State.reportBody (s : State) (p : BitVec 5) (nonce : List Byte) : List Byte :=
  let q := s.part p
  bytesOf 0x41545354 4 ++ bytesOf 1 4 ++ padTo 48 nonce ++ bytesOf (q.measure.getD 0).toNat 48 ++ padTo 48 packageIdentity
    ++ padTo 48 imageDigests.1 ++ padTo 48 imageDigests.2
    ++ bytesOf securityVersions.1.toNat 4 ++ bytesOf securityVersions.2.toNat 4
    ++ bytesOf (Config.sha384 s.harbour.operator).toNat 48 ++ bytesOf q.tenant.toNat 8 ++ bytesOf (s.tenantOf p).insession.toNat 8
    ++ [BitVec.ofNat 8 p.toNat, BitVec.ofNat 8 (partCode q.state), q.flags, 0] ++ padTo 96 (Config.ephemeralKey s.harbour.keys) ++ List.replicate 28 0

/-- ATTEST (R408): the report with its signatures and the endorsement block; its ephemeral key is made. -/
def execAttest (m : ReqMsg) (s : State) : Host.Outcome State Fault Refusal :=
  let p : BitVec 5 := BitVec.ofNat 5 (reqNum m 64 1)
  let nonce := (m.bytes.drop 72).take 48
  let ok := decide (reqNum m 64 1 < 32) && zeros m.bytes 65 7 && m.bytes.length == 120
  let body := s.reportBody p nonce
  let signed := body ++ padTo 96 (aliasSign body)
  let report := signed ++ padTo 1612 (Config.lmsSign s.harbour.trees body) ++ endorsement s.harbour.trees s.harbour.tree (s.harbour.endorsed.map (·.toNat))
  .next (s.request m 0x110 ok
    (if (s.part p).state == .none then s.replyReq m 1 0 []
     else ({ s with harbour := { s.harbour.signOnce with
        reports := s.harbour.reports ++ [(⟨nonce, p, s.harbour.keys, s.tnow⟩ : Report)], keys := s.harbour.keys + 1 } }).replyReq m 0 0 report))

/-- RELEASE (R409): the sealing secret for a report of the partition, its ephemeral key unused, within 2^32 ticks. -/
def execRelease (m : ReqMsg) (s : State) : Host.Outcome State Fault Refusal :=
  let p : BitVec 5 := BitVec.ofNat 5 (reqNum m 64 1)
  let field (o n : Nat) := (m.bytes.drop (64 + o)).take n
  let nonce := field 8 48
  let ok := decide (reqNum m 64 1 < 32) && zeros m.bytes 65 7 && m.bytes.length == 64 + 320
  .next (s.request m 0x111 ok
    (if (s.part p).state == .none || !Config.ecdsaOk (s.part p).kskey (m.bytes.take (64 + 224)) (field 224 96) then s.replyReq m 2 0 []
     else match s.harbour.reports.find? (fun r => r.nonce == nonce && r.part == p) with
       | none => s.replyReq m 1 0 []
       | some r =>
         if (s.tnow - r.made).toNat > 2 ^ 32 then s.replyReq m 1 0 []
         else
           let s1 : State := { s with harbour := { s.harbour with reports := s.harbour.reports.filter (fun (x : Report) => x.key != r.key) } }
           let key := Config.hkdf (Config.ecdhShared r.key (field 56 96)) nonce [0x53, 0x45, 0x41, 0x4C] 32
           match Config.gcmOpen key Config.releaseIv.1 Config.releaseIv.2 (field 152 56) (field 208 16) with
           | none => s1.replyReq m 1 0 []
           | some data =>
             let t := s1.tenantOf p
             let known : Tenant := ⟨t.id, some (padTo 48 (data.take 48)), BitVec.ofNat 64 (max t.insession.toNat (fieldAt data 48 8)), t.committed⟩
             (s1.setTenant known).replyReq m 0 0 []))

/-- COMMIT (R410): the committed value is the greatest so far. -/
def execCommit (m : ReqMsg) (s : State) : Host.Outcome State Fault Refusal :=
  let id : Word := BitVec.ofNat 64 (reqNum m 64 8)
  let c := reqNum m 72 8
  let signed := allParts.any (fun p => (s.part p).state != .none && (s.part p).tenant == id
    && Config.ecdsaOk (s.part p).kskey (m.bytes.take 80) ((m.bytes.drop 80).take 96))
  .next (s.request m 0x112 (m.bytes.length == 176)
    (if !signed then s.replyReq m 2 0 []
     else
       let t := (s.harbour.tenants.find? (fun t => t.id == id)).getD ⟨id, none, 0, 0⟩
       (s.setTenant ⟨t.id, t.secret, t.insession, BitVec.ofNat 64 (max t.committed.toNat c)⟩).replyReq m 0 0 []))

/-- CAPS (R419): the capability window. -/
def execCaps (m : ReqMsg) (s : State) : Host.Outcome State Fault Refusal :=
  .next (s.request m 0x113 (m.bytes.length == 64) (s.replyReq m 0 0 (padTo 4096 s.window)))

-- Requests that waited (R404, log 146) ----------------------------------------------------------------------------------

/-- Takes a request by its code. -/
def execReqMsg (m : ReqMsg) (s : State) : Host.Outcome State Fault Refusal :=
  match reqNum m 0 2 with
  | 0x102 => execLaunch m s | 0x103 => execStop m s | 0x104 => execResume m s | 0x105 => execDestroy m s | 0x106 => execInject m s
  | 0x110 => execAttest m s | 0x111 => execRelease m s | 0x112 => execCommit m s | 0x113 => execCaps m s | _ => execCreate m s

/-- A tick of the harbourmaster: what it waits for, and the requests to be taken once it is free. -/
def State.harbourTick (s : State) : State × List ReqMsg :=
  let t := s.harbourDone
  if t.harbour.busy.isSome then (t, []) else ({ t with harbour := { t.harbour with queue := [] } }, t.harbour.queue)

end Sys2Proof.Machine
end

