-- ==== Sys2Proof/Machine/Boot.lean ====
section
/-! DEFINITION. Reset (R413, R414) and the power and thermal limits (R416, R417). -/
namespace Sys2Proof.Machine
open Sys2Proof

-- Power (R416, R417) --------------------------------------------------------------------------------------------------

/-- The steal level of a basin: what the controller set, raised while hot, at least 48 under throttle, 63 at 110 °C (R416, R417). -/
def Power.level (p : Power) (b : Nat) : Nat :=
  let n := min 63 ((p.steal.toList.getD b 0).toNat + p.heat.toNat)
  let n1 := if p.throttle then max n 48 else n
  if p.hot110 then 63 else n1

/-- Whether a level steals the cycle at a tick: TNOW mod 64 is floor(64k/n) for some k below n (R416). -/
def stolenAt (n : Nat) (now : Word) : Bool := (List.range n).any (fun k => 64 * k / n == now.toNat % 64)

/-- Whether a core loses this cycle. -/
def State.stolen (s : State) (c : CoreId) : Bool := stolenAt (s.power.level (coreBasin c)) s.tnow

/-- Whether this is the first tick of a 64-tick window, before any core has had its turn (R416): a discipline step or a load of TNOW may pass the
multiple of 64. -/
def State.windowOpens (s : State) : Bool :=
  s.turn == .core 0 && (s.tnow.toNat % 64 == 0 || s.tnow.toNat / 64 != s.power.window)

/-- The power controller of a basin sets its steal level at a window boundary (R416). While a junction is hot what the level has been raised to
overrides a lower one (R417). -/
def execStealWindow (basin : BitVec 2) (n : BitVec 6) (s : State) : Host.Outcome State Fault Refusal :=
  if !s.windowOpens then .next s
  else
    let old : BitVec 6 := s.power.steal[basin.toNat]'(basin.isLt)
    let v : BitVec 6 := if s.power.hot then BitVec.ofNat 6 (max old.toNat (n.toNat - s.power.heat.toNat)) else n
    .next { s with power := { s.power with steal := s.power.steal.set basin.toNat v basin.isLt } }

/-- What a window boundary does while a junction is hot: 8 more (R417). -/
def Power.raise (p : Power) : Power := if p.hot then { p with heat := if p.heat.toNat ≥ 55 then 63 else p.heat + 8 } else p

/-- The machine after reset, with what lies outside the part kept: events, acts and choices to come, what has been sent, host and peer memories, the
leaf and operator records of boot flash (R400, R413), the board's place in the pod, the other packages' ports, its quays and hbmStacks; and the
numbers of the true random generator's draws (log 153). -/
def State.afterReset (s : State) : State :=
  { State.reset with
    agenda := s.agenda, orders := s.orders, choices := s.choices, out := s.sentOut, gone := s.sentOut.length, hostMem := s.hostMem, peerMem := s.peerMem, chip := s.chip,
    rings := s.rings, farDown := s.farDown, quays := s.quays, hbmStacks := s.hbmStacks,
    window := windowOf s.quays s.hbmStacks Power.reset.pcap securityVersions, capbase := s.capbase,
    harbour := { Harbour.reset with leaf := s.harbour.leaf, operator := s.harbour.operator, keys := s.harbour.keys,
                                      trees := s.harbour.trees } }

/-- The package once its power is removed (R417): what the firmware had set or been told is gone too. -/
def State.powerRemoved (s : State) : State :=
  { s.afterReset with rings := State.reset.rings, farDown := [], power := { Power.reset with on := false } }

/-- A core whose memories no reset sequence has cleared (R414 step 4): idle, with what they held. -/
def Core.uncleared (k : Core) : Core :=
  { Core.reset with
    sp := k.sp, hold := k.hold, holdErr := k.holdErr, mx := { Mx.reset with acc := k.mx.acc, w0 := k.mx.w0, w1 := k.mx.w1 },
    planes := k.planes.map (fun p => { p with armed := false, occ := [] }), sems := k.sems, berths := k.berths, caps := k.caps }

/-- A reset sequence that stopped before it cleared the memories and tables leaves them as they were (R414). -/
def State.uncleared (t s : State) : State :=
  { t with hbm := s.hbm, frames := s.frames, handles := s.handles, cores := s.cores.map Core.uncleared }

/-- A thermal condition (R417, Table 3). -/
def execThermalResponse (t : Thermal) (s : State) : Host.Outcome State Fault Refusal :=
  match t with
  | .hot100 => .next { s with power := { s.power with hot := true } }
  | .throttle on => .next { s with power := { s.power with throttle := on } }
  | .hot110 => .next { s with power := { s.power with hot := true, hot110 := true }, fw := s.fw ++ [.hot110] }
  | .hot120 => .next s.powerRemoved
  | .coolant => .next s.powerRemoved
  | .cool98 => .next { s with power := { s.power with hot := false, hot110 := false, heat := 0 } }

-- Reset (R414) --------------------------------------------------------------------------------------------------------

/-- Whether the reset sequence came as far as the per-boot key of the harbourmaster (R401). -/
def bootKeyed (b : BootStop) : Bool := match b with | .none | .management | .hbm => true | _ => false

/-- The step at which the reset sequence stops (R402, R414, Table 2): the first that fails, of the hardware (`stop`: the PLL, the check digest of
the UDS, what only the harbourmaster sees in a manifest, HBM training) or because an image of boot flash is refused. -/
def bootStop (stop : BootStop) : BootStop :=
  match stop with
  | .pll => .pll
  | .rom => .rom
  | stop =>
    if !imageOk 1 Config.harbourImage then .rom
    else match stop with
      | .manifest => .manifest
      | stop =>
        if !imageOk 3 Config.boardManifest then .manifest
        else match stop with
          | .hbm => .hbm
          | stop => if stop == .management || !imageOk 2 Config.managementImage then .management else .none

/-- Whether the reset sequence has cleared memories and tables (R414 step 4). -/
def bootCleared (b : BootStop) : Bool := match b with | .none | .management => true | _ => false

/-- The machine after a reset sequence that came as far as `b` (R414): at a stop nothing after it is done, and the links stay down; the per-boot
tree is endorsed with the next leaf (R400, R401). -/
def State.booted (s : State) (b : BootStop) : State :=
  let r := if bootCleared b then s.afterReset else s.afterReset.uncleared s
  let r1 := if bootKeyed b then { r with harbour := { r.harbour with trees := r.harbour.trees + 1 }.endorse } else { r with harbour := { r.harbour with endorsed := none } }
  if b = .none then r1 else { r1 with boot := b, ports := r1.ports.map (fun t => { t with up := false }) }

/-- Reset (R414, Table 2). -/
def execReset (stop : BootStop) (s : State) : Host.Outcome State Fault Refusal := .next (s.booted (bootStop stop))

end Sys2Proof.Machine
end

