-- ==== Sys2Proof/Machine/Phase.lean ====
section
/-! DEFINITION. Buffer phases (R253, R254): the record at PHBASE, its checks, its snapshot, and the three PHASE operations. -/
namespace Sys2Proof.Machine
open Sys2Proof

-- The record (R253, Table 4) ------------------------------------------------------------------------------------------

/-- SEL. -/
def phSel (r : List Byte) : Word := BitVec.ofNat 64 (fieldAt r 0 8)
/-- NREG. -/
def phNreg (r : List Byte) : Nat := fieldAt r 8 1
/-- NIN. -/
def phNin (r : List Byte) : Nat := fieldAt r 9 1
/-- CMASK. -/
def phCmask (r : List Byte) : BitVec 16 := BitVec.ofNat 16 (fieldAt r 10 2)
/-- Source record pointer of input j. -/
def phSrc (r : List Byte) (j : Nat) : Word := BitVec.ofNat 64 (fieldAt r (80 + 24 * j) 8)
/-- Destination record pointer of input j. -/
def phDst (r : List Byte) (j : Nat) : Word := BitVec.ofNat 64 (fieldAt r (88 + 24 * j) 8)

/-- Bytes of the record, its snapshot included. -/
def phaseBytes : Nat := 640

/-- The checks of input j: its pointers under item 4 of R198, semaphore and class; the reserved bytes of every input. -/
def inputBad (r : List Byte) (j : Nat) : List (Nat × Bool) :=
  let o := 80 + 24 * j
  (if j < phNin r then
    [(o, (structFault (phSrc r j) 192 32).isSome), (o + 8, (structFault (phDst r j) 192 32).isSome),
     (o + 16, decide (fieldAt r (o + 16) 1 > 63)), (o + 17, decide (fieldAt r (o + 17) 1 > 15))] else [])
    ++ reservedBad r (o + 18) 6

/-- The first failing field of the record (R253). -/
def phaseBad (r : List Byte) : Option Nat :=
  firstBad ([(8, decide (phNreg r > 4)), (9, decide (phNin r > 2)), (10, phCmask r == 0)] ++ reservedBad r 12 4
    ++ (List.range 4).flatMap (fun i => reservedBad r (28 + 16 * i) 4) ++ inputBad r 0 ++ inputBad r 1)

/-- The record as read at PHBASE, and the fault of its pointer, of poison in its first `n` bytes, and of its contents. -/
def Core.phaseRecord (k : Core) (n : Nat) : List Byte × Option SlotFault :=
  let p := k.csr.phbase
  match structFault p phaseBytes 32 with
  | some f => ([], some f)
  | none =>
    let u := k.afterDraws .pad (granList (offsetOf p) n)
    let r := u.viewRun false (offsetOf p) phaseBytes
    if (u.viewRun false (offsetOf p) n).2 then (r.1, some (fltAt 0x08 p)) else (r.1, recordFault p (phaseBad r.1))

/-- The draws of the read of the record's first `n` bytes (R326). -/
def Core.phaseDraws (k : Core) (n : Nat) : List Action := k.readDraws .pad (granList (offsetOf k.csr.phbase) n)

/-- The snapshot of BEGIN (R253): X, P with all poison, K, and eight CSRs, at their values at issue. -/
def Core.phaseSnapshot (k : Core) : List Byte :=
  let xs := (List.range 32).flatMap (fun i => bytesOf (k.readX (BitVec.ofNat 5 i)).val.toNat 8)
  let r := k.csr
  let ps := [BitVec.ofNat 8 (k.regs.p.toNat ||| 1), k.regs.pp &&& 0xFE] ++ List.replicate 6 0
    ++ bytesOf (k.regs.xp &&& 0xFFFFFFFE).toNat 4 ++ [k.regs.kp &&& 0xFE] ++ List.replicate 51 0
  let ks := (List.range 8).flatMap (fun i => bytesOf (k.readK (BitVec.ofNat 3 i)).toNat 16)
  xs ++ ps ++ ks ++ bytesOf r.lc[0].toNat 8 ++ bytesOf r.lc[1].toNat 8 ++ bytesOf r.le[0].toNat 8 ++ bytesOf r.le[1].toNat 8
    ++ bytesOf r.ardom.toNat 8 ++ bytesOf r.fpmode.toNat 8 ++ bytesOf r.bndmode.toNat 8 ++ bytesOf r.srseed.toNat 8

/-- The stores of whole granules at a scratchpad offset that is a multiple of 32. -/
def storeRun (off : Nat) (bs : List Byte) : List Action :=
  (List.range (bs.length / 32)).map (fun i =>
    .store false (off / 32 + i) (BitVec.ofNat 256 (fieldAt bs (32 * i) 32)) (BitVec.allOnes 32) (some false) 0)

-- PHASE (R254) --------------------------------------------------------------------------------------------------------

/-- The effects of BEGIN: the phase opens at this bundle, and the snapshot is stored (R254). -/
def Core.beginPhase (k : Core) : List Action :=
  .phase (some (k.pc, k.nextCmd)) :: storeRun (offsetOf k.csr.phbase + 128) k.phaseSnapshot

/-- PHASE BEGIN (R254): the record is read and checked in the first cycle the bundle could issue (R253). -/
def execPhaseBegin (c : Ctl) (s : State) : Host.Outcome State Fault Refusal :=
  .next (s.slot c (some 1) (fun k =>
    match k.first.bind (·.phase) with
    | some w => .ok (.looked w :: k.beginPhase)
    | none =>
      let r := k.phaseRecord 128
      orFault [if k.csr.hm then some (flt 0x03) else none, if k.csr.pha then some (fltAt 0x01 0x0A0) else none, r.2]
        (.ok (.looked (.phase (phCmask r.1) r.1) :: k.phaseDraws 128 ++ k.beginPhase))))

/-- Faults of COMMIT and ABORT before they wait: the mode, no open phase, the record. -/
def Core.phaseCheck (k : Core) (n : Nat) : Option SlotFault :=
  if k.csr.hm then some (flt 0x03) else if !k.csr.pha then some (flt 0x01) else (k.phaseRecord n).2

/-- The effects of COMMIT: SEL toggles, the phase ends (R254). -/
def Core.commitPhase (k : Core) (r : List Byte) : List Action :=
  let v := phSel r ^^^ BitVec.ofNat 64 (2 ^ phNreg r - 1)
  [storeAction false (offsetOf k.csr.phbase) 8 ⟨v, false⟩ 0, .phase none]

/-- PHASE COMMIT (R254): the record is read in the first cycle the bundle could issue (R253). -/
def execPhaseCommit (c : Ctl) (s : State) : Host.Outcome State Fault Refusal :=
  .next (s.slot c (some 1) (fun k =>
    match k.first.bind (·.phase) with
    | some (.phase m r) => if k.phaseBusy m then .wait (.phase m r) else .ok (.looked (.phase m r) :: k.commitPhase r)
    | _ =>
      match k.phaseCheck 128 with
      | some f => .early f
      | none =>
        let r := (k.phaseRecord 128).1
        let w : Wait := .phase (phCmask r) r
        if k.phaseBusy (phCmask r) then .wait w else .ok (.looked w :: k.phaseDraws 128 ++ k.commitPhase r)))

/-- Input copy j as a CPYT captures it (R200), with the fault its issue would raise (R198, R210). -/
def Core.phaseCopy (k : Core) (r : List Byte) (j : Nat) : Cmd × Option SlotFault :=
  let o := 80 + 24 * j
  let cp : CP := { ctl := ⟨.cp, 0, false⟩, xs := 0, xd := 0, sem := BitVec.ofNat 6 (fieldAt r (o + 16) 1),
                   cls := BitVec.ofNat 4 (fieldAt r (o + 17) 1), bcl := 0 }
  let regs : CpRegs := ⟨⟨phSrc r j, false⟩, ⟨0, false⟩, ⟨phDst r j, false⟩, ⟨0, false⟩⟩
  let g := k.copyForm (phSrc r j) (phDst r j)
  (g.fill (k.newCmd cp (.cpyt cp) regs), g.checks.findSome? id)

/-- The effects of ABORT (R254): registers and CSRs of the snapshot, the recorded copies issued with their records cached, the phase
over, and control at the BEGIN bundle. -/
def Core.abortPhase (k : Core) (r : List Byte) (qs : List Cmd) : List Action :=
  let cached (q : Cmd) : List Action := [.cacheInstall q.xs (q.blocks.getD 0 []), .cacheInstall q.xd (q.blocks.getD 1 [])]
  [.snapRestore (r.drop 128)] ++ qs.flatMap (fun q => cached q ++ [.command q])
    ++ [.phase none, .transfer ((k.phase.map (·.1)).getD k.pc)]

/-- Whether ABORT still waits: for its phase's commands, and for room for its copies. -/
def Core.abortWaits (k : Core) (m : BitVec 16) (qs : List Cmd) : Bool := k.phaseBusy m || decide (k.queue.length + qs.length > 32)

/-- PHASE ABORT (R254). -/
def execPhaseAbort (c : Ctl) (s : State) : Host.Outcome State Fault Refusal :=
  .next (s.slot c (some 1) (fun k =>
    match k.first.bind (·.phase) with
    | some (.phaseAbort m r qs) => if k.abortWaits m qs then .wait (.phaseAbort m r qs) else .ok (.looked (.phaseAbort m r qs) :: k.abortPhase r qs)
    | _ =>
      match k.phaseCheck phaseBytes with
      | some f => .early f
      | none =>
        let r := (k.phaseRecord phaseBytes).1
        let cs := (List.range (phNin r)).map (k.phaseCopy r)
        match cs.findSome? (fun x => x.2) with
        | some f => .early f
        | none =>
          let qs := cs.map (fun x => x.1)
          let w : Wait := .phaseAbort (phCmask r) r qs
          if k.abortWaits (phCmask r) qs then .wait w else .ok (.looked w :: k.phaseDraws phaseBytes ++ k.abortPhase r qs)))

end Sys2Proof.Machine
end

