-- ==== Sys2Proof/Machine/Dispatch.lean ====
section
/-! DEFINITION. One arm per constructor of Instr: the instruction's meaning. -/
namespace Sys2Proof.Machine
open Sys2Proof

def exec (i : Instr) (s : State) : Host.Outcome State Fault Refusal :=
  match i with
  | .headerOnlyBundle dp => Sys2Proof.Machine.execHeaderOnlyBundle dp s
  | .nop c => Sys2Proof.Machine.execNop c s
  | .alu c fn xd xa xb => Sys2Proof.Machine.execAlu c fn xd xa xb s
  | .muldiv c fn xd xa xb => Sys2Proof.Machine.execMuldiv c fn xd xa xb s
  | .sel c xd pn xa xb => Sys2Proof.Machine.execSel c xd pn xa xb s
  | .addi c xd xa imm => Sys2Proof.Machine.execAddi c xd xa imm s
  | .andi c xd xa imm => Sys2Proof.Machine.execAndi c xd xa imm s
  | .ori c xd xa imm => Sys2Proof.Machine.execOri c xd xa imm s
  | .xori c xd xa imm => Sys2Proof.Machine.execXori c xd xa imm s
  | .shli c w xd xa n => Sys2Proof.Machine.execShli c w xd xa n s
  | .shri c w xd xa n => Sys2Proof.Machine.execShri c w xd xa n s
  | .sari c w xd xa n => Sys2Proof.Machine.execSari c w xd xa n s
  | .bfx c xd xa pos lenM1 => Sys2Proof.Machine.execBfx c xd xa pos lenM1 s
  | .bfxs c xd xa pos lenM1 => Sys2Proof.Machine.execBfxs c xd xa pos lenM1 s
  | .bfi c xd xa pos lenM1 => Sys2Proof.Machine.execBfi c xd xa pos lenM1 s
  | .movi c xd imm => Sys2Proof.Machine.execMovi c xd imm s
  | .movk c xd imm h => Sys2Proof.Machine.execMovk c xd imm h s
  | .movl c xd imm => Sys2Proof.Machine.execMovl c xd imm s
  | .cmp c cond sz pt pf xa xb => Sys2Proof.Machine.execCmp c cond sz pt pf xa xb s
  | .cmpi c cond pt pf xa imm => Sys2Proof.Machine.execCmpi c cond pt pf xa imm s
  | .plog c pd pa pb tt => Sys2Proof.Machine.execPlog c pd pa pb tt s
  | .pmov c form => Sys2Proof.Machine.execPmov c form s
  | .ld c sz xd xb cls off => Sys2Proof.Machine.execLd c sz xd xb cls off s
  | .st c sz xd xb cls off => Sys2Proof.Machine.execSt c sz xd xb cls off s
  | .ldx c sz xd xa xb cls => Sys2Proof.Machine.execLdx c sz xd xa xb cls s
  | .stx c sz xd xa xb cls => Sys2Proof.Machine.execStx c sz xd xa xb cls s
  | .hld c sz xd xb cls off => Sys2Proof.Machine.execHld c sz xd xb cls off s
  | .hst c sz xd xb cls off => Sys2Proof.Machine.execHst c sz xd xb cls off s
  | .tagset c xd xa t => Sys2Proof.Machine.execTagset c xd xa t s
  | .tagchk c xd xa xb m => Sys2Proof.Machine.execTagchk c xd xa xb m s
  | .klog c kd ka kb tt => Sys2Proof.Machine.execKlog c kd ka kb tt s
  | .kmov c form => Sys2Proof.Machine.execKmov c form s
  | .kpop c fn xd ka => Sys2Proof.Machine.execKpop c fn xd ka s
  | .semadd c n xa imm => Sys2Proof.Machine.execSemadd c n xa imm s
  | .semwait c n xa dec chk => Sys2Proof.Machine.execSemwait c n xa dec chk s
  | .semrd c xd n clr => Sys2Proof.Machine.execSemrd c xd n clr s
  | .fence c mask => Sys2Proof.Machine.execFence c mask s
  | .fenceWait c mask => Sys2Proof.Machine.execFenceWait c mask s
  | .br c disp => Sys2Proof.Machine.execBr c disp s
  | .call c disp => Sys2Proof.Machine.execCall c disp s
  | .jmpr c xd xa => Sys2Proof.Machine.execJmpr c xd xa s
  | .loop c n xa disp => Sys2Proof.Machine.execLoop c n xa disp s
  | .csrr c xd a => Sys2Proof.Machine.execCsrr c xd a s
  | .csrw c a xa => Sys2Proof.Machine.execCsrw c a xa s
  | .csrx c xd a xa => Sys2Proof.Machine.execCsrx c xd a xa s
  | .domWrite c l xa => Sys2Proof.Machine.execDomWrite c l xa s
  | .trap c code => Sys2Proof.Machine.execTrap c code s
  | .eret c => Sys2Proof.Machine.execEret c s
  | .brk c code => Sys2Proof.Machine.execBrk c code s
  | .land c n => Sys2Proof.Machine.execLand c n s
  | .berthArm c n xa xb => Sys2Proof.Machine.execBerthArm c n xa xb s
  | .berthTag c n xb => Sys2Proof.Machine.execBerthTag c n xb s
  | .berthOff c n => Sys2Proof.Machine.execBerthOff c n s
  | .tick c fn xd => Sys2Proof.Machine.execTick c fn xd s
  | .waitt c rel xa => Sys2Proof.Machine.execWaitt c rel xa s
  | .domarv c l => Sys2Proof.Machine.execDomarv c l s
  | .domwait c l => Sys2Proof.Machine.execDomwait c l s
  | .spawn c xd xa xb => Sys2Proof.Machine.execSpawn c xd xa xb s
  | .exit c => Sys2Proof.Machine.execExit c s
  | .exitWeightAdd core => Sys2Proof.Machine.execExitWeightAdd core s
  | .phaseBegin c => Sys2Proof.Machine.execPhaseBegin c s
  | .phaseCommit c => Sys2Proof.Machine.execPhaseCommit c s
  | .phaseAbort c => Sys2Proof.Machine.execPhaseAbort c s
  | .plswap c => Sys2Proof.Machine.execPlswap c s
  | .plswapCancel c => Sys2Proof.Machine.execPlswapCancel c s
  | .vadd o => Sys2Proof.Machine.execVadd o s
  | .vsub o => Sys2Proof.Machine.execVsub o s
  | .vmul o => Sys2Proof.Machine.execVmul o s
  | .vfma o => Sys2Proof.Machine.execVfma o s
  | .vfms o => Sys2Proof.Machine.execVfms o s
  | .vmin o => Sys2Proof.Machine.execVmin o s
  | .vmax o => Sys2Proof.Machine.execVmax o s
  | .vminn o => Sys2Proof.Machine.execVminn o s
  | .vmaxn o => Sys2Proof.Machine.execVmaxn o s
  | .vabs o => Sys2Proof.Machine.execVabs o s
  | .vneg o => Sys2Proof.Machine.execVneg o s
  | .vadds o => Sys2Proof.Machine.execVadds o s
  | .vsubs o => Sys2Proof.Machine.execVsubs o s
  | .vmulh o => Sys2Proof.Machine.execVmulh o s
  | .vclmp o => Sys2Proof.Machine.execVclmp o s
  | .vand o => Sys2Proof.Machine.execVand o s
  | .vor o => Sys2Proof.Machine.execVor o s
  | .vxor o => Sys2Proof.Machine.execVxor o s
  | .vshl o => Sys2Proof.Machine.execVshl o s
  | .vshr o => Sys2Proof.Machine.execVshr o s
  | .vsar o => Sys2Proof.Machine.execVsar o s
  | .vshli o => Sys2Proof.Machine.execVshli o s
  | .vshri o => Sys2Proof.Machine.execVshri o s
  | .vsari o => Sys2Proof.Machine.execVsari o s
  | .vaddx o => Sys2Proof.Machine.execVaddx o s
  | .vmulx o => Sys2Proof.Machine.execVmulx o s
  | .vfmax o => Sys2Proof.Machine.execVfmax o s
  | .vbcst o => Sys2Proof.Machine.execVbcst o s
  | .vext o => Sys2Proof.Machine.execVext o s
  | .vcmp o => Sys2Proof.Machine.execVcmp o s
  | .vsel o => Sys2Proof.Machine.execVsel o s
  | .vcvt o => Sys2Proof.Machine.execVcvt o s
  | .vqnt o => Sys2Proof.Machine.execVqnt o s
  | .vdqnt o => Sys2Proof.Machine.execVdqnt o s
  | .vpk6 o => Sys2Proof.Machine.execVpk6 o s
  | .vupk6 o => Sys2Proof.Machine.execVupk6 o s
  | .vpk4 o => Sys2Proof.Machine.execVpk4 o s
  | .vupk4 o => Sys2Proof.Machine.execVupk4 o s
  | .vl2f o => Sys2Proof.Machine.execVl2f o s
  | .vf2l o => Sys2Proof.Machine.execVf2l o s
  | .vrcp o => Sys2Proof.Machine.execVrcp o s
  | .vrsq o => Sys2Proof.Machine.execVrsq o s
  | .vsqrt o => Sys2Proof.Machine.execVsqrt o s
  | .vexp2 o => Sys2Proof.Machine.execVexp2 o s
  | .vlog2 o => Sys2Proof.Machine.execVlog2 o s
  | .vexp o => Sys2Proof.Machine.execVexp o s
  | .vln o => Sys2Proof.Machine.execVln o s
  | .vsin o => Sys2Proof.Machine.execVsin o s
  | .vcos o => Sys2Proof.Machine.execVcos o s
  | .vtanh o => Sys2Proof.Machine.execVtanh o s
  | .vsigm o => Sys2Proof.Machine.execVsigm o s
  | .vgelu o => Sys2Proof.Machine.execVgelu o s
  | .vperm o => Sys2Proof.Machine.execVperm o s
  | .vshuf o => Sys2Proof.Machine.execVshuf o s
  | .vred o => Sys2Proof.Machine.execVred o s
  | .vld o => Sys2Proof.Machine.execVld o s
  | .vst o => Sys2Proof.Machine.execVst o s
  | .vlds o => Sys2Proof.Machine.execVlds o s
  | .vsts o => Sys2Proof.Machine.execVsts o s
  | .vgth o => Sys2Proof.Machine.execVgth o s
  | .vsct o => Sys2Proof.Machine.execVsct o s
  | .vacr o => Sys2Proof.Machine.execVacr o s
  | .vacw o => Sys2Proof.Machine.execVacw o s
  | .mcfg o => Sys2Proof.Machine.execMcfg o s
  | .mtbl o t => Sys2Proof.Machine.execMtbl o t s
  | .mwld o fix => Sys2Proof.Machine.execMwld o fix s
  | .mwlds o ef => Sys2Proof.Machine.execMwlds o ef s
  | .mwswap o => Sys2Proof.Machine.execMwswap o s
  | .mstrm o z => Sys2Proof.Machine.execMstrm o z s
  | .mstrma o z => Sys2Proof.Machine.execMstrma o z s
  | .mstrmh o z => Sys2Proof.Machine.execMstrmh o z s
  | .mdrn o clr => Sys2Proof.Machine.execMdrn o clr s
  | .mdrnh o clr => Sys2Proof.Machine.execMdrnh o clr s
  | .mclr o => Sys2Proof.Machine.execMclr o s
  | .mhpsh o => Sys2Proof.Machine.execMhpsh o s
  | .mhcnt o => Sys2Proof.Machine.execMhcnt o s
  | .mgateOn o ret => Sys2Proof.Machine.execMgateOn o ret s
  | .mgateOff o => Sys2Proof.Machine.execMgateOff o s
  | .msave o nr => Sys2Proof.Machine.execMsave o nr s
  | .mrest o nr => Sys2Proof.Machine.execMrest o nr s
  | .mstat o clr => Sys2Proof.Machine.execMstat o clr s
  | .msync o => Sys2Proof.Machine.execMsync o s
  | .mxQueuedStart core => Sys2Proof.Machine.execMxQueuedStart core s
  | .streamRowEntry core => Sys2Proof.Machine.execStreamRowEntry core s
  | .resultLanding core idx => Sys2Proof.Machine.execResultLanding core idx s
  | .drainBoundTrap core => Sys2Proof.Machine.execDrainBoundTrap core s
  | .gateTakesEffect core => Sys2Proof.Machine.execGateTakesEffect core s
  | .wakeEnd core => Sys2Proof.Machine.execWakeEnd core s
  | .cpyt o => Sys2Proof.Machine.execCpyt o s
  | .cpyl o => Sys2Proof.Machine.execCpyl o s
  | .cpylBerth o => Sys2Proof.Machine.execCpylBerth o s
  | .mcast o => Sys2Proof.Machine.execMcast o s
  | .gthr o => Sys2Proof.Machine.execGthr o s
  | .send o sig => Sys2Proof.Machine.execSend o sig s
  | .sends o => Sys2Proof.Machine.execSends o s
  | .semr o => Sys2Proof.Machine.execSemr o s
  | .fwr o => Sys2Proof.Machine.execFwr o s
  | .fwrBerth o => Sys2Proof.Machine.execFwrBerth o s
  | .ffaa o => Sys2Proof.Machine.execFfaa o s
  | .fflg o => Sys2Proof.Machine.execFflg o s
  | .fflgAdd o => Sys2Proof.Machine.execFflgAdd o s
  | .coll o => Sys2Proof.Machine.execColl o s
  | .drg o => Sys2Proof.Machine.execDrg o s
  | .migr o => Sys2Proof.Machine.execMigr o s
  | .migrRemap o => Sys2Proof.Machine.execMigrRemap o s
  | .migrPageExchange core q => Sys2Proof.Machine.execMigrPageExchange core q s
  | .snap o level => Sys2Proof.Machine.execSnap o level s
  | .snapSeal o level => Sys2Proof.Machine.execSnapSeal o level s
  | .trim o => Sys2Proof.Machine.execTrim o s
  | .rcf o => Sys2Proof.Machine.execRcf o s
  | .cpab o => Sys2Proof.Machine.execCpab o s
  | .engineQueueEntryFree core => Sys2Proof.Machine.execEngineQueueEntryFree core s
  | .commandStart core q => Sys2Proof.Machine.execCommandStart core q s
  | .commandCompletion core q => Sys2Proof.Machine.execCommandCompletion core q s
  | .deliveryAcceptance core q target => Sys2Proof.Machine.execDeliveryAcceptance core q target s
  | .laneFlitInject core q => Sys2Proof.Machine.execLaneFlitInject core q s
  | .collChunkArrival op => Sys2Proof.Machine.execCollChunkArrival op s
  | .collHopTimeout core q => Sys2Proof.Machine.execCollHopTimeout core q s
  | .waitSatisfied core => Sys2Proof.Machine.execWaitSatisfied core s
  | .latemaxExpiry core => Sys2Proof.Machine.execLatemaxExpiry core s
  | .landingFreezeRelease core => Sys2Proof.Machine.execLandingFreezeRelease core s
  | .hoistEntryAvailable core => Sys2Proof.Machine.execHoistEntryAvailable core s
  | .tideOccurrenceDue core plane entry => Sys2Proof.Machine.execTideOccurrenceDue core plane entry s
  | .contextSaveBegin core => Sys2Proof.Machine.execContextSaveBegin core s
  | .contextSaveEnd core => Sys2Proof.Machine.execContextSaveEnd core s
  | .selection core => Sys2Proof.Machine.execSelection core s
  | .contextResumeEnd core => Sys2Proof.Machine.execContextResumeEnd core s
  | .faultMap id pte => Sys2Proof.Machine.execFaultMap id pte s
  | .faultRefuse id => Sys2Proof.Machine.execFaultRefuse id s
  | .faultmaxExpiry id => Sys2Proof.Machine.execFaultmaxExpiry id s
  | .pageTableUpdate page pte => Sys2Proof.Machine.execPageTableUpdate page pte s
  | .filterClear f => Sys2Proof.Machine.execFilterClear f s
  | .cutInstant part => Sys2Proof.Machine.execCutInstant part s
  | .cowCopyDone part g => Sys2Proof.Machine.execCowCopyDone part g s
  | .drainGranule part => Sys2Proof.Machine.execDrainGranule part s
  | .imageConfirmed part => Sys2Proof.Machine.execImageConfirmed part s
  | .drainFailure part unreachable => Sys2Proof.Machine.execDrainFailure part unreachable s
  | .dredgeScanGranule core q engine => Sys2Proof.Machine.execDredgeScanGranule core q engine s
  | .dredgeMerge core q => Sys2Proof.Machine.execDredgeMerge core q s
  | .tmnop => Sys2Proof.Machine.execTmnop s
  | .tmld d cb off => Sys2Proof.Machine.execTmld d cb off s
  | .tmldC d cb q off => Sys2Proof.Machine.execTmldC d cb q off s
  | .tmst d cb off => Sys2Proof.Machine.execTmst d cb off s
  | .tmadd d a b => Sys2Proof.Machine.execTmadd d a b s
  | .tmsub d a b => Sys2Proof.Machine.execTmsub d a b s
  | .tmaddl d a b => Sys2Proof.Machine.execTmaddl d a b s
  | .tmshrSqrt d a => Sys2Proof.Machine.execTmshrSqrt d a s
  | .tmshrRsqrt d a => Sys2Proof.Machine.execTmshrRsqrt d a s
  | .tmshrRcp d a => Sys2Proof.Machine.execTmshrRcp d a s
  | .tmcvtL2fLo d a k => Sys2Proof.Machine.execTmcvtL2fLo d a k s
  | .tmcvtL2fHi d a k => Sys2Proof.Machine.execTmcvtL2fHi d a k s
  | .tmcvtF2lLo d a k => Sys2Proof.Machine.execTmcvtF2lLo d a k s
  | .tmcvtF2lHi d a k => Sys2Proof.Machine.execTmcvtF2lHi d a k s
  | .tmfxAdd d a b => Sys2Proof.Machine.execTmfxAdd d a b s
  | .tmfxSub d a b => Sys2Proof.Machine.execTmfxSub d a b s
  | .tmfxSar d a n => Sys2Proof.Machine.execTmfxSar d a n s
  | .tmfxShl d a n => Sys2Proof.Machine.execTmfxShl d a n s
  | .tmmul d a b => Sys2Proof.Machine.execTmmul d a b s
  | .tmsel d a b m => Sys2Proof.Machine.execTmsel d a b m s
  | .tmcmp cond ty d a b => Sys2Proof.Machine.execTmcmp cond ty d a b s
  | .tmmin ty d a b => Sys2Proof.Machine.execTmmin ty d a b s
  | .tmmax ty d a b => Sys2Proof.Machine.execTmmax ty d a b s
  | .tmsgnCopy d a b => Sys2Proof.Machine.execTmsgnCopy d a b s
  | .tmsgnXor d a b => Sys2Proof.Machine.execTmsgnXor d a b s
  | .tmsgnAbs d a => Sys2Proof.Machine.execTmsgnAbs d a s
  | .tmsgnNeg d a => Sys2Proof.Machine.execTmsgnNeg d a s
  | .tmrnd sr hi d a => Sys2Proof.Machine.execTmrnd sr hi d a s
  | .tmaddi d a imm => Sys2Proof.Machine.execTmaddi d a imm s
  | .tmmovi d hi imm => Sys2Proof.Machine.execTmmovi d hi imm s
  | .tmbr cond a target => Sys2Proof.Machine.execTmbr cond a target s
  | .tmloop a target => Sys2Proof.Machine.execTmloop a target s
  | .tmend => Sys2Proof.Machine.execTmend s
  | .tmmov d a => Sys2Proof.Machine.execTmmov d a s
  | .tmmovBc16 d a => Sys2Proof.Machine.execTmmovBc16 d a s
  | .tmmovBc32 d a => Sys2Proof.Machine.execTmmovBc32 d a s
  | .tmmovGet16 d a j => Sys2Proof.Machine.execTmmovGet16 d a j s
  | .tmmovGet32 d a j => Sys2Proof.Machine.execTmmovGet32 d a j s
  | .flitReceive p flit => Sys2Proof.Machine.execFlitReceive p flit s
  | .ackTimer p => Sys2Proof.Machine.execAckTimer p s
  | .replayTimeout p => Sys2Proof.Machine.execReplayTimeout p s
  | .portRetrain p => Sys2Proof.Machine.execPortRetrain p s
  | .fabricOperationArrival op => Sys2Proof.Machine.execFabricOperationArrival op s
  | .e2eResponseArrival r => Sys2Proof.Machine.execE2eResponseArrival r s
  | .holdNotice incoming n => Sys2Proof.Machine.execHoldNotice incoming n s
  | .e2eResendTimeout n => Sys2Proof.Machine.execE2eResendTimeout n s
  | .e2eLinkTimeout n => Sys2Proof.Machine.execE2eLinkTimeout n s
  | .l3ArrivalCount key chip count => Sys2Proof.Machine.execL3ArrivalCount key chip count s
  | .l3PhaseChange key => Sys2Proof.Machine.execL3PhaseChange key s
  | .beaconSend p => Sys2Proof.Machine.execBeaconSend p s
  | .beaconReceive p sent recv => Sys2Proof.Machine.execBeaconReceive p sent recv s
  | .ptpEventMessage port egress seqId => Sys2Proof.Machine.execPtpEventMessage port egress seqId s
  | .disciplineStep two => Sys2Proof.Machine.execDisciplineStep two s
  | .tnowLoad v => Sys2Proof.Machine.execTnowLoad v s
  | .frequencyLock src => Sys2Proof.Machine.execFrequencyLock src s
  | .referenceLoss => Sys2Proof.Machine.execReferenceLoss s
  | .stealWindow basin n => Sys2Proof.Machine.execStealWindow basin n s
  | .thermalResponse t => Sys2Proof.Machine.execThermalResponse t s
  | .reset stop => Sys2Proof.Machine.execReset stop s
  | .planeLoadEnd core => Sys2Proof.Machine.execPlaneLoadEnd core s
  | .rdmaWrite pair rkey off data => Sys2Proof.Machine.execRdmaWrite pair rkey off data s
  | .rdmaRead vf rkey off len => Sys2Proof.Machine.execRdmaRead vf rkey off len s
  | .rdmaAtomicRequest vf => Sys2Proof.Machine.execRdmaAtomicRequest vf s
  | .loadPlane m => Sys2Proof.Machine.execLoadPlane m s
  | .armTide m => Sys2Proof.Machine.execArmTide m s
  | .disarmTide m => Sys2Proof.Machine.execDisarmTide m s
  | .bindHandle m => Sys2Proof.Machine.execBindHandle m s
  | .setCap m => Sys2Proof.Machine.execSetCap m s
  | .setRing m => Sys2Proof.Machine.execSetRing m s
  | .setClass m => Sys2Proof.Machine.execSetClass m s
  | .setSnapset m => Sys2Proof.Machine.execSetSnapset m s
  | .cancelCut m => Sys2Proof.Machine.execCancelCut m s
  | .restore m => Sys2Proof.Machine.execRestore m s
  | .semAdd m => Sys2Proof.Machine.execSemAdd m s
  | .readStatus m => Sys2Proof.Machine.execReadStatus m s
  | .create m => Sys2Proof.Machine.execCreate m s
  | .launch m => Sys2Proof.Machine.execLaunch m s
  | .stop m => Sys2Proof.Machine.execStop m s
  | .resume m => Sys2Proof.Machine.execResume m s
  | .destroy m => Sys2Proof.Machine.execDestroy m s
  | .inject m => Sys2Proof.Machine.execInject m s
  | .attest m => Sys2Proof.Machine.execAttest m s
  | .release m => Sys2Proof.Machine.execRelease m s
  | .commit m => Sys2Proof.Machine.execCommit m s
  | .caps m => Sys2Proof.Machine.execCaps m s
  | .duplicateEntryReplacement chip core => Sys2Proof.Machine.execDuplicateEntryReplacement chip core s
  | .pfcPauseFrame port pause => Sys2Proof.Machine.execPfcPauseFrame port pause s

end Sys2Proof.Machine
end

