-- ==== Sys2Proof/Machine/Firmware.lean ====
section
/-! DEFINITION. Acts of agents outside the package, and of the firmware of its own accord, that no row of the opcode table stands for: settings
(R320, R323, R382, R388, R389, R391, R416), accesses of the management cores (R398), the operator record (R413), errors of the memories (R317,
R323, R328), and ports and cuts of other packages (R363, R381, R382, R414). -/
namespace Sys2Proof.Machine
open Sys2Proof

/-- The least CLRINT (R323). -/
def clrintMin : Nat := 2 ^ 20

/-- PCAP is set (R416), and shown in the capability list (R420). -/
def State.setCap (s : State) (w : BitVec 16) : State :=
  if decide (1200 ≤ w.toNat) && decide (w.toNat ≤ 2400) then
    { s with power := { s.power with pcap := w }, window := windowOf s.quays s.hbmStacks w securityVersions }
  else s

/-- Changes what the firmware keeps of a virtual function (R391). -/
def State.modNet (s : State) (vf : BitVec 8) (f : VfNet → VfNet) : State :=
  { s with nets := SMap.set .empty s.nets vf.toNat (f (SMap.get .empty s.nets vf.toNat)) }

/-- A management core's access to a frame (R398): refused for a frame a partition owns, and it then returns zero. -/
def State.manage (s : State) (frame : Nat) (write : Option (List Byte)) : State :=
  match (s.frameOwner frame).isSome, write with
  | true, _ => { s with out := s.out ++ [OutMsg.managed frame (List.replicate 65536 0)] }
  | false, some bs => { s with hbm := s.hbm.put (65536 * frame) (fitTo 65536 bs) }
  | false, none => { s with out := s.out ++ [OutMsg.managed frame (s.hbm.cells.readRun (65536 * frame) 65536)] }

/-- A port of another package goes down or returns (R382); packets that wait for a way now broken go the other way. -/
def State.setFar (s : State) (chip : BitVec 21) (p : Port) (up : Bool) : State :=
  if chip == s.chip then s
  else if up then { s with farDown := s.farDown.filter (fun e => e != (chip, p)) }
  else if s.farDown.contains (chip, p) then s else ({ s with farDown := s.farDown ++ [(chip, p)] }).reroute

/-- The firmware sends a page-fault message to a peer on the request channel (R383). -/
def State.faultMessage (s : State) (chip : BitVec 21) (bytes : List Byte) : State :=
  ({ s with out := s.out ++ [OutMsg.faultMessage chip bytes] }).xmit (packetOf 0 ⟨chip, s.chip, 0, .faultMessage, 0, 0, 0⟩ bytes .held)

/-- An act from outside. The firmware acts once it runs (R414). -/
def State.order (s : State) (o : Outside) : State :=
  let fw (t : State) : State := if s.firmware then t else s
  match o with
  | .clearInterval t => fw (if t.toNat ≥ clrintMin then { s with tele := { s.tele with clrint := t } } else s)
  | .sampling k => fw (if k.toNat ≤ 20 then { s with tele := { s.tele with sampleK := k } } else s)
  | .powerCap w => fw (s.setCap w)
  | .ringLength d n => fw (if decide (1 ≤ n) && decide (n ≤ 128) then { s with rings := s.rings.set d n } else s)
  | .group g chips => fw { s with groups := SMap.set [] s.groups g.toNat chips }
  | .pfcPriority p => fw { s with pfcPrio := p }
  | .address vf mac ip gid vlan => fw (s.modNet vf (fun n => { n with mac := mac, ip := ip, gid := gid, vlan := vlan }))
  | .connect vf qp => fw (s.modNet vf (fun n => { n with pairs := n.pairs ||| ((1 : Word) <<< qp.toNat) }))
  | .frameAccess frame w => fw (s.manage frame w)
  | .operatorRecord key => if s.answers then { s with harbour := { s.harbour with operator := key } } else s
  | .holdError c g bits => s.modCore c (fun k => { k with holdErr := SMap.set 0 k.holdErr g bits })
  | .padError c g corrected => s.modCore c (fun k => k.injected .pad g (!corrected))
  | .accError c i corrected => s.modCore c (fun k => k.injected .acc i (!corrected))
  | .hbmError loc corrected => if corrected then s.noteHbm loc false else { s with hbm := s.hbm.setPoison (loc / 32) true }
  | .peerDown p => if (s.port p).up then s.portDown p else s
  | .trainFails p => if (s.port p).up then { s.modPort p (fun t => { t with up := false }) with fw := s.fw ++ [.portDown p] } else s
  | .farPort chip p up => fw (s.setFar chip p up)
  | .cutDiffers part => fw (s.refuseCut part)
  | .faultMessage chip bytes => fw (s.faultMessage chip bytes)
  | .bulkArrival b => fw { s with bulks := s.bulks ++ [(b, none)] }
  | .firstFlip c =>
    let k := s.core c
    fw (if k.run == .idle && k.suspended.isNone && k.loading.isNone && !k.swreq && k.active.marks.isEmpty then s.setCore c k.flip else s)

end Sys2Proof.Machine
end

