-- ==== Sys2Proof/Machine/Cycle.lean ====
section
/-! DEFINITION. How the machine runs: the cycle of a core, of its trimmers and of its engines, what the package's units do at the end of a
tick, and what may come from outside. -/
namespace Sys2Proof.Machine
open Sys2Proof

/-- Goes on from an outcome. -/
def andThen (o : Host.Outcome State Fault Refusal) (f : State → Host.Outcome State Fault Refusal) : Host.Outcome State Fault Refusal :=
  match o with | .next s => f s | .fault r => .fault r | .refused r => .refused r

/-- Executes instructions one after another. -/
def execAll (s : State) : List Instr → Host.Outcome State Fault Refusal
  | [] => .next s
  | i :: rest => andThen (exec i s) (fun t => execAll t rest)

-- A core's cycle ------------------------------------------------------------------------------------------------------

/-- The marked granule the next due landing of a core waits for (R367). -/
def State.cowLanding (s : State) (c : CoreId) : Option Nat :=
  let k := s.core c
  match k.dueIx with
  | some i => (k.pend[i]?).bind (fun e => match e.dest with | .gran true g _ => (s.holdMark c (32 * g)).map (fun _ => g) | _ => none)
  | none => none

/-- The event of a core that is due at this point of its cycle: what lands, what the array does, the end of a wait or of LATEMAX, the
context engine and the sequencer. Before a pre-emption, and while results land for one or for a trap, nothing more enters the array (R191, R305);
in a stolen cycle only time and the context engine go on (R416). -/
def State.coreEvent (s : State) (c : CoreId) : Option Instr :=
  let k := s.core c
  let own : Option Instr :=
    match k.dueIx, s.cowLanding c with
    | some i, none => some (.resultLanding c i)
    | _, _ =>
      match k.arrayDue c with
      | some i => some i
      | none =>
        match k.freeze with
        | some f => if k.run == .running && !f.ready && s.waitOver c f.wait then some (f.wait.endEvent c)
                    else if (s.lateNow c).isSome then some (.latemaxExpiry c) else none
        | none => none
  match k.tideDue s.tnow with
  | some (p, e) => some (.tideOccurrenceDue c p e)
  | none =>
    match k.run with
    | .saving _ t _ _ => if (s.tnow - t).toNat ≥ contextTicks then some (.contextSaveEnd c) else none
    | .resuming t => if (s.tnow - t).toNat ≥ contextTicks then some (.contextResumeEnd c) else none
    | _ =>
      if s.stolen c || k.preemptor.isSome || k.entering.isSome || k.landing.isSome then none
      else match own with
        | some i => some i
        | none =>
          match k.run with
          | .preempting .. => if s.saveHeld c then none else some (.contextSaveBegin c)
          | .idle => if k.selectable then some (.selection c) else none
          | _ => none

/-- Stores that other agents see within 64 ticks (R266). -/
def bufferTicks : Nat := 64

/-- What a core settles at the start of its cycle: rows whose bound has come, matrix instructions that retire, arrivals, and stores that
every agent sees by now. -/
def State.settle (s : State) (c : CoreId) : State :=
  let s1 := s.modCore c (fun k =>
    let k1 := k.landDueWork.retireItems
    k1.flush (fun b => decide ((s.tnow - b.made).toNat ≥ bufferTicks)))
  s1.makeArrivals c

/-- Executes the slots of an open bundle in slot order (R84). -/
def runSlots (s : State) : List (Slot × Option Instr) → Host.Outcome State Fault Refusal
  | [] => .next s
  | (_, some i) :: rest => andThen (exec i s) (fun t => runSlots t rest)
  | (sl, none) :: rest => runSlots (s.badSlot sl) rest

/-- A cycle in which a bundle may issue (R82-R84). -/
def State.issueCycle (s : State) (c : CoreId) : Host.Outcome State Fault Refusal :=
  match s.fetch c with
  | .trapped t => .next t
  | .bundle t b => if b.slots.isEmpty then exec (.headerOnlyBundle b.dp) t else runSlots (t.openBundle c b) b.slots

/-- A cycle of a core in which nothing issues: the time of its array goes on unless the core is frozen or saving. -/
def Core.restCycle (k : Core) : Core := { k with mt := k.mt + 1, mx := k.mx.age }

/-- What a running core does in its cycle, when nothing is due before it: frozen on the array, frozen on its bundle, the bubble after a
transfer (R128), or the next bundle. -/
def State.runCycle (s : State) (c : CoreId) : Host.Outcome State Fault Refusal :=
  let k := s.core c
  let frozen (w : Wait) (slot : Nat) : Host.Outcome State Fault Refusal :=
    .next ((s.holdEffect c w).modCore c (fun k => k.freezeOn w slot s.tnow s.clock.cycle))
  match s.cowLanding c with
  | some g => frozen (.cow g) 4
  | none =>
    match k.rowWait with
    | some w =>
      match k.freeze with
      | some f => if f.ready || f.wait == w then frozen w 4 else .next (s.modCore c (fun k => k.freezeRow f w s.tnow))
      | none => frozen w 4
    | none =>
      match k.freeze with
      | some f => if f.ready then s.issueCycle c else frozen f.wait f.slot
      | none => if k.bubble then .next (s.modCore c (fun k => { k.taskCycle with bubble := false })) else s.issueCycle c

/-- A core's cycle once nothing is due before it (R7, R285, R416); one in which writes wait for copies before a handler is entered or a context
saved is a frozen cycle (R191). -/
def State.coreCycle (s : State) (c : CoreId) : Host.Outcome State Fault Refusal :=
  let k := s.core c
  if s.stolen c then .next (if k.run == .running then s.modCore c Core.slipCycle else s)
  else if k.entering.isSome then .next ((s.askPending c).modCore c (fun k => if k.run == .running then k.slipCycle else k))
  else match k.run with
    | .running => s.runCycle c
    | .preempting .. => .next (if k.landing.isSome then s.landTick c else s.modCore c Core.restCycle)
    | _ => .next (s.modCore c Core.restCycle)

/-- The end of a core's turn. -/
def State.turnOver (s : State) (c : CoreId) : State := { s.flushNotes c with turn := .trim c }

/-- The turn of a core: a handler entered at last, the event due, a pre-emption (R294, R305), or its cycle. An expiry of LATEMAX takes the cycle
of the bundle it traps (R133). -/
def State.coreTurn (s : State) (c : CoreId) : Host.Outcome State Fault Refusal :=
  match (s.core c).entering, s.landHeld c with
  | some t, false => .next (s.enterTrap c t)
  | _, _ =>
    match s.coreEvent c with
    | some (.latemaxExpiry d) => andThen (exec (.latemaxExpiry d) s) (fun t => .next ((t.settle c).turnOver c))
    | some i => exec i s
    | none =>
      if !s.stolen c && (s.core c).preemptor.isSome then .next (s.preempt c)
      else if !s.stolen c && s.landsNow c then .next (s.landPreempted c)
      else andThen ((s.settle c).coreCycle c) (fun t => .next (t.turnOver c))

-- Trimmers and engines ------------------------------------------------------------------------------------------------

/-- The turn of a core's trimmers: one thread's instruction (R335). -/
def State.trimCycle (s : State) (c : CoreId) : Host.Outcome State Fault Refusal :=
  andThen (match (s.core c).trimNext with | some i => exec i s | none => .next (s.trimIdle c)) (fun t => .next { t.flushNotes c with turn := .eng c })

/-- The events of one command in a tick, as long as it has any. -/
def State.cmdEvents (s : State) (c : CoreId) (id : Nat) : Nat → Host.Outcome State Fault Refusal
  | 0 => .next s
  | n + 1 =>
    match ((s.core c).cmd id).bind (fun q => s.cmdEvent c q) with
    | some i => andThen (exec i s) (fun t => t.cmdEvents c id n)
    | none => .next s

/-- The scans of a DRG: one granule for each dredge engine (R354). -/
def scanEvents (c : CoreId) (q : Cmd) : List Instr :=
  if isDrg q.ins && q.started && !q.finished && q.data.bytes.isEmpty then
    (List.range 8).map (fun e => .dredgeScanGranule c q.id (BitVec.ofNat 3 e)) else []

/-- Events a command can have in one tick: a start, 64 targets, an end. -/
def cmdFuel : Nat := 70

/-- Several units of work of a command, as long as it goes on. -/
def State.cmdUnits (s : State) (c : CoreId) (id : Nat) : Nat → State
  | 0 => s
  | n + 1 =>
    match (s.core c).cmd id with
    | some q => if q.started && !q.finished then (s.cmdWork c q).cmdUnits c id n else s
    | none => s

/-- How many units of work an engine does for a command in this tick: one, or as a choice has it fewer or more, since the manual gives no rate
(R201, R434; log 115). -/
def State.engineRate (s : State) : Nat := if s.choice = 0 then 1 else s.choice - 1

/-- A CPAB that has not acted yet may do so from the next cycle on (R234). -/
def State.ripen (s : State) (c : CoreId) (q : Cmd) : State := if isCpab q.ins then s.modCmd c q.id (fun x => { x with pos := 1 }) else s

/-- Whether a command could start in this tick. The manual gives no time in which an engine takes up a command that may start, so a choice puts
it off (R201, R447; log 115); a CPAB acts at once (R234). -/
def State.startDue (s : State) (c : CoreId) (id : Nat) : Bool :=
  ((s.core c).cmd id).any (fun q => !isCpab q.ins && s.startsNow c q)

/-- One tick of a command: its events, then its work. -/
def State.cmdTick (s : State) (c : CoreId) (id : Nat) : Host.Outcome State Fault Refusal :=
  if s.startDue c id && decide (s.choice ≠ 0) then .next s.chosen else
  andThen (((if s.startDue c id then s.chosen else s).collClock c id).cmdEvents c id cmdFuel) (fun t =>
    match (t.core c).cmd id with
    | none => .next t
    | some q =>
      if q.started && !q.finished then andThen (execAll t (scanEvents c q)) (fun u => .next (u.chosen.cmdUnits c id u.engineRate))
      else .next (if q.started then t else t.ripen c q))

/-- One tick of several commands. -/
def State.cmdTicks (s : State) (c : CoreId) : List Nat → Host.Outcome State Fault Refusal
  | [] => .next s
  | id :: rest => andThen (s.cmdTick c id) (fun t => t.cmdTicks c rest)

/-- Whose turn comes after the engines of a core. -/
def nextTurn (c : CoreId) : Turn := if c = 2047#11 then .pkg else .core (c + 1)

/-- The turn of a core's engines: its commands in queue order, its plane loader, and the weight of ended tasks. -/
def State.engTurn (s : State) (c : CoreId) : Host.Outcome State Fault Refusal :=
  andThen (s.cmdTicks c ((s.core c).queue.map (·.id))) (fun t =>
    let load (t : State) := if t.loadDue c then execPlaneLoadEnd c t else .next t
    let back (t : State) :=
      if (t.core c).exits.any (fun e => !(t.core c).queue.any (fun q => q.task == e.task)) then exec (.exitWeightAdd c) t else .next t
    andThen (load t) (fun u => andThen (back u) (fun v => .next { v with turn := nextTurn c })))

-- The package's own units ---------------------------------------------------------------------------------------------

/-- The notice of an item. -/
def Sent.notice (e : Sent) : Notice := ⟨e.chip, e.op.srcCore, e.op.seq⟩

/-- Does something for each of some things in order. -/
def forEach {α : Type} (f : α → State → Host.Outcome State Fault Refusal) (s : State) : List α → Host.Outcome State Fault Refusal
  | [] => .next s
  | a :: rest => andThen (f a s) (fun t => forEach f t rest)

/-- Does what a unit has due in this tick, unless a choice has it take longer: the manual gives only what its engines may take (R367, R370). -/
def unlessLate (f : State → Host.Outcome State Fault Refusal) (s : State) : Host.Outcome State Fault Refusal :=
  if s.choice = 0 then f s.chosen else .next s.chosen

/-- The units of the package at the end of a tick, one after another, each with what it has due. -/
def State.pkgUnits (s : State) : Host.Outcome State Fault Refusal :=
  let late (n : Nat) (t : State) : List Notice :=
    (t.sent.filter (fun e => !e.waiting && decide ((t.tnow - (if n = 0 then e.heardAt else e.sentAt)).toNat ≥ (if n = 0 then 262144 else 65536)))).map Sent.notice
  andThen (forEach execCollChunkArrival s s.flying) fun s =>
  andThen (forEach (fun f => execFaultmaxExpiry f.id) s (s.faults.filter s.faultLate)) fun s =>
  let s := allParts.foldl (fun s p => s.confirmCut p) s
  andThen (forEach execCutInstant s (allParts.filter (fun p => match s.cutDue p with | some (l, _) => l != .l3 | none => false))) fun s =>
  andThen (forEach (fun p t => match (t.part p).cut with | some c => forEach (fun g => unlessLate (execCowCopyDone p g)) t c.copying | none => .next t) s allParts) fun s =>
  andThen (forEach (fun p => unlessLate (execDrainGranule p)) s (allParts.filter (fun p => (s.part p).cut.isSome && !(s.part p).allDrained))) fun s =>
  andThen (forEach execE2eLinkTimeout s (late 0 s)) fun s =>
  andThen (forEach execE2eResendTimeout s (late 1 s)) fun s =>
  andThen (forEach (execHoldNotice false) s (s.heldOps.map (fun h => ⟨h.op.srcChip, h.op.srcCore, h.op.seq⟩))) fun s =>
  andThen (forEach (fun d => execDuplicateEntryReplacement d.chip d.core) s
    (if s.heldOps.any (fun h => h.why == .table) then s.dups.filter (fun d => d.replaceable s.tnow) else [])) fun s =>
  andThen (forEach execAckTimer s allPorts) fun s =>
  andThen (forEach execReplayTimeout s allPorts) fun s =>
  forEach execBeaconSend s allPorts

/-- TNOW after this cycle: one more, or two or none in a discipline step (R284). -/
def State.nextTnow (s : State) : Word := s.tnow + (match s.clock.step with | some true => 2 | some false => 0 | none => 1)

/-- The end of a tick: time goes on, and at a window boundary, which a step of two may pass over, a hot package raises its steal level (R284,
R416, R417). -/
def State.endTick (s : State) : State :=
  let t := s.nextTnow
  { s with
    tnow := t, turn := .core 0, clock := { s.clock with cycle := s.clock.cycle + 1, step := none },
    power := { (if t.toNat / 64 ≠ s.tnow.toNat / 64 then s.power.raise else s.power) with window := s.tnow.toNat / 64 } }

/-- The harbourmaster's tick (R404): what it waits for, then the requests behind it. -/
def State.harbourTurn (s : State) : Host.Outcome State Fault Refusal := forEach execReqMsg s.harbourTick.1 s.harbourTick.2

/-- The package's own turn, at the end of a tick. Filters are cleared as the next tick begins, before what it notes (R323). -/
def State.pkgTurn (s : State) : Host.Outcome State Fault Refusal :=
  andThen s.pkgUnits fun t =>
  let t := t.retryOps.bulkTick.hostTick
  andThen (forEach execHostMsg t t.hostDue) fun t =>
  andThen t.harbourTurn fun t =>
  let u := (allPorts.foldl State.linkPump t.laneTick.sendStrays).ethernetTick.endTick
  forEach (fun f => execFilterClear (BitVec.ofNat 4 f)) u ((List.range 12).filter u.filterDue)

/-- What the turn brings. -/
def State.turnStep (s : State) : Host.Outcome State Fault Refusal :=
  match s.turn with
  | .core c => s.coreTurn c
  | .trim c => s.trimCycle c
  | .eng c => s.engTurn c
  | .pkg => s.pkgTurn

-- From outside --------------------------------------------------------------------------------------------------------

/-- Whether an item of the table is an event that may come at any time: from the host, the harbourmaster's clients, other packages, the
management firmware, power and clock control; or one the manual lets happen earlier than this model's units would make it. An
instruction of a program is none. -/
def isEvent : Instr → Bool
  | .resultLanding .. | .contextSaveEnd .. | .contextResumeEnd .. | .faultMap .. | .faultRefuse .. | .pageTableUpdate .. | .cutInstant ..
  | .cowCopyDone .. | .drainGranule .. | .imageConfirmed .. | .drainFailure .. | .flitReceive .. | .portRetrain .. | .e2eResponseArrival ..
  | .l3ArrivalCount .. | .l3PhaseChange .. | .beaconReceive .. | .ptpEventMessage .. | .disciplineStep .. | .tnowLoad .. | .frequencyLock ..
  | .referenceLoss | .stealWindow .. | .thermalResponse .. | .reset .. | .rdmaWrite .. | .rdmaRead .. | .rdmaAtomicRequest .. | .loadPlane ..
  | .armTide .. | .disarmTide .. | .bindHandle .. | .setCap .. | .setRing .. | .setClass .. | .setSnapset .. | .cancelCut .. | .restore ..
  | .semAdd .. | .readStatus .. | .create .. | .launch .. | .stop .. | .resume .. | .destroy .. | .inject .. | .attest .. | .release ..
  | .commit .. | .caps .. | .duplicateEntryReplacement .. | .pfcPauseFrame .. => true
  | .holdNotice incoming _ => incoming
  | .fabricOperationArrival _ | .collChunkArrival _ => true
  | _ => false

/-- Whether an event is a reset. -/
def isReset : Instr → Bool | .reset _ => true | _ => false

/-- Whether power is on and the core clock runs (R414, R417). -/
def State.alive (s : State) : Bool := s.power.on && s.boot != .pll

/-- The step of the machine: the next act or event from outside, or the next turn. Without power or clock only a reset does anything. -/
def State.advance (s : State) : Host.Outcome State Fault Refusal :=
  match s.orders with
  | o :: rest => let t := { s with orders := rest }; .next (if s.alive then t.order o else t)
  | [] =>
    match s.agenda with
    | i :: rest =>
      let t := { s with agenda := rest }
      if isReset i || (isEvent i && s.alive) then exec i t else .next t
    | [] => if s.alive then s.turnStep else .next s

end Sys2Proof.Machine
end

