-- ==== Sys2Proof/Machine/Place.lean ====
section
/-! DEFINITION. A state in which a given instruction is the next one fetched (log 90). -/
namespace Sys2Proof.Machine
open Sys2Proof

/-- A thread at its first item, with everything zero. -/
def freshThread (live : Bool) : Thread :=
  { w := Vector.replicate 16 0, wp := Vector.replicate 16 0, c := Vector.replicate 8 0, cp := 0, ip := 0, item := 0, gen := 1, live := live }

/-- A sweep of one thread over a program. -/
def freshSweep (prog : List (BitVec 32)) : Sweep :=
  { cmd := 0, prog := prog, bad := [], checked := true, cap := 0, gen := 0, stat := 0, nthr := 1, count := 1, cpre := Vector.replicate 8 0,
    threads := (Vector.replicate 16 (freshThread false)).set 0 (freshThread true), delay := 0, turn := 0, flags := 0, items := 0, refused := 0,
    stop := none }

/-- A plane whose code region starts with the words of `w`. -/
def codePlane (w : Nat) : Plane :=
  { bytes := Memory.cells 0 (bytesOf w 32 ++ List.replicate 32 0) ++ [(0x15008, 64#8)], marks := [0], armed := false, occ := [] }

/-- The state with an instruction stored where the next step fetches it. A 32-bit word is a trimmer instruction: core 0 runs a sweep whose
program starts with it (R333), and its trimmers have the turn. More bits are a bundle: it stands at offset 0 of the active plane of core
0, which runs a task there with nothing due before it. -/
def State.placeWord (s : State) (nbits w : Nat) : State :=
  let base : State := { s with agenda := [], orders := [], boot := .none, power := Power.reset }
  let k := s.core 0
  if nbits ≤ 32 then
    { base.setCore 0 { k with sweep := some (freshSweep (BitVec.ofNat 32 w :: List.replicate 1023 0)),
                              queue := k.queue.filter (fun q => q.id != 0) } with turn := .trim 0 }
  else
    { base.setCore 0 { k with
        planes := (Vector.replicate 2 Plane.empty).set (if k.act then 1 else 0) (codePlane w) (by split <;> decide),
        pc := 0, via := none, run := .running, bubble := false, bundle := none, freeze := none, first := none,
        relT := none, entering := none, landing := none, pend := [], arrivals := [], buf := [],
        swreq := false, mx := { Mx.reset with sticky := k.mx.sticky } } with turn := .core 0 }

end Sys2Proof.Machine
end

