-- ==== Sys2Proof/Safety.lean ====
section
/-! DEFINITION. The terms claims are stated in: the invariant of the machine's memories, and what becomes of a bundle of one slot. -/
namespace Sys2Proof.Machine
open Sys2Proof

-- Memories ------------------------------------------------------------------------------------------------------------

/-- The memories of a core in canonical form: scratchpad, hold, planes. -/
def Core.memWf (k : Core) : Bool := k.sp.wf && k.hold.wf && k.planes[0].bytes.wf && k.planes[1].bytes.wf

/-- The memories of the package in canonical form. -/
def State.memWf (s : State) : Prop :=
  s.hbm.wf = true ∧ s.hostMem.wf = true ∧ s.peerMem.wf = true ∧ ∀ c : CoreId, (s.core c).memWf = true

/-- The holds, planes, host memory and peer memories in canonical form. -/
def State.keptForm (s : State) : Prop :=
  s.hostMem.cells.wf = true ∧ s.peerMem.cells.wf = true ∧
    ∀ c : CoreId, (s.core c).hold.cells.wf = true ∧ (s.core c).planes[0].bytes.wf = true ∧ (s.core c).planes[1].bytes.wf = true

/-- The sparse maps of a core in canonical form: accumulator store, weight planes, bit errors of the hold, tide occurrences. -/
def Core.mapsWf (k : Core) : Bool :=
  SMap.wf .zero k.mx.acc && SMap.wf .zeroCell k.mx.w0 && SMap.wf .zeroCell k.mx.w1 && SMap.wf 0 k.holdErr
    && SMap.wf .none k.planes[0].occ && SMap.wf .none k.planes[1].occ

/-- The sparse maps of the package in canonical form: pages, frames, handles, host functions, ring tables, injectors, error filters. -/
def State.mapsWf (s : State) : Prop :=
  SMap.wf 0 s.pages = true ∧ SMap.wf 0 s.frames = true ∧ SMap.wf 0 s.handles = true ∧ SMap.wf 0 s.vfs = true ∧
    SMap.wf [] s.ringTables = true ∧ SMap.wf ⟨0, 0, 0⟩ s.inj = true ∧ SMap.wf false s.tele.filters = true ∧
    ∀ c : CoreId, (s.core c).mapsWf = true

/-- The tables of an array hold 16 entries: those of its two slots, and of each MTBL that is still to start (R46, R177). -/
def Mx.tablesForm (m : Mx) : Bool :=
  m.t0.length == 16 && m.t1.length == 16
    && (m.items ++ m.parked).all (fun it => match it.ins with | .mtbl .. => it.tbl.length == 16 | _ => true)

/-- The tables of every array, and of every one kept for a suspended task, hold 16 entries. -/
def State.tablesForm (s : State) : Prop :=
  ∀ c : CoreId, (s.core c).mx.tablesForm = true ∧ ∀ u, (s.core c).suspended = some u → u.mx.tablesForm = true

-- A bundle of one slot ------------------------------------------------------------------------------------------------

/-- The core whose turn it is. -/
abbrev State.me (s : State) : Core := s.core s.cur

/-- A slot with these control fields is alone in its bundle, its guard is clean and true (R69), and if it arrives its level has a
domain (R70). -/
abbrev State.alone (s : State) (c : Ctl) : Prop :=
  s.me.bundle = none ∧ s.me.poisonP c.g = false ∧ s.me.readP c.g = true ∧ (c.ar = true → s.me.arFault = none)

/-- The loop counters and the next offset after a bundle of `words` words that transfers no control (R131): in handler mode nothing but
the next offset. -/
def Core.backEdge (k : Core) (words : Nat) : Word × Word × BitVec 33 × BitVec 33 × Word :=
  let next := k.pc + BitVec.ofNat 64 (4 * words)
  if k.csr.hm then (k.csr.lc[0], k.csr.lc[1], k.csr.le[0], k.csr.le[1], next)
  else loopCheck k.csr.lc[0] k.csr.lc[1] k.csr.le[0] k.csr.le[1] next

/-- The offset a fault at the next bundle names after a bundle of `words` words that transfers no control: its own when it went back to the start
of a loop (R86, R131). -/
def Core.backVia (k : Core) (words : Nat) : Option Word :=
  if !k.csr.hm && loopTaken k.csr.lc[0] k.csr.lc[1] k.csr.le[0] k.csr.le[1] (k.pc + BitVec.ofNat 64 (4 * words)) then some k.pc else none

/-- A core whose waiting bundle is done with, with its loop counters as given; what a handler's bundle leaves is the task's wait (R248). -/
def Core.leave (k : Core) (b : Word × Word × BitVec 33 × BitVec 33 × Word) : Core :=
  { k with csr := { k.csr with lc := #v[b.1, b.2.1], le := #v[b.2.2.1, b.2.2.2.1] }, bundle := none, freeze := none, first := none,
           relT := if k.csr.hm then k.relT else none }

/-- The arrival of a slot with AR (R70): `bound` cycles after issue, or before it once its results have landed at `ds`. -/
def Core.arriving (k : Core) (c : Ctl) (bound : Nat) (ardom : BitVec 2) (ds : List PDest := []) : Core :=
  if c.ar then { k with arrivals := k.arrivals ++ [⟨k.ct + bound, ardom, ds⟩] } else k

/-- The state once a bundle of one slot has retired, its own effect being `f`, whose results land at `ds`: the slot's arrival, one task cycle,
and control at the next bundle. -/
def State.retired (s : State) (c : Ctl) (words bound : Nat) (f : State → State) (ds : List PDest := []) : State :=
  let b := s.me.backEdge words
  (f (s.modCore s.cur (fun k => k.leave b))).modCore s.cur (fun k =>
    { (k.arriving c bound s.me.csr.ardom ds).taskCycle with pc := b.2.2.2.2, via := s.me.backVia words, bubble := false })

/-- The state once a bundle of one slot has transferred control to `target` (R125-R128), its results landing at `ds`: no back-edge check, and a
bubble. -/
def State.transferred (s : State) (c : Ctl) (bound : Nat) (target : Word) (f : State → State) (ds : List PDest := []) : State :=
  (f (s.modCore s.cur (fun k => k.leave (k.csr.lc[0], k.csr.lc[1], k.csr.le[0], k.csr.le[1], target)))).modCore s.cur (fun k =>
    { (k.arriving c bound s.me.csr.ardom ds).taskCycle with pc := target, via := some s.me.pc, bubble := true })

/-- The state once a bundle of one slot that arrives when it retires, as one that has waited does, has retired (R70). -/
def State.waited (s : State) (c : Ctl) (f : State → State) : State :=
  s.retired { c with ar := false } 2 1 (fun t => if c.ar then (f t).arriveBits s.cur s.me.csr.ardom else f t)

/-- The state once a bundle of one slot has retired, changing nothing of its own but its core by `f`, with results that land at `ds`. -/
def State.retiredCore (s : State) (c : Ctl) (bound : Nat) (f : Core → Core) (ds : List PDest := []) : State :=
  s.retired c 2 bound (fun t => t.modCore s.cur f) ds

/-- Where a result of a slot for an X register lands later (R85). -/
def Core.xLands (k : Core) (xd : Reg) (bound : Nat) : List PDest := if xd = 0 || bound ≤ 1 then [] else [k.xDest xd]

/-- The state once a bundle of one slot has retired whose own effect is to write an X register, with its landing bound (R85, R90). -/
def State.givesX (s : State) (c : Ctl) (bound : Nat) (xd : Reg) (v : XW) : State :=
  s.retiredCore c bound (fun k => k.writeX xd v bound) (s.me.xLands xd bound)

/-- The state once the bundle of a slot has trapped (R258, R133): this cycle is the bundle's first where none was (R248). -/
def State.trapped (s : State) (c : Ctl) (f : SlotFault) : State :=
  ((s.seeFirst s.cur []).takeTrap s.cur f.code c.slot.num f.detail s.me.pc f.faddr).modCore s.cur Core.taskCycle

/-- The state once the bundle of a slot has been frozen for this cycle by a wait (R236): what its first cycle settled is kept. -/
def State.waiting (s : State) (c : Ctl) (w : Wait) (o : SlotOut := .wait w) : State :=
  (s.holdEffect s.cur w).modCore s.cur (fun k => { k.freezeOn w c.slot.num s.tnow s.clock.cycle with first := some (k.looks [(c.slot, o)] s.tnow) })

-- Vector bundles ------------------------------------------------------------------------------------------------------

/-- A vector slot alone in its bundle that may run: no handler without HVX (R260), and a clean mask (R135). -/
abbrev State.vecReady (s : State) (c : Ctl) (m : BitVec 3) : Prop :=
  s.alone c ∧ (s.me.csr.hm = true → s.me.csr.hvx = true) ∧ s.me.poisonK m = false

/-- The state once a vector bundle of one slot has retired: bytes written in a register, with their landing bound, and flags raised
(R135, R140). -/
def State.givesV (s : State) (c : Ctl) (bound : Nat) (vd : Reg) (ws : List VW) (fl : BitVec 7) : State :=
  s.retired c 2 bound (fun t => t.applyAll s.cur (s.me.vResult vd ws fl bound)) (s.me.landsAt (s.me.vResult vd ws fl bound))

-- Matrix bundles ------------------------------------------------------------------------------------------------------

/-- A matrix slot alone in its bundle that may run: no handler without HMX (R192), and the array not gated (R190). -/
abbrev State.mxReady (s : State) (c : Ctl) : Prop :=
  s.alone c ∧ (s.me.csr.hm = true → s.me.csr.hmx = true) ∧ s.me.mx.gate.isGated = false

/-- The state once a bundle of one queued matrix instruction has retired: after what goes with its reads, `pre`, the instruction is in the queue
behind the others, what the array has due in this very cycle is done, and a pending gate is cancelled (R173, R190). -/
def State.queued (s : State) (i : Instr) (c : Ctl) (xa xn xn1 : Word) (tbl : List (BitVec 16)) (f : State → State) (pre : State → State := id) :
    State :=
  let b := s.me.backEdge 2
  let s1 := pre (s.modCore s.cur (fun k => k.leave b))
  let s2 := s1.modCore s.cur (fun k => { k with mx := k.mx.enqueue k.mt i xa xn xn1 tbl (if c.ar then k.csr.ardom else 0) })
  let s3 := (s2.modCore s.cur (fun k => (k.runMx 4).shadeRow [])).modCore s.cur (fun k => if k.mx.gate.isPending then k.gateLive.gateCancel else k)
  (f s3).modCore s.cur (fun k => { k.taskCycle with pc := b.2.2.2.2, via := s.me.backVia 2, bubble := false })

end Sys2Proof.Machine
end

