-- ==== Sys2Proof/Certificates/Slice0/Obligations.lean ====
section
/-! DEFINITION. The statements of this model. -/

open Sys2Proof Sys2Proof.Machine

/-- Reset leaves every memory in canonical form. -/
def Sys2Proof.Claim.ResetMemWf : Prop := State.reset.memWf


-- Integer operations --------------------------------------------------------------------------------------------------

namespace Sys2Proof
open Sys2Proof.Machine

/-- Number of one bits below bit `n` (R102). -/
def bitCount (a : Nat) : Nat → Nat
  | 0 => 0
  | n + 1 => bitCount a n + a / 2 ^ n % 2

/-- Number of trailing zero bits, at most `fuel` (R102). -/
def trailing (a : Nat) : Nat → Nat
  | 0 => 0
  | n + 1 => if a % 2 = 1 then 0 else 1 + trailing (a / 2) n

/-- Table 2 of R102 as arithmetic on integers: the value of which Xd gets the low 64 bits. -/
def aluTable (fn : AluFn) (a b : Word) : Int :=
  let A : Int := a.toNat
  let B : Int := b.toNat
  let n := b.toNat % 64
  let m := b.toNat % 32
  let w (z : Int) : Int := z.bmod (2 ^ 32)
  match fn with
  | .add => A + B | .sub => A - B
  | .and => (a &&& b).toNat | .or => (a ||| b).toNat | .xor => (a ^^^ b).toNat
  | .andn => (a &&& (BitVec.allOnes 64 - b)).toNat | .orn => (a ||| (BitVec.allOnes 64 - b)).toNat
  | .xnor => (BitVec.allOnes 64 - (a ^^^ b)).toNat
  | .shl => A * 2 ^ n | .shr => A / 2 ^ n | .sar => a.toInt / 2 ^ n | .rol => A * 2 ^ n + A / 2 ^ (64 - n)
  | .min => min a.toInt b.toInt | .max => max a.toInt b.toInt | .minn => min A B | .maxn => max A B
  | .addW => w (A + B) | .subW => w (A - B) | .shlW => w (A * 2 ^ m) | .shrW => w (A % 2 ^ 32 / 2 ^ m) | .sarW => w A / 2 ^ m
  | .clz => if a = 0 then 64 else 63 - (Nat.log2 a.toNat : Int) | .ctz => trailing a.toNat 64 | .popc => bitCount a.toNat 64
  | .rev8 => (((List.range 8).map (fun i => a.toNat / 2 ^ (8 * i) % 256 * 2 ^ (56 - 8 * i))).sum : Nat)
  | .sextB => A.bmod (2 ^ 8) | .sextH => A.bmod (2 ^ 16) | .sextW => w A | .zextW => A % 2 ^ 32
  | .addsh1 => B + A * 2 | .addsh2 => B + A * 4 | .addsh3 => B + A * 8 | .addsh4 => B + A * 16

/-- Table 3 of R103 in the same way. -/
def mulTable (fn : MulFn) (a b : Word) : Int :=
  let x := a.toInt
  let y := b.toInt
  let A : Int := a.toNat
  let B : Int := b.toNat
  match fn with
  | .mul => x * y | .mulh => x * y / 2 ^ 64 | .mulhn => A * B / 2 ^ 64 | .mulW => (A * B).bmod (2 ^ 32)
  | .div => if y = 0 then -1 else if x = -2 ^ 63 ∧ y = -1 then x else x.tdiv y
  | .divn => if B = 0 then -1 else A / B
  | .rem => if y = 0 then x else if x = -2 ^ 63 ∧ y = -1 then 0 else x - y * x.tdiv y
  | .remn => if B = 0 then A else A - B * (A / B)

/-- The landing bound of MULDIV (Table 1 of R97). -/
def mulLands (fn : MulFn) : Nat := match fn with | .mul | .mulW => 3 | .mulh | .mulhn => 4 | _ => 20

/-- Whether an ALU function reads Xa alone (R102). -/
def readsOne (fn : AluFn) : Bool :=
  match fn with | .clz | .ctz | .popc | .rev8 | .sextB | .sextH | .sextW | .zextW => true | _ => false

end Sys2Proof

open Sys2Proof Sys2Proof.Machine

/-- ALU (R102, R98): every function of Table 2 completes with the low 64 bits of its value in Xd, poisoned when a register it reads is. -/
def Obligations.AluResults : Prop :=
  ∀ (s : State) (c : Ctl) (fn : AluFn) (xd xa xb : Reg), s.alone c →
    exec (.alu c fn xd xa xb) s = .next (s.givesX c 1 xd
      ⟨BitVec.ofInt 64 (aluTable fn (s.me.readX xa).val (s.me.readX xb).val),
       (s.me.readX xa).poison || (!readsOne fn && (s.me.readX xb).poison)⟩)

/-- MULDIV (R103, R97): every function of Table 3, with its landing bound. -/
def Obligations.MuldivResults : Prop :=
  ∀ (s : State) (c : Ctl) (fn : MulFn) (xd xa xb : Reg), s.alone c →
    exec (.muldiv c fn xd xa xb) s = .next (s.givesX c (mulLands fn) xd
      ⟨BitVec.ofInt 64 (mulTable fn (s.me.readX xa).val (s.me.readX xb).val), (s.me.readX xa).poison || (s.me.readX xb).poison⟩)

/-- The operations with an immediate (R105, R106): ADDI, ANDI, ORI, XORI with the sign-extended immediate, SHLI, SHRI, SARI by an amount,
in their 64-bit and 32-bit forms. -/
def Sys2Proof.Claim.ImmediateResults : Prop :=
  ∀ (s : State) (c : Ctl) (xd xa : Reg) (imm : BitVec 18) (n : BitVec 6), s.alone c →
    let a := (s.me.readX xa).val
    let gives (i : Instr) (v : Word) : Prop := exec i s = .next (s.givesX c 1 xd ⟨v, (s.me.readX xa).poison⟩)
    gives (.addi c xd xa imm) (a + BitVec.ofInt 64 imm.toInt) ∧ gives (.andi c xd xa imm) (a &&& BitVec.ofInt 64 imm.toInt) ∧
    gives (.ori c xd xa imm) (a ||| BitVec.ofInt 64 imm.toInt) ∧ gives (.xori c xd xa imm) (a ^^^ BitVec.ofInt 64 imm.toInt) ∧
    gives (.shli c false xd xa n) (BitVec.ofNat 64 (a.toNat * 2 ^ n.toNat)) ∧
    gives (.shri c false xd xa n) (BitVec.ofNat 64 (a.toNat / 2 ^ n.toNat)) ∧
    gives (.sari c false xd xa n) (BitVec.ofInt 64 (a.toInt / 2 ^ n.toNat)) ∧
    (n.toNat < 32 →
      gives (.shli c true xd xa n) (BitVec.ofInt 64 ((a.toNat * 2 ^ n.toNat : Int).bmod (2 ^ 32))) ∧
      gives (.shri c true xd xa n) (BitVec.ofInt 64 ((a.toNat % 2 ^ 32 / 2 ^ n.toNat : Int).bmod (2 ^ 32))) ∧
      gives (.sari c true xd xa n) (BitVec.ofInt 64 ((a.toNat : Int).bmod (2 ^ 32) / 2 ^ n.toNat)))

/-- Bit fields (R107), constants (R108-R110), SEL (R104) and TAGSET (R118). -/
def Sys2Proof.Claim.FieldAndConstantResults : Prop :=
  ∀ (s : State) (c : Ctl) (xd xa xb : Reg) (pn : BitVec 3) (pos lenM1 : BitVec 6) (imm : BitVec 18) (imm16 : BitVec 16) (h : BitVec 2)
    (wide : BitVec 50) (t : BitVec 2), s.alone c →
    let a := s.me.readX xa
    let d := s.me.readX xd
    let len := lenM1.toNat + 1
    let gives (i : Instr) (v : Word) (q : Bool) : Prop := exec i s = .next (s.givesX c 1 xd ⟨v, q⟩)
    (pos.toNat + len ≤ 64 →
      let f := a.val.toNat / 2 ^ pos.toNat % 2 ^ len
      gives (.bfx c xd xa pos lenM1) (BitVec.ofNat 64 f) a.poison ∧
      gives (.bfxs c xd xa pos lenM1) (BitVec.ofInt 64 ((f : Int).bmod (2 ^ len))) a.poison ∧
      gives (.bfi c xd xa pos lenM1)
        (BitVec.ofNat 64 (d.val.toNat - d.val.toNat / 2 ^ pos.toNat % 2 ^ len * 2 ^ pos.toNat + a.val.toNat % 2 ^ len * 2 ^ pos.toNat))
        (d.poison || a.poison)) ∧
    gives (.movi c xd imm) (BitVec.ofInt 64 imm.toInt) false ∧
    gives (.movk c xd imm16 h)
      (BitVec.ofNat 64 (d.val.toNat - d.val.toNat / 2 ^ (16 * h.toNat) % 2 ^ 16 * 2 ^ (16 * h.toNat) + imm16.toNat * 2 ^ (16 * h.toNat))) d.poison ∧
    exec (.movl c xd wide) s =
      .next (s.retired c 3 1 (fun u => u.modCore s.cur (fun k => k.writeX xd ⟨BitVec.ofInt 64 wide.toInt, false⟩ 1))) ∧
    gives (.sel c xd pn xa xb) (if s.me.readP pn then a.val else (s.me.readX xb).val)
      (s.me.poisonP pn || (if s.me.readP pn then a.poison else (s.me.readX xb).poison)) ∧
    gives (.tagset c xd xa t) (BitVec.ofNat 64 (t.toNat * 2 ^ 60 + a.val.toNat % 2 ^ 60)) a.poison

-- Compares, predicates and masks --------------------------------------------------------------------------------------

namespace Sys2Proof
open Sys2Proof.Machine

/-- Table 5 of R111 on operands of `n` bits, signed as integers and unsigned as naturals. -/
def condTable (cond : Cond) {n : Nat} (a b : BitVec n) : Prop :=
  match cond with
  | .eq => a = b | .ne => a ≠ b | .lt => a.toInt < b.toInt | .ge => a.toInt ≥ b.toInt | .ltn => a.toNat < b.toNat | .gen => a.toNat ≥ b.toNat
  | .le => a.toInt ≤ b.toInt | .gt => a.toInt > b.toInt | .len => a.toNat ≤ b.toNat | .gtn => a.toNat > b.toNat
  | .tst => a &&& b ≠ 0 | .ntst => a &&& b = 0

/-- The width of a compare in bits (R111). -/
def cmpWidth (sz : CmpSize) : Nat := match sz with | .d => 64 | .w => 32 | .h => 16 | .b => 8

end Sys2Proof

open Sys2Proof Sys2Proof.Machine

/-- CMP and CMPI (R111, R112): Pt gets the condition at the width and Pf its opposite, both with the operands' poison; a write of P0 is
discarded (R16). -/
def Obligations.CompareResults : Prop :=
  ∀ (s : State) (c : Ctl) (cond : Cond) (sz : CmpSize) (pt pf : BitVec 3) (xa xb : Reg) (imm : BitVec 13) (r : Bool), s.alone c →
    let a := s.me.readX xa
    let b := s.me.readX xb
    let both (q : Bool) : State := s.retiredCore c 1 (fun k => { k with regs := (k.regs.setP pt r q).setP pf (!r) q })
    ((condTable cond (a.val.setWidth (cmpWidth sz)) (b.val.setWidth (cmpWidth sz)) ↔ r = true) →
      exec (.cmp c cond sz pt pf xa xb) s = .next (both (a.poison || b.poison))) ∧
    ((condTable cond a.val (BitVec.ofInt 64 imm.toInt) ↔ r = true) → exec (.cmpi c cond pt pf xa imm) s = .next (both a.poison))

/-- PLOG (R113) and the four forms of PMOV (R114). -/
def Sys2Proof.Claim.PredicateResults : Prop :=
  ∀ (s : State) (c : Ctl) (pd pa pb : BitVec 3) (tt : BitVec 4) (xd xa : Reg), s.alone c →
    let k := s.me
    let p (i : BitVec 3) : Nat := (k.readP i).toNat
    exec (.plog c pd pa pb tt) s = .next (s.retiredCore c 1 (fun m =>
      { m with regs := m.regs.setP pd (tt.getLsbD (2 * p pa + p pb)) (k.poisonP pa || k.poisonP pb) })) ∧
    exec (.pmov c (.rd xd)) s = .next (s.givesX c 1 xd
      ⟨BitVec.ofNat 64 (p 0 + 2 * p 1 + 4 * p 2 + 8 * p 3 + 16 * p 4 + 32 * p 5 + 64 * p 6 + 128 * p 7),
       k.poisonP 1 || k.poisonP 2 || k.poisonP 3 || k.poisonP 4 || k.poisonP 5 || k.poisonP 6 || k.poisonP 7⟩) ∧
    (∃ t, exec (.pmov c (.wr xa)) s = .next t ∧ ∀ i : BitVec 3, i ≠ 0 →
      t.me.readP i = (k.readX xa).val.getLsbD i.toNat ∧ t.me.poisonP i = (k.readX xa).poison) ∧
    exec (.pmov c (.set pd xa)) s = .next (s.retiredCore c 1 (fun m =>
      { m with regs := m.regs.setP pd (decide ((k.readX xa).val ≠ 0)) (k.readX xa).poison })) ∧
    exec (.pmov c (.get xd pa)) s = .next (s.givesX c 1 xd ⟨BitVec.ofNat 64 (p pa), k.poisonP pa⟩)

/-- KLOG (R115), KMOV (R116) and KPOP (R117): the mask written, bit by bit, and the counts. -/
def Sys2Proof.Claim.MaskResults : Prop :=
  ∀ (s : State) (c : Ctl) (kd ka kb : BitVec 3) (tt : BitVec 4) (xd xa xb : Reg) (fn : KpopFn), s.alone c →
    let k := s.me
    let wrote (i : Instr) (m : BitVec 128) (q : Bool) : Prop :=
      exec i s = .next (s.retiredCore c 1 (fun u => { u with regs := u.regs.setK kd m q }))
    (∃ m, wrote (.klog c kd ka kb tt) m (k.poisonK ka || k.poisonK kb) ∧ ∀ i < 128,
      m.getLsbD i = tt.getLsbD (2 * ((k.readK ka).getLsbD i).toNat + ((k.readK kb).getLsbD i).toNat)) ∧
    wrote (.kmov c (.pair kd xa xb)) ((k.readX xb).val ++ (k.readX xa).val) ((k.readX xa).poison || (k.readX xb).poison) ∧
    (∃ m, wrote (.kmov c (.first kd xa)) m (k.readX xa).poison ∧ ∀ i < 128, m.getLsbD i = decide (i < (k.readX xa).val.toNat)) ∧
    exec (.kmov c (.lo xd ka)) s = .next (s.givesX c 1 xd ⟨BitVec.ofNat 64 ((k.readK ka).toNat % 2 ^ 64), k.poisonK ka⟩) ∧
    exec (.kmov c (.hi xd ka)) s = .next (s.givesX c 1 xd ⟨BitVec.ofNat 64 ((k.readK ka).toNat / 2 ^ 64), k.poisonK ka⟩) ∧
    (∃ v : Nat, exec (.kpop c fn xd ka) s = .next (s.givesX c 2 xd ⟨BitVec.ofNat 64 v, k.poisonK ka⟩) ∧
      match fn with
      | .i8 => v = ((List.range 128).filter (fun j => (k.readK ka).getLsbD j)).length
      | .i16 => v = ((List.range 64).filter (fun j => (k.readK ka).getLsbD (2 * j))).length
      | .i32 => v = ((List.range 32).filter (fun j => (k.readK ka).getLsbD (4 * j))).length
      | .i64 => v = ((List.range 16).filter (fun j => (k.readK ka).getLsbD (8 * j))).length
      | .first => (k.readK ka = 0 ∧ v = 128) ∨ ((k.readK ka).getLsbD v = true ∧ v < 128 ∧ ∀ j < v, (k.readK ka).getLsbD j = false))

-- Pointers, loads and stores ------------------------------------------------------------------------------------------

/-- TAGCHK (R119): with clean operands it writes the offset of a pointer it accepts, and traps with cause 0x06 or 0x05 on one it does
not. That an extent whose last byte would carry into the tag bits raises 0x05 is the model's choice: log entry 138. -/
def Obligations.TagchkResult : Prop :=
  ∀ (s : State) (c : Ctl) (xd xa xb : Reg) (m : BitVec 4), s.alone c → (s.me.readX xa).poison = false → (s.me.readX xb).poison = false →
    let p := (s.me.readX xa).val.toNat
    let n := (s.me.readX xb).val.toNat
    let tag := p / 2 ^ 60
    let off := p % 2 ^ 60
    let size := if tag = 0 then 2 ^ 19 else if tag = 1 then 2 ^ 22 else 2 ^ 13
    let e := exec (.tagchk c xd xa xb m) s
    (tag > 3 ∨ m.getLsbD tag = false → e = .next (s.trapped c ⟨0x06, 0, BitVec.ofNat 64 p⟩)) ∧
    (tag ≤ 3 → m.getLsbD tag = true →
      (tag = 2 → e = if p % 2 ^ 48 + n > 2 ^ 48 then .next (s.trapped c ⟨0x05, 0, BitVec.ofNat 64 p⟩)
                     else .next (s.givesX c 1 xd ⟨BitVec.ofNat 64 (p % 2 ^ 48), false⟩)) ∧
      (tag ≠ 2 → e = if off ≥ size ∨ (n > 0 ∧ off + n - 1 ≥ size) then .next (s.trapped c ⟨0x05, 0, BitVec.ofNat 64 p⟩)
                     else .next (s.givesX c 1 xd ⟨BitVec.ofNat 64 off, false⟩)))

namespace Sys2Proof
open Sys2Proof.Machine

/-- Bytes of an access size (R72). -/
def sizeTable (z : MemSize) : Nat := match z with | .b | .bn => 1 | .h | .hn => 2 | .w | .wn => 4 | .d => 8

/-- A loaded number of the access size as a register value: B, H and W sign-extended, the others zero-extended (R121). -/
def loadTable (z : MemSize) (v : Nat) : Word :=
  match z with
  | .b | .h | .w => BitVec.ofInt 64 ((v : Int).bmod (2 ^ (8 * sizeTable z)))
  | _ => BitVec.ofNat 64 v

/-- The addresses of the scalar memory forms (R120, R124). -/
def addrOf (xb : Word) (off : BitVec 11) (z : MemSize) : Word := BitVec.ofInt 64 (xb.toNat + off.toInt * sizeTable z)
/-- The indexed address (R124): the index is signed. -/
def addrIx (xa xb : Word) (z : MemSize) : Word := BitVec.ofInt 64 (xa.toNat + xb.toInt * sizeTable z)

/-- An address a form accepts: its tag, its offset in the space, its alignment (R120, R28). -/
def fits (p : Word) (tag space : Nat) (z : MemSize) : Prop :=
  p.toNat / 2 ^ 60 = tag ∧ p.toNat % 2 ^ 60 < space ∧ p.toNat % sizeTable z = 0

/-- The register write of a load with what comes before it: the draw of an injector (R326), and the berths that pass their landing check
(R302). -/
def Machine.State.loaded (s : State) (c : Ctl) (bound : Nat) (xd : Reg) (v : XW) (m : InjMem) (g : Nat) (ns : List (BitVec 5)) : State :=
  s.retired c 2 bound (fun t => (t.injectReads s.cur m [g]).modCore s.cur (fun k => (k.passBerths ns).writeX xd v bound)) (s.me.xLands xd bound)

end Sys2Proof

open Sys2Proof Sys2Proof.Machine

/-- LD and LDX (R120, R121, R124, R302): a scratchpad load reads `size` bytes as the program thread sees them, extended, poisoned as the
granule is after the draw of its injector (R326), with a bound of 4; the berths whose check it passes pass, a berth that has not landed
freezes it, and a wrong tag traps with cause 0x0A; a load of plane constants reads the constants region. Choices of the model: log entry 158. -/
def Sys2Proof.Claim.LoadResults : Prop :=
  ∀ (s : State) (c : Ctl) (sz : MemSize) (xd xa xb : Reg) (cls : BitVec 4) (off : BitVec 11), s.alone c →
    (s.me.readX xb).poison = false →
    let k := s.me
    let means (i : Instr) (p : Word) : Prop :=
      let o := p.toNat % 2 ^ 60
      (fits p 0 (2 ^ 19) sz →
        let v := (k.afterDraws .pad [o / 32]).viewBytes false o (sizeTable sz)
        match k.checkBerths (k.berthsAt o (sizeTable sz)) with
        | .pass ns => exec i s = .next (s.loaded c 4 xd ⟨loadTable sz v.1, v.2⟩ .pad (o / 32) ns)
        | .bad n => exec i s = .next (s.trapped c ⟨0x0A, n.setWidth 16, 0⟩)
        | .late n => exec i s = .next (s.waiting c (.buffer n c.slot.num))) ∧
      (fits p 3 (2 ^ 13) sz →
        exec i s = .next (s.givesX c 4 xd ⟨loadTable sz (leNat (k.active.bytes.readRun (0x10000 + o) (sizeTable sz))), false⟩))
    means (.ld c sz xd xb cls off) (addrOf (k.readX xb).val off sz) ∧
    ((k.readX xa).poison = false → means (.ldx c sz xd xa xb cls) (addrIx (k.readX xa).val (k.readX xb).val sz))

namespace Sys2Proof
open Sys2Proof.Machine

/-- What a hold column word reads as at its home (R328): as stored, corrected, poisoned, or with three or more bits in error a free value. -/
def homeRead (u : Core) (g : Nat) : Gran × Bool :=
  let err := (SMap.get 0 u.holdErr g).toNat
  if err < 3 then (u.hold.gran g, u.hold.poisoned g || err == 2) else (Config.eccMiscorrect g, Config.eccReported g || u.hold.poisoned g)

/-- Whether a read of a hold column word logs a corrected error (R323, R328). -/
def homeLogs (k : Core) (g : Nat) : Bool :=
  let err := (SMap.get 0 k.holdErr g).toNat
  err == 1 || (err == 3 && !Config.eccReported g && Config.eccCorrected g)

end Sys2Proof

open Sys2Proof Sys2Proof.Machine

/-- HLD (R120, R121, R123, R326, R328): the column word as its errors leave it after the draw of its injector: as stored, corrected and
logged, or poisoned; with three or more bits in error a free value; under the stores of the thread still on their way. Choices of the model:
log entry 11. -/
def Sys2Proof.Claim.HldResult : Prop :=
  ∀ (s : State) (c : Ctl) (sz : MemSize) (xd xb : Reg) (cls : BitVec 4) (off : BitVec 11), s.alone c →
    (s.me.readX xb).poison = false → fits (addrOf (s.me.readX xb).val off sz) 1 (2 ^ 22) sz →
    let k := s.me
    let o := (addrOf (k.readX xb).val off sz).toNat % 2 ^ 60
    let g := o / 32
    let w := k.viewOver true g (homeRead (k.afterDraws .hold [g]) g)
    let v : XW := ⟨loadTable sz (w.1.toNat / 2 ^ (8 * (o % 32)) % 2 ^ (8 * sizeTable sz)), w.2⟩
    exec (.hld c sz xd xb cls off) s = .next (s.retired c 2 12 (fun t =>
      let t1 := (t.injectReads s.cur .hold [g]).modCore s.cur (fun k => k.writeX xd v 12)
      if homeLogs k g then t1.noteHold s.cur g false else t1) (k.xLands xd 12))

/-- ST, STX and HST (R120, R122, R124): the low bytes of Xd replace the bytes at the address and no others, a poisoned Xd poisons the
granule and a clean one leaves its poison, and the store is performed by the program thread at once. An HST whose granule the drydock is
still to copy waits (R367). Choices of the model: log entry 6. -/
def Obligations.StoreResults : Prop :=
  ∀ (s : State) (c : Ctl) (sz : MemSize) (xd xa xb : Reg) (cls : BitVec 4) (off : BitVec 11), s.alone c →
    (s.me.readX xb).poison = false →
    let k := s.me
    let d := k.readX xd
    let stores (hold : Bool) (p : Word) (t : State) : State :=
      let o := p.toNat % 2 ^ 60
      (t.modCore s.cur (fun m => m.store hold (o / 32)
        (BitVec.ofNat 256 (d.val.toNat % 2 ^ (8 * sizeTable sz) * 2 ^ (8 * (o % 32)))) (runMask (o % 32) (sizeTable sz))
        (if d.poison then some true else none) cls s.tnow (s.choice != 0))).chosen
    (let p := addrOf (k.readX xb).val off sz
     fits p 0 (2 ^ 19) sz → exec (.st c sz xd xb cls off) s = .next (s.retired c 2 1 (stores false p))) ∧
    ((k.readX xa).poison = false →
      let p := addrIx (k.readX xa).val (k.readX xb).val sz
      fits p 0 (2 ^ 19) sz → exec (.stx c sz xd xa xb cls) s = .next (s.retired c 2 1 (stores false p))) ∧
    (let p := addrOf (k.readX xb).val off sz
     let g := p.toNat % 2 ^ 60 / 32
     fits p 1 (2 ^ 22) sz →
      exec (.hst c sz xd xb cls off) s =
        if s.cowHeld s.cur g then .next (s.waiting c (.cow g))
        else .next (s.retired c 2 1 (fun t => stores true p (t.injectReads s.cur .hold [g]))))

/-- The scalar faults of a memory operand (R99, R120, R124): poison of an address register, of LDX and STX of either one, then the tag, then the
offset, then alignment, each with the failing pointer in FADDR. -/
def Obligations.MemoryOperandTraps : Prop :=
  ∀ (s : State) (c : Ctl) (sz : MemSize) (xd xa xb : Reg) (cls : BitVec 4) (off : BitVec 11), s.alone c →
    let a := s.me.readX xa
    let b := s.me.readX xb
    let faults (bad : Bool) (p : Word) (tags : List Nat) : Option SlotFault :=
      let tag := p.toNat / 2 ^ 60
      if bad then some ⟨0x08, 0, 0⟩
      else if tag ∉ tags then some ⟨0x06, 0, p⟩
      else if p.toNat % 2 ^ 60 ≥ (if tag = 0 then 2 ^ 19 else if tag = 1 then 2 ^ 22 else 2 ^ 13) then some ⟨0x05, 0, p⟩
      else if p.toNat % sizeTable sz ≠ 0 then some ⟨0x04, 0, p⟩ else none
    let cause := faults b.poison (addrOf b.val off sz)
    let causeIx := faults (a.poison || b.poison) (addrIx a.val b.val sz)
    (∀ f, causeIx [0, 3] = some f → exec (.ldx c sz xd xa xb cls) s = .next (s.trapped c f)) ∧
    (∀ f, causeIx [0] = some f → exec (.stx c sz xd xa xb cls) s = .next (s.trapped c f)) ∧
    (∀ f, cause [0, 3] = some f → exec (.ld c sz xd xb cls off) s = .next (s.trapped c f)) ∧
    (∀ f, cause [0] = some f → exec (.st c sz xd xb cls off) s = .next (s.trapped c f)) ∧
    (∀ f, cause [1] = some f → exec (.hld c sz xd xb cls off) s = .next (s.trapped c f) ∧
      exec (.hst c sz xd xb cls off) s = .next (s.trapped c f))

-- Control transfer ----------------------------------------------------------------------------------------------------

/-- BR, CALL and JMPR (R125-R128): control goes to the target with a bubble, CALL and JMPR write the offset of the next sequential bundle;
JMPR with a poisoned target register traps with cause 0x08. -/
def Sys2Proof.Claim.TransferResults : Prop :=
  ∀ (s : State) (c : Ctl) (disp : BitVec 28) (xd xa : Reg), s.alone c →
    let k := s.me
    let target := BitVec.ofInt 64 (k.pc.toNat + 4 * disp.toInt)
    let links (n : Reg) (t : State) : State := t.modCore s.cur (fun m => m.writeX n ⟨k.pc + 8, false⟩ 1)
    exec (.br c disp) s = .next (s.transferred c 1 target id) ∧
    exec (.call c disp) s = .next (s.transferred c 1 target (links 31)) ∧
    exec (.jmpr c xd xa) s =
      if (k.readX xa).poison then .next (s.trapped c ⟨0x08, 0, 0⟩) else .next (s.transferred c 1 (k.readX xa).val (links xd))

/-- LOOP (R129, R69): LCn and LEn are set and control goes on, or with a count of zero to the exit; an exit that is no marked header raises
0x02; in handler mode and at an exit not above the next bundle it is illegal (0x01). Choices of the model: log entry 40. -/
def Sys2Proof.Claim.LoopResult : Prop :=
  ∀ (s : State) (c : Ctl) (n : Bool) (xa : Reg) (disp : BitVec 18), s.alone c →
    let k := s.me
    let exit := BitVec.ofInt 64 (k.pc.toNat + 4 * disp.toInt)
    let next := k.pc + 8
    let cnt := k.readX xa
    let le (on : Bool) : BitVec 33 := BitVec.ofNat 33 (on.toNat * 2 ^ 32 + next.toNat / 4 % 2 ^ 16 * 2 ^ 16 + exit.toNat / 4 % 2 ^ 16)
    let sets (on : Bool) (t : State) : State := t.modCore s.cur (fun m => { m with csr :=
      if n then { m.csr with lc := m.csr.lc.set 1 cnt.val, le := m.csr.le.set 1 (le on) }
      else { m.csr with lc := m.csr.lc.set 0 cnt.val, le := m.csr.le.set 0 (le on) } })
    exec (.loop c n xa disp) s =
      if k.active.marked exit.toNat = false then .next (s.trapped c ⟨0x02, 0, k.pc⟩)
      else if k.csr.hm = true ∨ exit.toInt ≤ next.toInt then .next (s.trapped c ⟨0x01, 0, 0⟩)
      else if cnt.poison then .next (s.trapped c ⟨0x08, 0, 0⟩)
      else if cnt.val = 0 then .next (s.transferred c 1 exit (sets false))
      else .next (s.retired c 2 1 (sets true))

/-- The back edge of a loop (R131), seen through a NOP in task mode: where loop 1 ends at the next bundle and its count is above one, the
count falls by one and control goes to its start, as a transfer from this bundle does for a fault there (R86); where the count is one or none,
the loop is switched off and loop 0 is checked in the same way; otherwise control goes on. -/
def Obligations.BackEdge : Prop :=
  ∀ (s : State) (c : Ctl), s.alone c → s.me.csr.hm = false →
    let k := s.me
    let next := k.pc + 8
    let ends (le : BitVec 33) : Prop := le.getLsbD 32 = true ∧ le.toNat % 2 ^ 16 * 4 = next.toNat
    let start (le : BitVec 33) : Word := BitVec.ofNat 64 (le.toNat / 2 ^ 16 % 2 ^ 16 * 4)
    let lc0 := k.csr.lc[0]; let lc1 := k.csr.lc[1]; let le0 := k.csr.le[0]; let le1 := k.csr.le[1]
    ∃ t, exec (.nop c) s = .next t ∧
      let r := t.me
      (ends le1 → lc1.toNat > 1 →
        r.pc = start le1 ∧ r.csr.lc[1] = lc1 - 1 ∧ r.csr.le[1] = le1 ∧ r.csr.lc[0] = lc0 ∧ r.csr.le[0] = le0 ∧ r.via = some k.pc) ∧
      ((ends le1 → lc1.toNat ≤ 1) →
        (ends le1 → r.csr.lc[1] = 0 ∧ r.csr.le[1].getLsbD 32 = false) ∧ (¬ ends le1 → r.csr.lc[1] = lc1 ∧ r.csr.le[1] = le1) ∧
        (ends le0 → lc0.toNat > 1 → r.pc = start le0 ∧ r.csr.lc[0] = lc0 - 1 ∧ r.csr.le[0] = le0 ∧ r.via = some k.pc) ∧
        (ends le0 → lc0.toNat ≤ 1 → r.pc = next ∧ r.csr.lc[0] = 0 ∧ r.csr.le[0].getLsbD 32 = false ∧ r.via = none) ∧
        (¬ ends le0 → r.pc = next ∧ r.csr.lc[0] = lc0 ∧ r.csr.le[0] = le0 ∧ r.via = none)) ∧
      r.bubble = false ∧ r.csr.tcyc = k.csr.tcyc + 1

/-- NOP with a true guard (R101): nothing but the retirement, the arrival included. A header-only bundle (R63): one task cycle and the next
bundle, after a flip of the planes at a drain point while the token is held in task mode (R64). That execution goes on at the next offset,
without a new fetch from the other plane at the drain point's own offset, is the model's choice: log entry 120. -/
def Sys2Proof.Claim.NopAndEmptyBundle : Prop :=
  ∀ (s : State) (c : Ctl) (dp : Bool),
    (s.alone c → exec (.nop c) s = .next (s.retired c 2 1 id)) ∧
    (let k := s.me
     let k1 := if dp && k.swreq && !k.csr.hm then { k with act := !k.act, shrdy := false, swreq := false } else k
     let b := k.backEdge 1
     exec (.headerOnlyBundle dp) s =
       .next (s.setCore s.cur { (k1.leave b).taskCycle with pc := b.2.2.2.2, via := k.backVia 1, bubble := false }))

-- Control and status registers ----------------------------------------------------------------------------------------

/-- CSRR, CSRW and CSRX (R132, R20, R98), and CSRW of DOM1 to DOM3 (R250): at an address the mode may use and with a clean value the read
gives the register's value with a bound of 2 and the write writes it; a reserved address raises 0x01 and HSAVE0 to HSAVE3 in task mode
0x03, both with the address in FADDR; a poisoned value raises 0x08; and a handler's DOM value that is rejected raises 0x01, in all three. The
model's choices: a poisoned value comes before the address (log entry 128), and a write of LC or LE in the bundle that ends a loop comes after the
back edge's own (log entry 48). -/
def Obligations.CsrResults : Prop :=
  ∀ (s : State) (c : Ctl) (a : BitVec 12) (l : Level) (xd xa : Reg), s.alone c →
    let v := s.me.readX xa
    let old := s.csrRead s.cur a
    let priv : Prop := 5 ≤ a.toNat ∧ a.toNat ≤ 8 ∧ s.me.csr.hm = false
    let addr (code : BitVec 8) : SlotFault := ⟨code, 0, a.setWidth 64⟩
    let rejects (b : BitVec 12) (l : Level) : Prop := b.toNat = 0x021 + l.ix.val ∧ s.me.csr.hm = true ∧ s.domRejected s.cur l v.val = true
    let write (b : BitVec 12) (t : State) : State := t.modCore s.cur (fun k => k.writeCsr b v.val)
    let d : BitVec 12 := 0x021 + BitVec.ofNat 12 l.ix.val
    (old = none →
      exec (.csrr c xd a) s = .next (s.trapped c (addr 0x01)) ∧
      (v.poison = false → exec (.csrw c a xa) s = .next (s.trapped c (addr 0x01)) ∧ exec (.csrx c xd a xa) s = .next (s.trapped c (addr 0x01)))) ∧
    (priv →
      exec (.csrr c xd a) s = .next (s.trapped c (addr 0x03)) ∧
      (v.poison = false → exec (.csrw c a xa) s = .next (s.trapped c (addr 0x03)) ∧ exec (.csrx c xd a xa) s = .next (s.trapped c (addr 0x03)))) ∧
    (v.poison = true → exec (.csrw c a xa) s = .next (s.trapped c ⟨0x08, 0, 0⟩) ∧ exec (.csrx c xd a xa) s = .next (s.trapped c ⟨0x08, 0, 0⟩) ∧
      exec (.domWrite c l xa) s = .next (s.trapped c ⟨0x08, 0, 0⟩)) ∧
    (∀ w, old = some w → ¬ priv →
      exec (.csrr c xd a) s = .next (s.givesX c 2 xd ⟨w, false⟩) ∧
      (v.poison = false → rejects a l →
        exec (.csrw c a xa) s = .next (s.trapped c (addr 0x01)) ∧ exec (.csrx c xd a xa) s = .next (s.trapped c (addr 0x01))) ∧
      (v.poison = false → (∀ l, ¬ rejects a l) →
        exec (.csrw c a xa) s = .next (s.retired c 2 1 (write a)) ∧
        exec (.csrx c xd a xa) s =
          .next (s.retired c 2 2 (fun t => write a (t.modCore s.cur (fun k => k.writeX xd ⟨w, false⟩ 2))) (s.me.xLands xd 2)))) ∧
    (v.poison = false →
      (rejects d l → exec (.domWrite c l xa) s = .next (s.trapped c ⟨0x01, 0, d.setWidth 64⟩)) ∧
      (¬ rejects d l → exec (.domWrite c l xa) s = .next (s.retired c 2 1 (write d))))

/-- What a write leaves in a register (R20, R21, R8): in handler mode each register read and written whole reads back the value in its width;
STATUS keeps its read-only bits; FPFLAGS and BNDHIT lose the bits written as ones; DOM1 to DOM3 keep zeros in their reserved bits, and a new
value begins a membership with phase 0 and no arrival (R250, R296); a task-mode write of a register that is read-only to
tasks, and any write of one that is read-only to both, changes nothing. -/
def Obligations.CsrWriteRules : Prop :=
  ∀ (s : State) (c : CoreId) (v : Word),
    let wr (a : Nat) : State := s.modCore c (fun k => k.writeCsr (BitVec.ofNat 12 a) v)
    let rd (t : State) (a : Nat) : Option Word := t.csrRead c (BitVec.ofNat 12 a)
    let reads (a bits : Nat) : Prop := rd (wr a) a = some (BitVec.ofNat 64 (v.toNat % 2 ^ bits))
    ((s.core c).csr.hm = true →
      (∀ a ∈ [0x002, 0x003, 0x004, 0x005, 0x006, 0x007, 0x008, 0x014], reads a 64) ∧
      rd (wr 0x000) 0x000 = some (BitVec.ofNat 64 ((s.core c).csr.status.toNat / 8 * 8 + v.toNat / 2 % 4 * 2 + 1)) ∧
      rd (wr 0x001) 0x001 = some (v &&& 0xFFFF07FF)) ∧
    (∀ a ∈ [0x018, 0x019, 0x0A0, 0x0C0], reads a 64) ∧ (∀ a ∈ [0x015, 0x050, 0x0D0], reads a 32) ∧ (∀ a ∈ [0x01A, 0x01B], reads a 33) ∧
    reads 0x020 2 ∧ reads 0x030 5 ∧ (∀ i < 16, reads (0x040 + i) 64) ∧
    (∀ e ∈ [(0x031, 7), (0x051, 16)], ∃ w, rd s e.1 = some w ∧ rd (wr e.1) e.1 = some (w &&& ~~~ BitVec.ofNat 64 (v.toNat % 2 ^ e.2))) ∧
    ((s.core c).csr.hm = true → ∀ l : Level, let a := 0x021 + l.ix.val
      let kept : Word := v &&& (if l = .l3 then 0xFFFFFFFFC000FFFF else 0xFFFFFFFFDF3F1F3F)
      let r := ((wr a).core c).csr
      rd (wr a) a = some kept ∧ (∀ m, m ≠ l → r.domOf m = (s.core c).csr.domOf m ∧ r.dphOf m = (s.core c).csr.dphOf m) ∧
        ((s.core c).csr.domOf l = kept → wr a = s) ∧ ((s.core c).csr.domOf l ≠ kept → r.dphOf l = 0 ∧ ((wr a).core c).lastArr[l.ix] = none)) ∧
    ((s.core c).csr.hm = false → ∀ a ∈ [0x000, 0x001, 0x002, 0x003, 0x004, 0x014, 0x021, 0x022, 0x023], wr a = s) ∧
    (∀ a ∈ [0x010, 0x011, 0x012, 0x013, 0x025, 0x026, 0x027, 0x060, 0x061, 0x070, 0x090, 0x091, 0x0B0], wr a = s)

-- Semaphores, fences, berths, time ------------------------------------------------------------------------------------

namespace Sys2Proof
open Sys2Proof.Machine

/-- Adding to a semaphore (R23, R239): a 32-bit value that saturates at 0 and 2^32 - 1 and then sets SAT. -/
def addedTo (m : Sem) (a : Int) : Sem :=
  let v : Int := m.val.toNat + a
  { m with val := BitVec.ofNat 32 (min (2 ^ 32 - 1) (max 0 v).toNat), sat := m.sat || decide (v < 0) || decide (v > 2 ^ 32 - 1) }

end Sys2Proof

open Sys2Proof Sys2Proof.Machine

/-- SEMADD, SEMWAIT and SEMRD (R240-R242): the saturating add of the signed 32-bit addend; a wait while SEMn is below t, and where it is
not, cause 0x12 with CHK and an error bit, else the decrement with DEC and the arrival at once (R70); and the read of SEMST and value,
clearing DONE, ERR and SAT with CLR. -/
def Obligations.SemaphoreResults : Prop :=
  ∀ (s : State) (c : Ctl) (n : BitVec 6) (xd xa : Reg) (imm : BitVec 6) (dec chk clr : Bool), s.alone c →
    let m := s.me.sem n
    let x := s.me.readX xa
    let t := x.val.toNat % 2 ^ 32
    let sets (f : Sem → Sem) (u : State) : State := u.modCore s.cur (fun k => k.modSem n f)
    exec (.semadd c n xa imm) s = (if x.poison then .next (s.trapped c ⟨0x08, 0, 0⟩)
      else .next (s.retired c 2 1 (sets (fun m => addedTo m ((x.val.toNat + imm.toInt : Int).bmod (2 ^ 32)))))) ∧
    exec (.semwait c n xa dec chk) s =
      (if m.val.toNat < t then .next (s.waiting c (.sem n (BitVec.ofNat 32 t)))
       else if x.poison then .next (s.trapped c ⟨0x08, 0, 0⟩)
       else if chk = true ∧ m.err ≠ 0 then .next (s.trapped c ⟨0x12, n.setWidth 16, 0⟩)
       else .next (s.waited c (if dec then sets (fun m => addedTo m (-t)) else id))) ∧
    exec (.semrd c xd n clr) s = .next (s.retired c 2 2 (fun u =>
      let r := BitVec.ofNat 64 ((m.sat.toNat * 2 ^ 16 + m.err.toNat * 2 + m.done.toNat) * 2 ^ 32 + m.val.toNat)
      let u1 := if clr then sets (fun m => { m with sat := false, err := 0, done := false }) u else u
      u1.modCore s.cur (fun k => k.writeX xd ⟨r, false⟩ 2)) (s.me.xLands xd 2))

/-- FENCE and FENCE.wait (R243, R275): a barrier for the masked classes enters the engine queue, and the buffered stores of those classes are
performed for all agents; FENCE.wait waits while a command of a masked class, or a matrix write of class 0 where it is masked, is still
to complete. -/
def Obligations.FenceResults : Prop :=
  ∀ (s : State) (c : Ctl) (mask : BitVec 16), s.alone c →
    let k := s.me
    let busy : Prop := (∃ q ∈ k.queue, mask.getLsbD q.cls.toNat = true) ∨ (mask.getLsbD 0 = true ∧ k.mxWrites [k.mxSpan] k.mx.otherDue = true)
    (∃ t, exec (.fence c mask) s = .next t ∧ (∃ f ∈ t.me.fences, f.mask = mask ∧
        f.before = (k.queue.filter (fun q => mask.getLsbD q.cls.toNat)).map (·.id)) ∧
      (∀ b ∈ t.me.buf, mask.getLsbD b.cls.toNat = false) ∧ t.me.queue = k.queue ∧ t.me.regs = k.regs) ∧
    (busy → exec (.fenceWait c mask) s = .next (s.waiting c (.fence mask))) ∧
    (¬ busy → exec (.fenceWait c mask) s = exec (.fence c mask) s)

/-- The berth instructions (R244, R246): arm writes the descriptor with both tags from Xb, ATAG one below ETAG, and starts a landing check;
tag writes ETAG of an armed berth; off disarms; LAND passes, waits or traps as the tags say. -/
def Obligations.BerthResults : Prop :=
  ∀ (s : State) (c : Ctl) (n : BitVec 5) (xa xb : Reg), s.alone c →
    let k := s.me
    let b := k.berth n
    let d := (k.readX xa).val
    let tag : BitVec 16 := (k.readX xb).val.setWidth 16
    let base := d.toNat % 2 ^ 14
    let lenM1 := d.toNat / 2 ^ 16 % 2 ^ 14
    let sets (f : Berth → Berth) : Host.Outcome State Fault Refusal := .next (s.retiredCore c 1 (fun k => k.modBerth n f))
    let bad : Host.Outcome State Fault Refusal := .next (s.trapped c ⟨0x0A, n.setWidth 16, 0⟩)
    exec (.berthArm c n xa xb) s =
      (if (k.readX xa).poison || (k.readX xb).poison then .next (s.trapped c ⟨0x08, 0, 0⟩)
       else if 32 * (base + lenM1 + 1) > 2 ^ 19 then .next (s.trapped c ⟨0x05, 0, BitVec.ofNat 64 (32 * base)⟩)
       else sets (fun _ => ⟨BitVec.ofNat 14 base, BitVec.ofNat 14 lenM1, true, d.getLsbD 33, d.getLsbD 34, d.getLsbD 35, tag, tag - 1, true⟩)) ∧
    exec (.berthTag c n xb) s =
      (if (k.readX xb).poison then .next (s.trapped c ⟨0x08, 0, 0⟩)
       else if b.arm = false then bad else sets (fun b => { b with etag := tag, pending := true })) ∧
    exec (.berthOff c n) s = sets (fun b => { b with arm := false }) ∧
    exec (.land c n) s =
      (if b.arm = false then bad
       else if b.atag = b.etag then .next (s.waited c (fun t => t.modCore s.cur (fun k => k.modBerth n (fun b => { b with pending := false }))))
       else if b.atag + 1 = b.etag then .next (s.waiting c (.land n)) else bad)

/-- TICK and WAITT (R247, R248): the counters as they stand; a wait until TNOW reaches Xa, or with REL until Xa ticks after the first cycle in
which the bundle could issue, that of a wait before a trap included. -/
def Sys2Proof.Claim.TimeResults : Prop :=
  ∀ (s : State) (c : Ctl) (fn : TickFn) (rel : Bool) (xd xa : Reg), s.alone c →
    let k := s.me
    let began : Word := match k.first, k.relT with
      | some f, _ => f.at_
      | none, some t => if t.1 = k.pc ∧ k.csr.hm = false then t.2 else s.tnow
      | none, none => s.tnow
    exec (.tick c fn xd) s = .next (s.givesX c 1 xd ⟨match fn with | .tnow => s.tnow | .tcyc => k.csr.tcyc | .slip => k.csr.slip, false⟩) ∧
    (∀ T : Word, (rel = false → T = (k.readX xa).val) → (rel = true → T = began + (k.readX xa).val) →
      exec (.waitt c rel xa) s =
        (if s.tnow.toNat < T.toNat then .next (s.waiting c (.time T))
         else if (k.readX xa).poison then .next (s.trapped c ⟨0x08, 0, 0⟩) else .next (s.waited c id)))

/-- DOMARV and DOMWAIT (R249, R250): an arrival at the barrier of the level's domain, made at once, with the phase number recorded; a wait
while the phase has not passed the recorded number; and at a level without a domain cause 0x01 with FADDR 0x020 + l. Choices of the model: log entries 4 and 30, and 147, phase numbers exactly
2^31 apart. -/
def Sys2Proof.Claim.BarrierResults : Prop :=
  ∀ (s : State) (c : Ctl) (l : Level), s.alone c →
    let k := s.me
    let none' : SlotFault := ⟨0x01, 0, BitVec.ofNat 64 (0x021 + l.ix.val)⟩
    let valid : Prop := (k.csr.domOf l).getLsbD 31 = true
    (valid → exec (.domarv c l) s = .next (s.retired c 2 1 (fun t => t.arrive s.cur l))) ∧
    (¬ valid → exec (.domarv c l) s = .next (s.trapped c none') ∧ exec (.domwait c l) s = .next (s.trapped c none')) ∧
    (valid →
      (k.lastArr[l.ix] = none → exec (.domwait c l) s = .next (s.waited c id)) ∧
      (∀ a, k.lastArr[l.ix] = some a →
        exec (.domwait c l) s = if (a - k.csr.dphOf l).toInt < 0 then .next (s.waited c id) else .next (s.waiting c (.dom l))))

-- Traps, tasks, phases, planes ----------------------------------------------------------------------------------------

/-- TRAP and BRK in task mode (R257, R258): the handler is entered at HVEC with CAUSE, EPC and FADDR written, HM set and HVX and HMX cleared.
After TRAP, whose bundle has completed, EPC is the offset that would have issued next; after BRK, whose bundle has no effect, it is the
bundle's own. Registers, predicates, masks and vectors are unchanged but for results already on their way. While one of those results waits for
the copy of a granule the drydock has marked, the trap is noted and the handler not entered (R191, R367). Choices of the model: log entry 9. -/
def Sys2Proof.Claim.TrapEntry : Prop :=
  ∀ (s : State) (c : Ctl) (code : BitVec 16), s.alone c → s.me.csr.hm = false →
    let k := s.me
    let enters (i : Instr) (cause : BitVec 8) (epc : Word) : Prop :=
      (s.landHeld s.cur = true → ∃ t, exec i s = .next t ∧ t.me.csr.hm = false ∧ t.me.csr.cause = k.csr.cause ∧ t.me.pend = k.pend ∧
        t.me.entering = some { code := cause, slot := c.slot.num, detail := code, epc := epc, faddr := 0 }) ∧
      (s.landHeld s.cur = false → ∃ t, exec i s = .next t ∧ t.me.pc = k.csr.hvec ∧
        t.me.csr.cause = BitVec.ofNat 64 (code.toNat * 2 ^ 16 + c.slot.num * 2 ^ 8 + cause.toNat) ∧
        t.me.csr.epc = epc ∧ t.me.csr.faddr = 0 ∧ t.me.csr.hm = true ∧ t.me.csr.hvx = false ∧ t.me.csr.hmx = false ∧
        t.me.csr.hvec = k.csr.hvec ∧ t.me.csr.tcyc = k.csr.tcyc + 1 ∧ t.me.pend = [] ∧ (k.pend = [] → t.me.regs = k.regs) ∧ t.me.sems = k.sems ∧
        t.me.run = k.run ∧ t.me.bundle = none)
    (c.slot = .sc → enters (.trap c code) 0x0F (k.backEdge 2).2.2.2.2) ∧ enters (.brk c code) 0x10 k.pc

/-- A trap in handler mode enters no second handler (R14): the task is abandoned, a record with the new CAUSE, the EPC of the bundle and
the EPC and CAUSE saved at the first trap goes to the firmware, and the core is idle, once no result on its way waits for a copy (R191). -/
def Sys2Proof.Claim.TrapInHandlerAbandons : Prop :=
  ∀ (s : State) (c : Ctl) (code : BitVec 16), s.alone c → s.me.csr.hm = true → s.landHeld s.cur = false →
    ∃ t, exec (.brk c code) s = .next t ∧ t.me.run = .idle ∧ t.me.csr.hm = false ∧
      t.fw = s.fw ++ [.abandoned s.cur (BitVec.ofNat 64 (code.toNat * 2 ^ 16 + c.slot.num * 2 ^ 8 + 0x10)) s.me.pc s.me.csr.epc s.me.csr.cause]

/-- ERET (R259, R128): in handler mode control returns to the offset EPC held at issue, out of handler mode with HVX and HMX clear, after a
bubble; in task mode it raises cause 0x03; at an offset that is no marked header the return becomes a trap with cause 0x02. Choices of the model: log entry 9. -/
def Obligations.EretResult : Prop :=
  ∀ (s : State) (c : Ctl), s.alone c →
    let k := s.me
    (k.csr.hm = false → exec (.eret c) s = .next (s.trapped c ⟨0x03, 0, 0⟩)) ∧
    (k.csr.hm = true → k.active.marked k.csr.epc.toNat = true →
      ∃ t, exec (.eret c) s = .next t ∧ t.me.pc = k.csr.epc ∧ t.me.csr.hm = false ∧ t.me.csr.hvx = false ∧ t.me.csr.hmx = false ∧
        t.me.via = some k.pc ∧ t.me.bubble = true ∧ t.me.regs = k.regs ∧ t.me.bank = k.bank ∧ t.me.csr.epc = k.csr.epc ∧
        t.me.csr.cause = k.csr.cause ∧ t.me.mx.parked = [])

/-- SPAWN (R251, R292): with the queue's grant, clean operands, a weight the task holds, a target in its partition and no reserved bit, the
entry joins the target's queue and the weight leaves the spawner; without the grant it waits; and each failing check raises its cause. -/
def Sys2Proof.Claim.SpawnResult : Prop :=
  ∀ (s : State) (c : Ctl) (xd xa xb : Reg), s.alone c →
    let k := s.me
    let tw := k.readX xa
    let w : BitVec 32 := (k.readX xd).val.setWidth 32
    let target : CoreId := BitVec.ofNat 11 (tw.val.toNat % 2 ^ 11)
    exec (.spawn c xd xa xb) s =
      (if s.spawnGrant s.cur target = false then .next (s.waiting c (.spawn target))
       else if (k.readX xd).poison || tw.poison || (k.readX xb).poison then .next (s.trapped c ⟨0x08, 0, 0⟩)
       else if w = 0 ∨ k.csr.weight.toNat < w.toNat then .next (s.trapped c ⟨0x0D, 0, 0⟩)
       else if s.ownsCore k.part target = false then .next (s.trapped c ⟨0x07, 0, tw.val⟩)
       else if tw.val.toNat / 2 ^ 16 % 4 ≠ 0 then .next (s.trapped c ⟨0x04, 0, tw.val⟩)
       else .next (s.retired c 2 1 (fun t =>
         (t.modCore s.cur (fun m => { m with csr := { m.csr with weight := m.csr.weight - w }, spawnSeq := m.spawnSeq + 1 })).modCore target
           (fun m => { m with
             spawnq := m.spawnq ++ [⟨BitVec.ofNat 16 (tw.val.toNat / 2 ^ 16), (k.readX xb).val, w, k.csr.rootloc, 1#1 ++ 0#4 ++ s.cur ++ k.spawnSeq⟩],
             spawnAt := some s.clock.cycle }))))

namespace Sys2Proof
open Sys2Proof.Machine

/-- What becomes of weights when the task of the core whose turn it is ends (R252): its own, where it has one, joins those of the tasks that ended
before it; one whose task has a command left waits with its root, and every other one is added to the semaphore its root names. -/
def weightGoesBack (s t : State) : Prop :=
  let k := s.me
  let all : List ExitWeight := k.exits ++ (if k.csr.weight = 0 then [] else [⟨k.task, k.csr.weight, k.csr.rootloc⟩])
  let waits (e : ExitWeight) : Bool := k.queue.any (fun q => q.task == e.task)
  let root (e : ExitWeight) (c : CoreId) (n : BitVec 6) : Bool :=
    e.root.toNat % 2 ^ 11 == c.toNat && e.root.toNat / 2 ^ 16 % 2 ^ 6 == n.toNat
  t.me.exits = all.filter waits ∧
  ∀ c n, (t.core c).sem n = (all.filter (fun e => !waits e && root e c n)).foldl (fun m e => addedTo m e.weight.toNat) ((s.core c).sem n)

end Sys2Proof

open Sys2Proof Sys2Proof.Machine

/-- EXIT (R252): once the array has landed and with no phase open, the task ends, the core is free, the queue of hoisted rows is empty, and the
task's WEIGHT goes back to the semaphore its ROOTLOC names, at once or, where commands of the task are left, once they have completed: until
then it stands among the weights of ended tasks. Before that EXIT waits; with a phase open it raises 0x01. Choices of the model: log entry 31. -/
def Sys2Proof.Claim.ExitResults : Prop :=
  ∀ (s : State) (c : Ctl), s.alone c →
    let k := s.me
    (k.exitReady = false → exec (.exit c) s = .next (s.waiting c .exit)) ∧
    (k.exitReady = true → k.csr.pha = true → exec (.exit c) s = .next (s.trapped c ⟨0x01, 0, 0x0A0⟩)) ∧
    (k.exitReady = true → k.csr.pha = false →
      ∃ t, exec (.exit c) s = .next t ∧ t.me.run = .idle ∧ t.me.csr.hm = false ∧ t.me.mx.hoist = [] ∧ t.me.phase = none ∧
        t.me.arrivals = [] ∧ t.me.pend = [] ∧ t.me.buf = [] ∧ weightGoesBack s t) ∧
    (∀ e, k.exits = [e] → (∀ q ∈ k.queue, q.task ≠ e.task) →
      let root : CoreId := BitVec.ofNat 11 (e.root.toNat % 2 ^ 11)
      let n : BitVec 6 := BitVec.ofNat 6 (e.root.toNat / 2 ^ 16 % 2 ^ 6)
      exec (.exitWeightAdd s.cur) s =
        .next ((s.modCore s.cur (fun m => { m with exits := [] })).modCore root (fun m => m.modSem n (fun v => addedTo v e.weight.toNat))))

/-- PLSWAP (R255): the swap token is requested where the shadow plane is ready, else cause 0x15; cancel gives it up; in handler mode both
raise cause 0x03. -/
def Sys2Proof.Claim.PlaneSwapResults : Prop :=
  ∀ (s : State) (c : Ctl), s.alone c →
    let k := s.me
    exec (.plswap c) s =
      (if k.csr.hm then .next (s.trapped c ⟨0x03, 0, 0⟩)
       else if k.shrdy = false then .next (s.trapped c ⟨0x15, 0, 0⟩) else .next (s.retiredCore c 1 (fun k => { k with swreq := true }))) ∧
    exec (.plswapCancel c) s =
      (if k.csr.hm then .next (s.trapped c ⟨0x03, 0, 0⟩) else .next (s.retiredCore c 1 (fun k => { k with swreq := false })))

namespace Sys2Proof
open Sys2Proof.Machine

/-- A field of the snapshot in a phase record (R253, Table 4). -/
def snapField (r : List Byte) (o n : Nat) : Nat := fieldAt r (128 + o) n
/-- A 64-bit word of the snapshot. -/
def snapWord (r : List Byte) (o : Nat) : Word := BitVec.ofNat 64 (snapField r o 8)

/-- Input copy `j` of a phase record as a CPYT captures it (R200, R253): its records, semaphore, class, bounds, and no arrival. -/
def isCopy (k : Core) (r : List Byte) (j : Nat) (q : Cmd) : Prop :=
  let src : Word := BitVec.ofNat 64 (fieldAt r (80 + 24 * j) 8)
  let dst : Word := BitVec.ofNat 64 (fieldAt r (88 + 24 * j) 8)
  (∃ o, q.ins = .cpyt o) ∧ q.xs = src ∧ q.xd = dst ∧ q.blocks = [(k.takeRecord src).1, (k.takeRecord dst).1] ∧
    q.sem = BitVec.ofNat 6 (fieldAt r (96 + 24 * j) 1) ∧ q.cls = BitVec.ofNat 4 (fieldAt r (97 + 24 * j) 1) ∧ q.bnd = k.csr.bnd ∧
    q.bndmode = k.csr.bndmode ∧ q.ar = 0 ∧ q.started = false ∧ q.finished = false

/-- What PHASE ABORT leaves (R254): the registers, predicates, masks and CSRs of record `r`'s snapshot, the copies `qs` issued behind the other
commands, the phase over, and control at the bundle of its BEGIN after a bubble. -/
def wasAborted (s t : State) (r : List Byte) (qs : List Cmd) : Prop :=
  let k := s.me
  let u := t.me
  u.pc = (k.phase.map (·.1)).getD k.pc ∧ u.bubble = true ∧ u.via = some k.pc ∧ u.phase = none ∧
  u.csr = { k.csr with
    pha := false, tcyc := k.csr.tcyc + 1, lc := #v[snapWord r 0x1C0, snapWord r 0x1C8],
    le := #v[(snapWord r 0x1D0).setWidth 33, (snapWord r 0x1D8).setWidth 33], ardom := (snapWord r 0x1E0).setWidth 2,
    fpmode := (snapWord r 0x1E8).setWidth 5, bndmode := (snapWord r 0x1F0).setWidth 32, srseed := snapWord r 0x1F8 } ∧
  (∀ i : Reg, u.regs.x[i.toNat]'i.isLt = snapWord r (8 * i.toNat)) ∧ u.regs.xp = BitVec.ofNat 32 (snapField r 0x108 4) ∧
  u.regs.p = BitVec.ofNat 8 (snapField r 0x100 1) ∧ u.regs.pp = BitVec.ofNat 8 (snapField r 0x101 1) ∧
  (∀ i : BitVec 3, u.regs.k[i.toNat]'i.isLt = BitVec.ofNat 128 (snapField r (0x140 + 16 * i.toNat) 16)) ∧
  u.regs.kp = BitVec.ofNat 8 (snapField r 0x10C 1) ∧ u.regs.v = k.regs.v ∧ u.regs.vp = k.regs.vp ∧ u.bank = k.bank ∧
  u.pend = k.pend.filter (fun e => match e.dest with | .x _ => false | .k _ => false | _ => true) ∧
  u.queue.length = k.queue.length + qs.length ∧ u.queue.take k.queue.length = k.queue ∧
  ∀ (j : Nat) (q : Cmd), qs[j]? = some q → ∃ p, u.queue[k.queue.length + j]? = some p ∧ p.id = k.nextCmd + j ∧ p.task = k.task ∧
    p.issued = s.tnow ∧ p.ins = q.ins ∧ p.xs = q.xs ∧ p.xd = q.xd ∧ p.blocks = q.blocks ∧ p.sem = q.sem ∧ p.cls = q.cls ∧ p.bnd = q.bnd ∧
    p.bndmode = q.bndmode ∧ p.ar = q.ar ∧ p.started = q.started ∧ p.finished = q.finished

/-- The state in which an ABORT waits for room or for its phase's commands holds none of them that has not begun: they have been aborted
(R234, R254), but for SNAP and CPAB. -/
def phaseAborts (s t : State) (mask : BitVec 16) : Prop :=
  ∀ since, s.me.phase.map (·.2) = some since → ∀ p ∈ t.me.queue, since ≤ p.id → mask.getLsbD p.cls.toNat = true → p.started = false →
    p.delivering = false → (∀ e ∈ s.sent, e.op.srcCore = s.cur → e.cmd ≠ p.id) →
    (∃ o l, p.ins = .snap o l ∨ p.ins = .snapSeal o l) ∨ ∃ o, p.ins = .cpab o

end Sys2Proof

open Sys2Proof Sys2Proof.Machine

/-- PHASE (R253, R254, 11 R322): BEGIN with a good record opens a phase at this bundle and stores the snapshot behind the record. COMMIT and ABORT
of an open phase read the record in their first cycle and wait for the phase's commands, ABORT after it has aborted them and for room for its
copies too; then COMMIT toggles the record's buffer selectors and closes the phase, and ABORT restores the snapshot, issues the recorded
copies and returns to the BEGIN bundle. What the first cycle found is not looked at again. In handler mode all three raise 0x03; BEGIN in
an open phase and COMMIT or ABORT without one raise 0x01; a bad record, and a bad copy of ABORT, its own cause. Choices of the model: log
entries 75 and 76. -/
def Sys2Proof.Claim.PhaseResults : Prop :=
  ∀ (s : State) (c : Ctl), s.alone c →
    let k := s.me
    let base := offsetOf k.csr.phbase
    let looked := k.first.bind (·.phase)
    let draws (first : Bool) (t : State) : State := if first then t.injectReads s.cur .pad (granList base 128) else t
    let begun (first : Bool) : State := s.retired c 2 1 (fun t =>
      ((draws first t).modCore s.cur (fun m => { m with phase := some (k.pc, k.nextCmd), csr := { m.csr with pha := true } })).applyAll s.cur
        (storeRun (base + 128) k.phaseSnapshot))
    let committed (first : Bool) (r : List Byte) : State := s.retired c 2 1 (fun t =>
      ((draws first t).applyAll s.cur [storeAction false base 8 ⟨phSel r ^^^ BitVec.ofNat 64 (2 ^ phNreg r - 1), false⟩ 0]).modCore s.cur
        (fun f => { f with phase := none, csr := { f.csr with pha := false } }))
    let trap (i : Instr) (f : SlotFault) : Prop := exec i s = .next (s.trapped c f)
    let commits (first : Bool) (m : BitVec 16) (r : List Byte) : Prop :=
      exec (.phaseCommit c) s = .next (if k.phaseBusy m then s.waiting c (.phase m r) else committed first r)
    let aborts (m : BitVec 16) (r : List Byte) (qs : List Cmd) : Prop :=
      (k.phaseBusy m = true ∨ 32 < k.queue.length + qs.length →
        exec (.phaseAbort c) s = .next (s.waiting c (.phaseAbort m r qs)) ∧ phaseAborts s (s.waiting c (.phaseAbort m r qs)) m) ∧
      (k.phaseBusy m = false → k.queue.length + qs.length ≤ 32 → ∃ t, exec (.phaseAbort c) s = .next t ∧ wasAborted s t r qs)
    (looked = none →
      (k.csr.hm = true → ∀ i ∈ [.phaseBegin c, .phaseCommit c, .phaseAbort c], trap i ⟨0x03, 0, 0⟩) ∧
      (k.csr.hm = false → k.csr.pha = true → trap (.phaseBegin c) ⟨0x01, 0, 0x0A0⟩) ∧
      (k.csr.hm = false → k.csr.pha = false → ∀ i ∈ [.phaseCommit c, .phaseAbort c], trap i ⟨0x01, 0, 0⟩) ∧
      (k.csr.hm = false → k.csr.pha = false →
        ((k.phaseRecord 128).2 = none → exec (.phaseBegin c) s = .next (begun true)) ∧
        (∀ f, (k.phaseRecord 128).2 = some f → trap (.phaseBegin c) f)) ∧
      (k.csr.hm = false → k.csr.pha = true →
        ((k.phaseRecord 128).2 = none → let r := (k.phaseRecord 128).1; commits true (phCmask r) r) ∧
        (∀ f, (k.phaseRecord 128).2 = some f → trap (.phaseCommit c) f) ∧
        (∀ f, (k.phaseRecord 640).2 = some f → trap (.phaseAbort c) f) ∧
        ((k.phaseRecord 640).2 = none → let r := (k.phaseRecord 640).1
          (∀ f, (List.range (phNin r)).findSome? (fun j => (k.phaseCopy r j).2) = some f → trap (.phaseAbort c) f) ∧
          ((∀ j < phNin r, (k.phaseCopy r j).2 = none) → ∃ qs, qs.length = phNin r ∧ (∀ j q, qs[j]? = some q → isCopy k r j q) ∧
            aborts (phCmask r) r qs)))) ∧
    (∀ w, looked = some w → exec (.phaseBegin c) s = .next (begun false)) ∧
    (∀ m r, looked = some (.phase m r) → commits false m r) ∧
    (∀ m r qs, looked = some (.phaseAbort m r qs) → aborts m r qs)


-- Vector instructions -------------------------------------------------------------------------------------------------

namespace Sys2Proof
open Sys2Proof.Machine

/-- First byte and size of each slice (R73, R134). -/
def sliceTable (sl : Slice) : Nat × Nat :=
  match sl with
  | .full => (0, 128) | .h0 => (0, 64) | .h2 => (64, 64) | .q n => (32 * n.toNat, 32)

/-- Bytes of an element (R66). -/
def elemSize (t : ETy) : Nat := match t with | .i8 => 1 | .i16 | .bf16 | .f16 | .lgm => 2 | .i32 | .f32 => 4 | .i64 => 8

/-- The byte offsets of the enabled elements of size `e` of a slice, in ascending order (R134). -/
def lanes (k : Core) (sl : Slice) (m : BitVec 3) (e : Nat) : List Nat :=
  ((List.range ((sliceTable sl).2 / e)).map (fun j => (sliceTable sl).1 + j * e)).filter (fun b => (k.readK m).getLsbD b)

/-- The element of `e` bytes of a vector register at byte `b`. -/
def laneOf (k : Core) (v : Reg) (b e : Nat) : Nat := (k.readV v).toNat / 2 ^ (8 * b) % 2 ^ (8 * e)
/-- Whether the register granule of byte `b` is poisoned. -/
def laneBad (k : Core) (v : Reg) (b : Nat) : Bool := (k.poisonV v).getLsbD (b / 8)

/-- The state once an instruction that gives each enabled element a value, flags and poison has retired. -/
def Machine.State.lanewise (s : State) (o : V3) (bound : Nat) (f : Nat → ElRes × Bool) : State :=
  let rs := (Sys2Proof.lanes s.me o.sl o.k (elemSize o.ty)).map (fun b => (b, f b))
  s.givesV o.ctl bound o.vd (rs.map (fun r => ⟨r.1, elemSize o.ty, r.2.1.val, r.2.2⟩)) (rs.foldl (fun a r => a ||| r.2.1.fl) 0)

/-- From two source elements. -/
def Machine.State.lanes2 (s : State) (o : V3) (bound : Nat) (f : Nat → Nat → ElRes) : State :=
  s.lanewise o bound (fun b => (f (laneOf s.me o.va b (elemSize o.ty)) (laneOf s.me o.vb b (elemSize o.ty)), laneBad s.me o.va b || laneBad s.me o.vb b))
/-- From one. -/
def Machine.State.lanes1 (s : State) (o : V3) (bound : Nat) (f : Nat → ElRes) : State :=
  s.lanewise o bound (fun b => (f (laneOf s.me o.va b (elemSize o.ty)), laneBad s.me o.va b))
/-- From the old destination and two. -/
def Machine.State.lanes3 (s : State) (o : V3) (bound : Nat) (f : Nat → Nat → Nat → ElRes) : State :=
  s.lanewise o bound (fun b =>
    (f (laneOf s.me o.vd b (elemSize o.ty)) (laneOf s.me o.va b (elemSize o.ty)) (laneOf s.me o.vb b (elemSize o.ty)),
     laneBad s.me o.vd b || laneBad s.me o.va b || laneBad s.me o.vb b))

/-- An integer modulo 2^m. -/
def modulo (m : Nat) (i : Int) : Nat := (i % 2 ^ m).toNat
/-- An element of `m` bits read as signed. -/
def signed (m x : Nat) : Int := (x : Int).bmod (2 ^ m)
/-- Clamped to a range, with OSAT where that changes it (R143). -/
def clamped (m : Nat) (lo hi i : Int) : ElRes := let v := max lo (min hi i); ⟨modulo m v, if v = i then 0 else 0x20⟩

end Sys2Proof

open Sys2Proof Sys2Proof.Machine

/-- The integer columns of Table 5 and Table 6 (R143, R145): element by element modulo 2^M, saturated where the table says so, within
the landing bound of Table 1. -/
def Obligations.VectorIntegerResults : Prop :=
  ∀ (s : State) (o : V3), s.vecReady o.ctl o.k → o.ty.isInt = true →
    let m := 8 * elemSize o.ty
    let two (i : Instr) (bound : Nat) (f : Nat → Nat → ElRes) : Prop := exec i s = .next (s.lanes2 o bound f)
    let one (i : Instr) (f : Nat → ElRes) : Prop := exec i s = .next (s.lanes1 o 2 f)
    let w (i : Int) : ElRes := ⟨modulo m i, 0⟩
    let S := signed m
    two (.vadd o) 2 (fun a b => w (a + b)) ∧ two (.vsub o) 2 (fun a b => w (a - b)) ∧ two (.vmul o) 4 (fun a b => w (a * b)) ∧
    two (.vmin o) 2 (fun a b => w (min (S a) (S b))) ∧ two (.vmax o) 2 (fun a b => w (max (S a) (S b))) ∧
    two (.vminn o) 2 (fun a b => w (min a b)) ∧ two (.vmaxn o) 2 (fun a b => w (max a b)) ∧
    one (.vabs o) (fun a => w (max (S a) (-S a))) ∧ one (.vneg o) (fun a => w (-S a)) ∧
    two (.vadds o) 2 (fun a b => clamped m (-2 ^ (m - 1)) (2 ^ (m - 1) - 1) (S a + S b)) ∧
    two (.vsubs o) 2 (fun a b => clamped m (-2 ^ (m - 1)) (2 ^ (m - 1) - 1) (S a - S b)) ∧
    two (.vaddx o) 2 (fun a b => clamped m 0 (2 ^ m - 1) (a + b)) ∧ two (.vmulx o) 4 (fun a b => clamped m 0 (2 ^ m - 1) (a * b)) ∧
    two (.vmulh o) 4 (fun a b => w (S a * S b / 2 ^ m)) ∧
    two (.vshl o) 2 (fun a b => w (a * 2 ^ (b % m))) ∧ two (.vshr o) 2 (fun a b => w (a / 2 ^ (b % m))) ∧
    two (.vsar o) 2 (fun a b => w (S a / 2 ^ (b % m))) ∧
    one (.vshli o) (fun a => w (a * 2 ^ o.vb.toNat)) ∧ one (.vshri o) (fun a => w (a / 2 ^ o.vb.toNat)) ∧
    one (.vsari o) (fun a => w (S a / 2 ^ o.vb.toNat))

namespace Sys2Proof
open Sys2Proof.Machine

/-- The sign bit of a float element is cleared or flipped; so is that of an LGM16 element that is neither zero nor NaR (R143). -/
def signTable (t : ETy) (flip : Bool) (a : Nat) : Nat :=
  let top := 2 ^ (8 * elemSize t - 1)
  if t = .lgm ∧ a % top = 0 then a else if flip = true ∧ a < top then a + top else a % top

/-- The value an LGM16 element means, as a pair of sign and log2 in units of 1/1024, where it is neither zero nor NaR (R41). -/
def lgmLog (a : Nat) : Int := (a % 2 ^ 15 : Nat) - 16384

/-- lgm_mul (R144). -/
def lgmTimes (a b : Nat) : ElRes :=
  let L := lgmLog a + lgmLog b + 16384
  if a = 2 ^ 15 ∨ b = 2 ^ 15 then ⟨2 ^ 15, 0⟩
  else if a % 2 ^ 15 = 0 ∨ b % 2 ^ 15 = 0 then ⟨0, 0⟩
  else if L < 1 then ⟨0, 0x40⟩
  else ⟨(a / 2 ^ 15 + b / 2 ^ 15) % 2 * 2 ^ 15 + (min L 32767).toNat, if L > 32767 then 0x20 else 0⟩

end Sys2Proof

open Sys2Proof Sys2Proof.Machine

/-- The float and LGM16 columns of Table 5 (R141, R143, R144): each float result is the exact one rounded once under FPMODE with DAZ and
FTZ, VFMA and VFMS fused; VABS and VNEG change the sign bit alone; VMUL of LGM16 adds the logarithms. Choices of the model: log entries 16 and 42. -/
def Obligations.VectorFloatResults : Prop :=
  ∀ (s : State) (o : V3), s.vecReady o.ctl o.k →
    let md := s.me.csr.fpmode
    let two (i : Instr) (bound : Nat) (f : Nat → Nat → ElRes) : Prop := exec i s = .next (s.lanes2 o bound f)
    let three (i : Instr) (f : Nat → Nat → Nat → ElRes) : Prop := exec i s = .next (s.lanes3 o 5 f)
    (∀ f : FFmt, (o.ty = .f32 ∧ f = fp32) ∨ (o.ty = .bf16 ∧ f = bf16) ∨ (o.ty = .f16 ∧ f = fp16) →
      two (.vadd o) 4 (fAdd f md false) ∧ two (.vsub o) 4 (fAdd f md true) ∧ two (.vmul o) 4 (fMul f md) ∧
      three (.vfma o) (fFma f md false) ∧ three (.vfms o) (fFma f md true) ∧ three (.vfmax o) (fMaxMul f md) ∧
      two (.vmin o) 2 (fMinMax f md false false) ∧ two (.vmax o) 2 (fMinMax f md true false) ∧
      two (.vminn o) 2 (fMinMax f md false true) ∧ two (.vmaxn o) 2 (fMinMax f md true true)) ∧
    (o.ty = .lgm →
      two (.vmul o) 2 lgmTimes ∧
      two (.vadd o) 6 (fun a b => lgmRes (lgmAdd (BitVec.ofNat 16 a) (BitVec.ofNat 16 b) false)) ∧
      two (.vsub o) 6 (fun a b => lgmRes (lgmAdd (BitVec.ofNat 16 a) (BitVec.ofNat 16 b) true)) ∧
      two (.vmin o) 2 (fun a b => .pure (lgmPick false (BitVec.ofNat 16 a) (BitVec.ofNat 16 b)).toNat) ∧
      two (.vmax o) 2 (fun a b => .pure (lgmPick true (BitVec.ofNat 16 a) (BitVec.ofNat 16 b)).toNat) ∧
      three (.vfmax o) (fun d a b =>
        ⟨(lgmPick true (BitVec.ofNat 16 d) (BitVec.ofNat 16 (lgmTimes a b).val)).toNat, (lgmTimes a b).fl⟩)) ∧
    (o.ty.isInt = false →
      exec (.vabs o) s = .next (s.lanes1 o 2 (fun a => .pure (signTable o.ty false a))) ∧
      exec (.vneg o) s = .next (s.lanes1 o 2 (fun a => .pure (signTable o.ty true a))))

/-- VAND, VOR and VXOR (R145), VBCST (R149), VEXT (R150), VPERM (R151) and VSEL (R148), on every type. -/
def Sys2Proof.Claim.VectorMoveResults : Prop :=
  ∀ (s : State) (o : V3), s.vecReady o.ctl o.k →
    let k := s.me
    let e := elemSize o.ty
    let b0 := (sliceTable o.sl).1
    let n := (sliceTable o.sl).2 / e
    let at' (v : Reg) (j : Nat) : Nat := laneOf k v (b0 + j * e) e
    let bad (v : Reg) (j : Nat) : Bool := laneBad k v (b0 + j * e)
    let ix (b : Nat) : Nat := (b - b0) / e
    exec (.vand o) s = .next (s.lanes2 o 2 (fun a b => .pure (a &&& b))) ∧
    exec (.vor o) s = .next (s.lanes2 o 2 (fun a b => .pure (a ||| b))) ∧
    exec (.vxor o) s = .next (s.lanes2 o 2 (fun a b => .pure (a ^^^ b))) ∧
    exec (.vbcst o) s = .next (s.lanewise o 2 (fun _ => (.pure ((k.readX o.va).val.toNat % 2 ^ (8 * e)), (k.readX o.va).poison))) ∧
    exec (.vext o) s = .next (s.lanewise o 2 (fun b =>
      (.pure (at' o.va ((ix b + o.vb.toNat) % n)), bad o.va ((ix b + o.vb.toNat) % n)))) ∧
    exec (.vperm o) s = .next (s.lanewise o 3 (fun b =>
      let u := laneOf k o.vb b e
      (.pure (if u < n then at' o.va u else 0), laneBad k o.vb b || (decide (u < n) && bad o.va u)))) ∧
    exec (.vsel o) s = .next (s.givesV o.ctl 2 o.vd ((List.range n).map (fun j =>
      let r := if (k.readK o.k).getLsbD (b0 + j * e) then o.va else o.vb
      ⟨b0 + j * e, e, at' r j, bad r j⟩)) 0)

/-- VSHUF (R152, Table 8): element by element, from the old Vd or from Va. -/
def Sys2Proof.Claim.VshufResult : Prop :=
  ∀ (s : State) (o : V3), s.vecReady o.ctl o.k → o.vb.toNat < 6 →
    let k := s.me
    let e := elemSize o.ty
    let b0 := (sliceTable o.sl).1
    let h := (sliceTable o.sl).2 / e / 2
    ∃ src : Nat → Reg × Nat,
      exec (.vshuf o) s = .next (s.lanewise o 2 (fun b =>
        let p := src ((b - b0) / e)
        (.pure (laneOf k p.1 (b0 + p.2 * e) e), laneBad k p.1 (b0 + p.2 * e)))) ∧
      ∀ j < h,
        (o.vb.toNat = 0 → src (2 * j) = (o.vd, j) ∧ src (2 * j + 1) = (o.va, j)) ∧
        (o.vb.toNat = 1 → src (2 * j) = (o.vd, h + j) ∧ src (2 * j + 1) = (o.va, h + j)) ∧
        (o.vb.toNat = 2 → src j = (o.vd, 2 * j) ∧ src (h + j) = (o.va, 2 * j)) ∧
        (o.vb.toNat = 3 → src j = (o.vd, 2 * j + 1) ∧ src (h + j) = (o.va, 2 * j + 1)) ∧
        (o.vb.toNat = 4 → src (2 * j) = (o.vd, 2 * j) ∧ src (2 * j + 1) = (o.va, 2 * j)) ∧
        (o.vb.toNat = 5 → src (2 * j) = (o.vd, 2 * j + 1) ∧ src (2 * j + 1) = (o.va, 2 * j + 1))

/-- VCMP (R147): each element's bits of Kd hold the condition where the element is enabled and 0 where it is not, bits outside the slice
are kept, and Kd, which lands within two cycles, is poisoned by the operands of the enabled elements (the model's choice, log 129) and, where
bits are kept, by its own poison. That Kd lands as one granule is the model's choice (log 152). On integers the conditions are those of Table 7. -/
def Sys2Proof.Claim.VcmpResult : Prop :=
  ∀ (s : State) (o : V3), s.vecReady o.ctl o.k →
    let k := s.me
    let e := elemSize o.ty
    let (b0, sz) := sliceTable o.sl
    let kd : BitVec 3 := o.vd.extractLsb' 0 3
    let cond : BitVec 2 := o.vd.extractLsb' 3 2
    let x (b : Nat) := laneOf k o.va b e
    let y (b : Nat) := laneOf k o.vb b e
    let r (b : Nat) : Bool × BitVec 7 := vcmpEl o.ty k.csr.fpmode cond (x b) (y b)
    let on := lanes k o.sl o.k e
    let fl : BitVec 7 := on.foldl (fun a b => a ||| (r b).2) 0
    (∃ m, exec (.vcmp o) s = .next (s.retiredCore o.ctl 2 (fun u =>
        let u1 := u.writeK kd m (on.any (fun b => laneBad k o.va b || laneBad k o.vb b) || (decide (sz ≠ 128) && k.poisonK kd)) 2
        { u1 with csr := { u1.csr with fpflags := u1.csr.fpflags ||| fl } }) (if kd = 0 then [] else [.k kd])) ∧
      (∀ i < 128, i < b0 ∨ b0 + sz ≤ i → m.getLsbD i = (k.readK kd).getLsbD i) ∧
      ∀ j < sz / e, ∀ i < e, m.getLsbD (b0 + j * e + i) = ((k.readK o.k).getLsbD (b0 + j * e) && (r (b0 + j * e)).1)) ∧
    (o.ty.isInt = true → ∀ b, (r b).2 = 0 ∧ ((r b).1 = true ↔
      (cond = 0 ∧ x b = y b) ∨ (cond = 1 ∧ signed (8 * e) (x b) < signed (8 * e) (y b)) ∨
      (cond = 2 ∧ signed (8 * e) (x b) ≤ signed (8 * e) (y b)) ∨ (cond = 3 ∧ x b < y b)))

namespace Sys2Proof
open Sys2Proof.Machine

/-- The pairwise tree of R153 over nodes that are enabled or not, with the flags its combines raise. -/
def pairUp (f : Nat → Nat → ElRes) : List (Option Nat) → List (Option Nat) × BitVec 7
  | some a :: some b :: rest => let r := pairUp f rest; (some (f a b).val :: r.1, (f a b).fl ||| r.2)
  | some a :: none :: rest => let r := pairUp f rest; (some a :: r.1, r.2)
  | none :: x :: rest => let r := pairUp f rest; (x :: r.1, r.2)
  | l => (l, 0)

/-- `n` levels of the tree. -/
def pairTree (f : Nat → Nat → ElRes) : Nat → List (Option Nat) → Option Nat × BitVec 7
  | 0, l => (l.headD none, 0)
  | n + 1, l => let r := pairUp f l; let t := pairTree f n r.1; (t.1, r.2 ||| t.2)

/-- VRED's combine (R153): FPMODE is ignored. -/
def combine (t : ETy) (op : Nat) (x y : Nat) : ElRes :=
  match op with | 0 => addEl t 0 false x y | 1 => minMaxEl t 0 true false x y | _ => minMaxEl t 0 false false x y

end Sys2Proof

open Sys2Proof Sys2Proof.Machine

/-- VRED (R153): element 0 gets the value of the fixed tree over the enabled elements, or 0 if none is, with the poison of every enabled
element; the other elements of the slice become 0. -/
def Sys2Proof.Claim.VredResult : Prop :=
  ∀ (s : State) (o : V3), s.vecReady o.ctl o.k → o.vb.toNat < 3 →
    let k := s.me
    let e := elemSize o.ty
    let b0 := (sliceTable o.sl).1
    let n := (sliceTable o.sl).2 / e
    let on := lanes k o.sl o.k e
    let r := pairTree (combine o.ty o.vb.toNat) (Nat.log2 n)
      ((List.range n).map (fun j => if (k.readK o.k).getLsbD (b0 + j * e) then some (laneOf k o.va (b0 + j * e) e) else none))
    exec (.vred o) s = .next (s.givesV o.ctl 10 o.vd ((List.range n).map (fun j =>
      ⟨b0 + j * e, e, if j = 0 then r.1.getD 0 else 0, decide (j = 0) && on.any (fun b => laneBad k o.va b)⟩)) r.2)

/-- VCVT, VF2L and VL2F (R154, R155): each enabled element at its place is converted, with one draw for each under SR in ascending order
where the destination takes draws (R142). Choices of the model: log entries 44, 134, 135 and 156. -/
def Obligations.VectorConversionResults : Prop :=
  ∀ (s : State) (o : V3), s.vecReady o.ctl o.k →
    let k := s.me
    let md := k.csr.fpmode
    let (b0, sz) := sliceTable o.sl
    let ws := elemSize o.ty
    let draws (on : Bool) (js : List Nat) (f : Option (BitVec 32) → Nat → ElRes) : List (Nat × ElRes) × Option Word :=
      if on = true ∧ js ≠ [] then
        ((List.range js.length).map (fun i => (js.getD i 0, f (some ((Nat.repeat srNext (i + 1) k.csr.srseed).setWidth 32)) (js.getD i 0))),
         some (Nat.repeat srNext js.length k.csr.srseed))
      else (js.map (fun j => (j, f none j)), none)
    let gives (bound : Nat) (rs : List (Nat × ElRes) × Option Word) (w : Nat × ElRes → VW) (fill : List VW) : State :=
      s.retired o.ctl 2 bound (fun t =>
        let t1 := t.applyAll s.cur (k.vResult o.vd (rs.1.map w ++ fill) (rs.1.foldl (fun a p => a ||| p.2.fl) 0) bound)
        match rs.2 with | some sd => t1.modCore s.cur (fun u => { u with csr := { u.csr with srseed := sd } }) | none => t1)
        (k.landsAt (k.vResult o.vd (rs.1.map w ++ fill) (rs.1.foldl (fun a p => a ||| p.2.fl) 0) bound))
    (∀ dt : ETy, o.vb.toNat % 8 = dt.code.toNat → dt ≠ .lgm → dt ≠ o.ty →
      let wd := elemSize dt
      let h := o.vb.toNat / 8 % 2
      let n := sz / max ws wd
      let src (j : Nat) : Nat := b0 + (if wd = 2 * ws then h * sz / 2 else 0) + j * ws
      let dst (j : Nat) : Nat := b0 + (if ws = 2 * wd then h * sz / 2 else 0) + j * wd
      let js := (List.range n).filter (fun j => (k.readK o.k).getLsbD (dst j))
      let sr := fpSr md && decide (dt = .bf16 ∨ dt = .f16)
      exec (.vcvt o) s = .next (gives 4 (draws sr js (fun d j => cvtEl md o.ty dt d (laneOf k o.va (src j) ws)))
        (fun p => ⟨dst p.1, wd, p.2.val, laneBad k o.va (src p.1)⟩)
        (if ws ≥ 4 * wd then (List.range (sz / wd - n)).map (fun i => ⟨b0 + (n + i) * wd, wd, 0, false⟩) else []))) ∧
    (∀ f : FFmt, (o.ty = .f32 ∧ f = fp32) ∨ (o.ty = .bf16 ∧ f = bf16) ∨ (o.ty = .f16 ∧ f = fp16) →
      let n := sz / ws
      let js := (List.range n).filter (fun j => (k.readK o.k).getLsbD (b0 + j * ws))
      exec (.vf2l o) s = .next (gives 6 (draws (fpSr md) js (fun d j => f2lEl f md o.vb.toInt d (laneOf k o.va (b0 + j * ws) ws)))
        (fun p => ⟨b0 + 2 * p.1, 2, p.2.val, laneBad k o.va (b0 + p.1 * ws)⟩)
        (if ws = 4 then (List.range n).map (fun i => ⟨b0 + 2 * (n + i), 2, 0, false⟩) else [])) ∧
      exec (.vl2f o) s = .next (s.lanewise o 6 (fun b =>
        let src := b0 + 2 * ((b - b0) / ws)
        (l2fEl f md o.vb.toInt (laneOf k o.va src 2), laneBad k o.va src))))

/-- VQNT and VDQNT (R156, R157): block by block, with the scale bytes at 120 on and every other byte zero; the packing instructions (R158):
the packed or expanded bytes from the slice's first on, and zeros. Choices of the model: log entries 136, the NaN that VQNT writes,
and 156, the stickies of VDQNT. -/
def Obligations.VectorBlockResults : Prop :=
  ∀ (s : State) (o : V3), s.vecReady o.ctl o.k →
    let k := s.me
    let e := elemSize o.ty
    let f := o.vb.toNat
    let (b0, sz) := sliceTable o.sl
    let bytes (n : Nat) : List Byte := (List.range n).map (fun i => BitVec.ofNat 8 (laneOf k o.va (b0 + i) 1))
    let bad (lo hi : Nat) : Bool := (List.range 128).any (fun b => decide (lo ≤ b ∧ b < hi) && laneBad k o.va b)
    let packs (i : Instr) (bs : List Byte) (lo hi : Nat → Nat) : Prop :=
      exec i s = .next (s.givesV o.ctl 2 o.vd
        ((List.range sz).map (fun j => ⟨b0 + j, 1, (bs.getD j 0).toNat, decide (j < bs.length) && bad (b0 + lo j) (b0 + hi j)⟩)) 0)
    (f < 12 → o.ty.isInt = false →
      let block (b : Nat) : List Nat × Nat × Sticky :=
        qntBlock f ((List.range 32).map (fun i => (qntIn o.ty k.csr.fpmode (laneOf k o.va ((32 * b + i) * e) e)).1))
      let nb := 128 / e / 32
      let body := (List.range nb).flatMap (fun b => (packBits (fmtBits f) (block b).1).map (fun x => (x, bad (32 * b * e) (32 * b * e + 32 * e))))
      let out := body ++ List.replicate (120 - body.length) (0, false) ++
        (List.range nb).map (fun b => (BitVec.ofNat 8 (block b).2.1, bad (32 * b * e) (32 * b * e + 32 * e))) ++ List.replicate (8 - nb) (0, false)
      let fl : BitVec 7 := (List.range nb).foldl (fun a b => a |||
        (List.range 32).foldl (fun a i => a ||| (qntIn o.ty k.csr.fpmode (laneOf k o.va ((32 * b + i) * e) e)).2) 0 ||| stickyFlags (block b).2.2) 0
      exec (.vqnt o) s = .next (s.givesV o.ctl 8 o.vd
        ((List.range 128).map (fun i => ⟨i, 1, (out.getD i (0, false)).1.toNat, (out.getD i (0, false)).2⟩)) fl) ∧
      exec (.vdqnt o) s = .next (s.lanewise { o with sl := .full, k := 0 } 6 (fun p =>
        let j := p / e
        let b := j / 32
        let bb := fmtBits f * 4
        let x := (k.readV o.va).toNat / 2 ^ (8 * (b * bb) + fmtBits f * (j % 32)) % 2 ^ elemBits f
        (dqntEl o.ty (dqntVal f x (laneOf k o.va (120 + b) 1)), bad (b * bb) (b * bb + bb) || laneBad k o.va (120 + b))))) ∧
    packs (.vpk6 o) (packAll6 (bytes sz)) (fun j => j / 3 * 4 + j % 3) (fun j => j / 3 * 4 + j % 3 + 2) ∧
    packs (.vupk6 o) (unpackAll6 (bytes (3 * sz / 4))) (fun j => 6 * j / 8) (fun j => (6 * j + 5) / 8 + 1) ∧
    packs (.vpk4 o) (packAll4 (bytes sz)) (fun j => 2 * j) (fun j => 2 * j + 2) ∧
    packs (.vupk4 o) (unpackAll4 (bytes (sz / 2))) (fun j => j / 2) (fun j => j / 2 + 1)

namespace Sys2Proof
open Sys2Proof.Machine

/-- Table 11 of R160: the result and the flags of a special input of a float type, by the bits of its own constants. -/
def specialTable (f : FFmt) (fn : Config.TFun) (v : XVal) : Option (Nat × BitVec 7) :=
  let one := f.bias.toNat * 2 ^ f.mb
  let nan : Nat × BitVec 7 := (f.qnan, 1)
  let inf (neg : Bool) : Nat := f.infBits neg
  let zero (neg : Bool) : Nat := f.zeroBits neg
  match fn, v with
  | .rcp, .inf n => some (zero n, 0)
  | .rsq, .inf true | .sqrt, .inf true | .log2, .inf true | .ln, .inf true => some nan
  | .sin, .inf _ | .cos, .inf _ => some nan
  | .exp2, .inf true | .exp, .inf true | .sigm, .inf true => some (zero false, 0)
  | .tanh, .inf true => some (one + 2 ^ (f.eb + f.mb), 0)
  | .gelu, .inf true => some (zero true, 0)
  | .rsq, .inf false => some (zero false, 0)
  | .tanh, .inf false | .sigm, .inf false => some (one, 0)
  | _, .inf false => some (inf false, 0)
  | .rcp, .fin n 0 _ | .rsq, .fin n 0 _ => some (inf n, 2)
  | .log2, .fin _ 0 _ | .ln, .fin _ 0 _ => some (inf true, 2)
  | .exp2, .fin _ 0 _ | .exp, .fin _ 0 _ | .cos, .fin _ 0 _ => some (one, 0)
  | .sigm, .fin _ 0 _ => some (one - 2 ^ f.mb, 0)
  | .sqrt, .fin n 0 _ | .sin, .fin n 0 _ | .tanh, .fin n 0 _ | .gelu, .fin n 0 _ => some (zero n, 0)
  | .rsq, .fin true _ _ | .sqrt, .fin true _ _ | .log2, .fin true _ _ | .ln, .fin true _ _ => some nan
  | _, _ => none

/-- ±m·2^e as a rational number. -/
def dyRat (m e : Int) : Rat := (m : Rat) * (2 : Rat) ^ e

/-- The exact value of a transcendental at ±m·2^e: itself where it is a dyadic number, else the model's approximation of it, whose distance the
manual's bounds do not notice (log 10). -/
def exactAt (fn : Config.TFun) (n : Bool) (m : Nat) (e : Int) : Dy :=
  match tExact fn m e n with
  | some (.fin n' m' e') => ⟨if n' then -(m' : Int) else m', e'⟩
  | _ => tApprox fn n m e

/-- The largest error of R159 at the argument of magnitude `x` with the exact value `a` of leading exponent `top`: one unit in the last place, and in
the fast grade the bound of Table 10 where that is larger. -/
def errorBound (f : FFmt) (fn : Config.TFun) (acc : Bool) (x a : Rat) (top : Int) : Rat :=
  let ulp : Rat := (2 : Rat) ^ (max top (1 - f.bias) - f.mb)
  let table : Rat := match fn with
    | .rcp | .rsq | .sqrt => a.abs * (2 : Rat) ^ (-14 : Int)
    | .exp2 | .exp => a.abs * (2 : Rat) ^ (-13 : Int)
    | .log2 | .ln | .tanh | .sigm => (2 : Rat) ^ (-14 : Int)
    | .sin | .cos => (2 : Rat) ^ (-13 : Int)
    | .gelu => (2 : Rat) ^ (-12 : Int) * max 1 x
  if acc then ulp else max table ulp

/-- A result within the error of R159, at the argument of magnitude m·2^e with the exact value `a`: closer than the bound (by the 2^-64th part of it,
log 157); beyond 2^16 a fast sine or cosine in [-1, 1]; an infinity of its sign for a value the format does not reach, or closer than the
bound to 2^(bias + 1). -/
def errorOk (f : FFmt) (fn : Config.TFun) (acc : Bool) (m : Nat) (e : Int) (a : Dy) (bits : Nat) : Prop :=
  let x := dyRat m e
  let far : Prop := acc = false ∧ (fn = .sin ∨ fn = .cos) ∧ 65536 < x
  let top := topExp a.m.natAbs a.e
  let near (v : Rat) : Prop := (v - dyRat a.m a.e).abs * 2 ^ 64 ≤ (2 ^ 64 - 1) * errorBound f fn acc x (dyRat a.m a.e) top
  match f.decode bits with
  | .fin n p q => (far → dyRat p q ≤ 1) ∧ (¬ far → near (dyRat (if n then -(p : Int) else p) q))
  | .inf n => ¬ far ∧ n = decide (a.m < 0) ∧ (f.bias + 1 ≤ top ∨ near (dyRat (if n then -1 else 1) (f.bias + 1)))
  | _ => False

end Sys2Proof

open Sys2Proof Sys2Proof.Machine

/-- The transcendentals (R159, R160): each enabled element gets a function of its input and the grade alone, within 6 or 12 cycles; on
the special inputs of Table 11 and NaN that function gives what the table says; on every other input its error is within the bound of its
grade, the fast grade writing a subnormal result as zero, and accurate VSQRT is correctly rounded. Choices of the model: log entries 10, 122
and 157, an error equal to the bound. -/
def Sys2Proof.Claim.TranscendentalResults : Prop :=
  (∀ (s : State) (o : V3), s.vecReady o.ctl o.k →
    let acc := o.vb.getLsbD 0
    ∀ p ∈ [(Instr.vrcp o, Config.TFun.rcp), (.vrsq o, .rsq), (.vsqrt o, .sqrt), (.vexp2 o, .exp2), (.vlog2 o, .log2), (.vexp o, .exp), (.vln o, .ln),
        (.vsin o, .sin), (.vcos o, .cos), (.vtanh o, .tanh), (.vsigm o, .sigm), (.vgelu o, .gelu)],
      exec p.1 s = .next (s.lanes1 o (if acc then 12 else 6) (fun a => tEl p.2 o.ty acc a))) ∧
  (∀ (fn : Config.TFun) (t : ETy) (acc : Bool) (x : Nat) (f : FFmt), (t = .f32 ∧ f = fp32) ∨ (t = .bf16 ∧ f = bf16) ∨ (t = .f16 ∧ f = fp16) →
    x < 2 ^ (8 * elemSize t) →
    (f.decode x = .nan → tEl fn t acc x = ⟨f.qnan, if f.snan x then 1 else 0⟩) ∧
    (∀ r, specialTable f fn (f.decode x) = some r → (acc = true ∨ f.subnormal x = false) → tEl fn t acc x = ⟨r.1, r.2⟩) ∧
    (∀ n m e, f.decode x = .fin n m e → m ≠ 0 → specialTable f fn (f.decode x) = none → (acc = true ∨ f.subnormal x = false) →
      let v := (tEl fn t acc x).val
      (∃ raw, errorOk f fn acc m e (exactAt fn n m e) raw ∧
        v = if acc = false ∧ f.subnormal raw = true then f.zeroBits (decide (raw / 2 ^ (f.eb + f.mb) % 2 = 1)) else raw) ∧
      (fn = .sqrt → acc = true → ∃ p q, f.decode v = .fin false p q ∧
        (2 * p - 1 : Rat) ^ 2 * (2 : Rat) ^ (2 * q) ≤ 4 * dyRat m e ∧ 4 * dyRat m e ≤ (2 * p + 1 : Rat) ^ 2 * (2 : Rat) ^ (2 * q))))

/-- What is exact among the transcendentals (R159): VEXP2 of an integer with a normal result, VLOG2 of a power of two, VRCP of a power of
two with a normal reciprocal, VSQRT and VRSQ of an even power of two, in both grades and every type. Choices of the model: log entry 10. -/
def Sys2Proof.Claim.TranscendentalExact : Prop :=
  ∀ (t : ETy) (f : FFmt) (acc : Bool) (n : Int), (t = .f32 ∧ f = fp32) ∨ (t = .bf16 ∧ f = bf16) ∨ (t = .f16 ∧ f = fp16) →
    1 - f.bias ≤ n → n ≤ f.bias →
    let pow (n : Int) : Nat := (n + f.bias).toNat * 2 ^ f.mb
    let int (n : Int) : Nat := (f.round .rne (.fin (decide (n < 0)) n.natAbs 0)).bits
    (tEl .exp2 t acc (int n)).val = pow n ∧ (tEl .log2 t acc (pow n)).val = int n ∧
    (-n ≥ 1 - f.bias → (tEl .rcp t acc (pow n)).val = pow (-n)) ∧
    (n % 2 = 0 → (tEl .sqrt t acc (pow n)).val = pow (n / 2) ∧ (tEl .rsq t acc (pow n)).val = pow (-(n / 2)))

/-- VCLMP (R161): by the mode of the bound register, a copy, a copy with a hit, a clamp with a hit where it changed something, or cause
0x09 where an element is out of range. Choices of the model: log entries 17 and 43. -/
def Sys2Proof.Claim.VclmpResult : Prop :=
  ∀ (s : State) (o : V3), s.vecReady o.ctl o.k → o.vb.toNat < 16 →
    let k := s.me
    let e := elemSize o.ty
    let i := o.vb.toNat
    let bnd := k.csr.bnd.toList.getD i 0
    let mode := k.csr.bndmode.toNat / 4 ^ i % 4
    let on := lanes k o.sl o.k e
    let out (b : Nat) : Bool := outOfRange bnd o.ty (laneOf k o.va b e) (laneBad k o.va b)
    let writes (f : Nat → Nat) (hit : Bool) : State :=
      s.retired o.ctl 2 3 (fun t =>
        let t1 := t.applyAll s.cur (k.vResult o.vd (on.map (fun b => ⟨b, e, f b, laneBad k o.va b⟩)) 0 3)
        if hit then t1.modCore s.cur (fun u => { u with csr := { u.csr with bndhit := u.csr.bndhit ||| BitVec.ofNat 16 (2 ^ i) } }) else t1)
        (k.landsAt (k.vResult o.vd (on.map (fun b => ⟨b, e, f b, laneBad k o.va b⟩)) 0 3))
    let copy (b : Nat) : Nat := laneOf k o.va b e
    let clamp (b : Nat) : Nat := clampEl bnd o.ty (laneOf k o.va b e) (laneBad k o.va b)
    (mode = 0 → exec (.vclmp o) s = .next (writes copy false)) ∧
    (mode = 1 → exec (.vclmp o) s = .next (writes copy (on.any out))) ∧
    (mode = 2 → exec (.vclmp o) s = .next (writes clamp (on.any (fun b => clamp b != copy b)))) ∧
    (mode = 3 → on.any out = false → exec (.vclmp o) s = .next (writes copy false)) ∧
    (mode = 3 → on.any out = true → exec (.vclmp o) s = .next (s.trapped o.ctl ⟨0x09, BitVec.ofNat 16 i, 0⟩))

/-- VACR and VACW (R166, R167, R190): a quarter of an accumulator row read into a register or written from one, element by element with its
poison, after the draw of its injector (R326); on a gated or waking array both raise cause 0x0C. Choices of the model: log entry 8. -/
def Sys2Proof.Claim.AccumulatorAccess : Prop :=
  ∀ (s : State) (o : V3), s.vecReady o.ctl o.k →
    let k := s.me
    let row := o.vb.toNat % 8 * 32 + o.va.toNat
    let at' (j : Nat) : Nat := 64 * row + 16 * (o.vb.toNat / 8) + j
    let on := (List.range 16).filter (fun j => (k.readK o.k).getLsbD (8 * j))
    (k.mx.gate.isGated = true ∨ k.mx.gate.isWaking = true →
      exec (.vacr o) s = .next (s.trapped o.ctl ⟨0x0C, 0, 0⟩) ∧ exec (.vacw o) s = .next (s.trapped o.ctl ⟨0x0C, 0, 0⟩)) ∧
    (k.mx.gate.isGated = false → k.mx.gate.isWaking = false →
      (let u := (k.afterDraws .acc (on.map at')).mx
       let ws := on.map (fun j => (⟨8 * j, 8, (u.el (at' j)).val.toNat, (u.el (at' j)).poison⟩ : VW))
       exec (.vacr o) s = .next (s.retired o.ctl 2 8 (fun t =>
         (t.injectReads s.cur .acc (on.map at')).applyAll s.cur (k.vResult o.vd ws 0 8)) (k.landsAt (k.vResult o.vd ws 0 8)))) ∧
      ∃ t, exec (.vacw o) s = .next t ∧ t.me.regs = k.regs ∧
        (SMap.wf .zero k.mx.acc = true →
          (∀ j ∈ on, t.me.mx.el (at' j) = ⟨BitVec.ofNat 64 (laneOf k o.vd (8 * j) 8), false, laneBad k o.vd (8 * j)⟩) ∧
          ∀ a, (∀ j ∈ on, a ≠ at' j) → t.me.mx.el a = k.mx.el a))


-- Landing, frames, vector memory --------------------------------------------------------------------------------------

namespace Sys2Proof
open Sys2Proof.Machine

/-- What a register or memory granule a result goes to holds now, and its poison. -/
def Machine.Core.readDest (k : Core) (d : PDest) : Option (Gran × Bool) :=
  match d with
  | .x n => some ((k.regs.x[n.toNat]'(n.isLt)).setWidth 256, k.regs.xp.getLsbD n.toNat)
  | .hx n => some ((k.bank.x[n.toNat]'(n.isLt)).setWidth 256, k.bank.xp.getLsbD n.toNat)
  | .v n g => some (((k.readV n).extractLsb' (64 * g.toNat) 64 : Word).setWidth 256, (k.poisonV n).getLsbD g.toNat)
  | .k n => some ((k.regs.k[n.toNat]'(n.isLt)).setWidth 256, k.regs.kp.getLsbD n.toNat)
  | .cell b i => some ((SMap.get .zeroCell (k.mx.plane b) i).raw.setWidth 256, (SMap.get .zeroCell (k.mx.plane b) i).poison)
  | .acc i => some ((k.mx.el i).val.setWidth 256, (k.mx.el i).poison)
  | .gran .. => none

end Sys2Proof

open Sys2Proof Sys2Proof.Machine

/-- Writing an X register (R16, R19, R85, R90): a write of X0 does nothing; a result of one cycle is read at once, in handler mode from the
handler's bank for X24 to X31; a longer one leaves every register as it is and lands later; no other register ever changes. Choices of the model: log entry 5. -/
def Sys2Proof.Claim.RegisterWrite : Prop :=
  ∀ (k : Core) (n : Reg) (v : XW) (bound : Nat),
    let k1 := k.writeX n v bound
    (n = 0 → k1 = k) ∧
    (n ≠ 0 → bound ≤ 1 → k1.readX n = v ∧ (∀ m, m ≠ n → k1.readX m = k.readX m) ∧ (∀ e ∈ k1.pend, e.dest ≠ k.xDest n) ∧
      (k.csr.hm = true → n.toNat ≥ 24 → k1.regs = k.regs)) ∧
    (n ≠ 0 → 1 < bound → k1.regs = k.regs ∧ k1.bank = k.bank ∧
      k1.pend = k.pend ++ [⟨k.xDest n, v.val.setWidth 256, v.poison, k.ct + bound, false, 0⟩])

/-- A pending register result lands (R85): its granule holds its value and poison, results for the same granule issued before it are gone,
those issued after it and those for other granules are still to land, and no other register granule changes. Choices of the model: log entries 5 and 152. -/
def Sys2Proof.Claim.ResultLanding : Prop :=
  ∀ (s : State) (c : CoreId) (i : Nat) (e : Pend), (s.core c).pend[i]? = some e →
    (∃ n, e.dest = .x n ∧ n ≠ 0) ∨ (∃ n, e.dest = .hx n) ∨ (∃ n g, e.dest = .v n g) ∨ (∃ n, e.dest = .k n ∧ n ≠ 0) →
    let k := s.core c
    ∃ t, exec (.resultLanding c i) s = .next t ∧
      (t.core c).readDest e.dest = some (match e.dest with | .k _ => ((e.val.setWidth 128 : BitVec 128).setWidth 256, e.poison)
                                                           | _ => ((e.val.setWidth 64 : Word).setWidth 256, e.poison)) ∧
      (∀ d, d ≠ e.dest → (t.core c).readDest d = k.readDest d) ∧
      (t.core c).pend = (k.pend.take i).filter (fun p => p.dest != e.dest) ++ k.pend.drop (i + 1) ∧
      (t.core c).sp = k.sp ∧ (t.core c).hold = k.hold ∧ t.hbm = s.hbm ∧ ∀ c', c' ≠ c → t.core c' = s.core c'

/-- The granules of a vector result (R135, R136): exactly the 64-bit granules in which a byte is written are written, a byte with the
value written there and the others with the value held at issue; a granule is poisoned if an element written into it is, or if it keeps a
byte of a poisoned granule. -/
def Obligations.VectorRegisterWrite : Prop :=
  ∀ (old : BitVec 1024) (oldp : BitVec 16) (ws : List VW),
    (∀ w ∈ ws, w.size ∈ [1, 2, 4, 8] ∧ w.off % w.size = 0 ∧ w.off < 128 ∧ w.val < 2 ^ (8 * w.size)) →
    ws.Pairwise (fun a b => a.off + a.size ≤ b.off ∨ b.off + b.size ≤ a.off) →
    let covers (w : VW) (b : Nat) : Prop := w.off ≤ b ∧ b < w.off + w.size
    (∀ g < 16, (∃ v q, (g, v, q) ∈ vGranules old oldp ws) ↔ ∃ w ∈ ws, w.off / 8 = g) ∧
    ∀ p ∈ vGranules old oldp ws, p.1 < 16 ∧
      (∀ b < 8, (∀ w ∈ ws, covers w (8 * p.1 + b) → p.2.1.toNat / 2 ^ (8 * b) % 256 = w.val / 2 ^ (8 * (8 * p.1 + b - w.off)) % 256) ∧
        ((∀ w ∈ ws, ¬ covers w (8 * p.1 + b)) → p.2.1.toNat / 2 ^ (8 * b) % 256 = old.toNat / 2 ^ (8 * (8 * p.1 + b)) % 256)) ∧
      (p.2.2 = true ↔ (∃ w ∈ ws, w.off / 8 = p.1 ∧ w.poison = true) ∨
        (oldp.getLsbD p.1 = true ∧ ∃ b < 8, ∀ w ∈ ws, ¬ covers w (8 * p.1 + b)))

/-- The frame of an instruction whose own effect is an X register (all of R102 to R119 but the mask and predicate writes, MOVL with its three
words, and every load): no other register, predicate, mask or vector changes, nor any memory, semaphore, berth or other core; of the CSRs
only TCYC and the loop registers of a back edge do. A load may besides poison the granule its injector draws on, and no byte changes (R326),
and the berths whose check it passes pass (R302). -/
def Obligations.FrameOfX : Prop :=
  ∀ (s : State) (c : Ctl) (bound : Nat) (xd : Reg) (v : XW),
    let k := s.me
    let frame (t : State) : Prop :=
      let r := t.me
      (∀ n, n ≠ xd → r.readX n = k.readX n) ∧ r.readX 0 = ⟨0, false⟩ ∧ r.regs.p = k.regs.p ∧ r.regs.pp = k.regs.pp ∧ r.regs.k = k.regs.k ∧
      r.regs.kp = k.regs.kp ∧ r.regs.v = k.regs.v ∧ r.regs.vp = k.regs.vp ∧ r.buf = k.buf ∧ t.hbm = s.hbm ∧
      r.planes = k.planes ∧ r.sems = k.sems ∧ r.queue = k.queue ∧ r.mx = k.mx.age ∧ t.tnow = s.tnow ∧
      (∀ o, o ≠ s.cur → t.core o = s.core o) ∧ r.csr = { k.csr with tcyc := k.csr.tcyc + 1, lc := r.csr.lc, le := r.csr.le } ∧
      (k.csr.hm = true → r.csr.lc = k.csr.lc ∧ r.csr.le = k.csr.le)
    let bytesKept (before after : PMem) (g : Nat) : Prop := after.cells = before.cells ∧ ∀ h, h ≠ g → after.poisoned h = before.poisoned h
    (∀ t ∈ [s.givesX c bound xd v, s.retired c 3 bound (fun t => t.modCore s.cur (fun k => k.writeX xd v bound)) (k.xLands xd bound)],
      frame t ∧ t.me.sp = k.sp ∧ t.me.hold = k.hold ∧ t.me.berths = k.berths) ∧
    (∀ g ns, let t := s.loaded c bound xd v .pad g ns
      frame t ∧ t.me.hold = k.hold ∧ bytesKept k.sp t.me.sp g ∧ (k.injects .pad = false → t.me.sp = k.sp) ∧
        ∀ n, t.me.berth n = if n ∈ ns then { k.berth n with pending := false } else k.berth n) ∧
    (∀ (sz : MemSize) (xb : Reg) (cls : BitVec 4) (off : BitVec 11) (t : State), s.alone c → (k.readX xb).poison = false →
      fits (addrOf (k.readX xb).val off sz) 1 (2 ^ 22) sz → exec (.hld c sz xd xb cls off) s = .next t →
      frame t ∧ t.me.sp = k.sp ∧ bytesKept k.hold t.me.hold ((addrOf (k.readX xb).val off sz).toNat % 2 ^ 60 / 32) ∧ t.me.berths = k.berths)

/-- A store of the program thread (R84, R122, R123): the program thread reads the stored bytes of its granule at once, the others as
before, and every other granule of the scratchpad and of the hold as before, whether or not other agents see the store yet. Choices of the model: log entry 6. -/
def Obligations.StoredBytes : Prop :=
  ∀ (k : Core) (hold : Bool) (g : Nat) (v : Gran) (mask : BitVec 32) (q : Option Bool) (cls : BitVec 4) (now : Word) (late : Bool),
    k.sp.wf = true → k.hold.wf = true →
    (hold = true → (SMap.get 0 k.holdErr g).toNat = 0) →
    let r := k.store hold g v mask q cls now late
    (r.viewGran hold g).2 = q.getD (k.viewGran hold g).2 ∧
    (∀ i < 32, (r.viewGran hold g).1.toNat / 2 ^ (8 * i) % 256 =
      if mask.getLsbD i then v.toNat / 2 ^ (8 * i) % 256 else (k.viewGran hold g).1.toNat / 2 ^ (8 * i) % 256) ∧
    (∀ h n, ¬ (h = hold ∧ n = g) → r.viewGran h n = k.viewGran h n) ∧
    r.regs = k.regs ∧ r.csr = k.csr ∧ r.sems = k.sems ∧ r.berths = k.berths ∧ r.queue = k.queue

/-- The checks every vector slot makes (R135, R137, R260): in handler mode without HVX cause 0x03, then a poisoned mask cause 0x08, before
any effect. -/
def Sys2Proof.Claim.VectorChecks : Prop :=
  ∀ (s : State) (o : V3) (m : VM) (f : SlotFault), s.alone o.ctl → m.ctl = o.ctl → m.k = o.k →
    (s.me.csr.hm = true ∧ s.me.csr.hvx = false ∧ f = ⟨0x03, 0, 0⟩) ∨
      (¬ (s.me.csr.hm = true ∧ s.me.csr.hvx = false) ∧ s.me.poisonK o.k = true ∧ f = ⟨0x08, 0, 0⟩) →
    ∀ i ∈ [.vadd o, .vsub o, .vmul o, .vfma o, .vfms o, .vmin o, .vmax o, .vminn o, .vmaxn o, .vabs o, .vneg o, .vadds o, .vsubs o, .vmulh o,
        .vclmp o, .vand o, .vor o, .vxor o, .vshl o, .vshr o, .vsar o, .vshli o, .vshri o, .vsari o, .vaddx o, .vmulx o, .vfmax o, .vbcst o,
        .vext o, .vcmp o, .vsel o, .vcvt o, .vqnt o, .vdqnt o, .vpk6 o, .vupk6 o, .vpk4 o, .vupk4 o, .vl2f o, .vf2l o, .vrcp o, .vrsq o, .vsqrt o,
        .vexp2 o, .vlog2 o, .vexp o, .vln o, .vsin o, .vcos o, .vtanh o, .vsigm o, .vgelu o, .vperm o, .vshuf o, .vred o, .vacr o, .vacw o,
        .vld m, .vst m, .vlds m, .vsts m, .vgth m, .vsct m],
      exec i s = .next (s.trapped o.ctl f)

/-- A vector slot that passes its checks completes (R134 to R137, R84, R85), for every form of the table but the loads and stores: exec answers a
next state with control at the next bundle, one task cycle more, no trap, and the registers, memories and semaphores as they were; what is to land
goes into granules of Vd alone, within 2 to 12 cycles; VCMP's goes into Kd alone; VCLMP in trap mode completes where no enabled element is out of
range; VACR and VACW where the array is open, and VACW leaves the registers and every row but its own. -/
def Sys2Proof.Claim.VectorCompletion : Prop :=
  ∀ (s : State) (o : V3), s.vecReady o.ctl o.k →
    let k := s.me
    let goesOn (t : State) : Prop := t.me.pc = (k.backEdge 2).2.2.2.2 ∧ t.me.run = k.run ∧ t.me.freeze = none ∧ t.me.bundle = none ∧
      t.me.csr.tcyc = k.csr.tcyc + 1 ∧ t.me.csr.hm = k.csr.hm ∧ t.me.csr.cause = k.csr.cause ∧ t.me.csr.epc = k.csr.epc ∧
      t.me.regs = k.regs ∧ t.me.sems = k.sems ∧ t.me.berths = k.berths ∧ t.hbm = s.hbm ∧ (∀ c, c ≠ s.cur → t.core c = s.core c)
    let lands (t : State) (at_ : PDest → Prop) : Prop :=
      ∃ ps, t.me.pend = k.pend ++ ps ∧ ∀ p ∈ ps, at_ p.dest ∧ p.mx = false ∧ k.ct + 2 ≤ p.due ∧ p.due ≤ k.ct + 12
    let inVd (d : PDest) : Prop := ∃ g, d = .v o.vd g
    let kept (t : State) : Prop := t.me.sp = k.sp ∧ t.me.hold = k.hold ∧ t.me.mx.acc = k.mx.acc
    (∀ i ∈ [Instr.vadd o, .vsub o, .vmul o, .vfma o, .vfms o, .vmin o, .vmax o, .vminn o, .vmaxn o, .vabs o, .vneg o, .vadds o, .vsubs o, .vmulh o,
        .vaddx o, .vmulx o, .vfmax o, .vand o, .vor o, .vxor o, .vshl o, .vshr o, .vsar o, .vshli o, .vshri o, .vsari o, .vbcst o, .vext o, .vsel o,
        .vperm o, .vshuf o, .vred o, .vcvt o, .vqnt o, .vdqnt o, .vpk6 o, .vupk6 o, .vpk4 o, .vupk4 o, .vl2f o, .vf2l o, .vrcp o, .vrsq o, .vsqrt o,
        .vexp2 o, .vlog2 o, .vexp o, .vln o, .vsin o, .vcos o, .vtanh o, .vsigm o, .vgelu o],
      ∃ t, exec i s = .next t ∧ goesOn t ∧ lands t inVd ∧ kept t) ∧
    (∃ t, exec (.vcmp o) s = .next t ∧ goesOn t ∧ lands t (fun d => d = .k (o.vd.extractLsb' 0 3)) ∧ kept t) ∧
    ((k.csr.bndmode.toNat / 4 ^ (o.vb.toNat % 16) % 4 = 3 →
        ∀ b ∈ lanes k o.sl o.k (elemSize o.ty), outOfRange (k.csr.bnd.toList.getD (o.vb.toNat % 16) 0) o.ty (laneOf k o.va b (elemSize o.ty)) (laneBad k o.va b) = false) →
      ∃ t, exec (.vclmp o) s = .next t ∧ goesOn t ∧ lands t inVd ∧ kept t) ∧
    (k.mx.gate.isGated = false → k.mx.gate.isWaking = false → k.injects .acc = false →
      (∃ t, exec (.vacr o) s = .next t ∧ goesOn t ∧ lands t inVd ∧ kept t) ∧
      (∃ t, exec (.vacw o) s = .next t ∧ goesOn t ∧ t.me.sp = k.sp ∧ t.me.hold = k.hold ∧
        (SMap.wf .zero k.mx.acc = true → ∀ e, e / 64 ≠ o.vb.toNat % 8 * 32 + o.va.toNat → t.me.mx.el e = k.mx.el e)))

namespace Sys2Proof
open Sys2Proof.Machine

/-- What check_ptr with the end of the access says of an access of `n` bytes aligned to `a` (R90, R162): tag, offset, end, alignment. -/
def accessCheck (tags : List Nat) (n a : Nat) (p : Word) : Option SlotFault :=
  let tag := p.toNat / 2 ^ 60
  let size := if tag = 0 then 2 ^ 19 else if tag = 1 then 2 ^ 22 else if tag = 2 then 2 ^ 48 else 2 ^ 13
  if tag ∉ tags then some ⟨0x06, 0, p⟩
  else if p.toNat % 2 ^ 60 + n > size then some ⟨0x05, 0, p⟩
  else if p.toNat % a ≠ 0 then some ⟨0x04, 0, p⟩ else none

/-- The first fault of several accesses in order (R164). -/
def accessChecks (tags : List Nat) (z : Nat) (ps : List Word) : Option SlotFault := ps.findSome? (accessCheck tags z z)

/-- The elements of a gathering or scattering form with size `z`: register byte and address (R164, R165). -/
def elements (k : Core) (m : VM) (z : Nat) (addr : Nat → Word) : List (Nat × Word) :=
  let b0 := (sliceTable m.sl).1
  (lanes k m.sl m.k z).map (fun b => (b, addr ((b - b0) / z)))

/-- The state once a vector load has retired: the draws of the injector, the berths that pass, and the bytes or elements read. -/
def Machine.State.vloads (s : State) (m : VM) (bound : Nat) (ws : List VW) (ns : List (BitVec 5)) (gs : List Nat) : State :=
  s.retired m.ctl 2 bound (fun t =>
    ((t.injectReads s.cur .pad gs).modCore s.cur (fun k => k.passBerths ns)).applyAll s.cur (s.me.vResult m.vd ws 0 bound))
    (s.me.landsAt (s.me.vResult m.vd ws 0 bound))

/-- An element read from the scratchpad, or from the plane constants (R28), with the poison of its granule. -/
def readEl (k : Core) (p : Word) (n : Nat) : Nat × Bool :=
  if p.toNat / 2 ^ 60 = 3 then (leNat (k.active.bytes.readRun (0x10000 + p.toNat % 2 ^ 60) n), false) else k.viewBytes false (p.toNat % 2 ^ 60) n

end Sys2Proof

open Sys2Proof Sys2Proof.Machine

/-- VLD, VLDS and VGTH (R162, R164, R165, R302, R326): the enabled bytes or elements are read where their addresses say, with the poison of their
granules after the draws of the injector; a poisoned address register raises 0x08 and the first bad address its own cause; a berth's buffer that has not landed freezes
the bundle, and a wrong tag traps with 0x0A. Choices of the model: log entries 41, 130 and 158. -/
def Obligations.VectorLoads : Prop :=
  ∀ (s : State) (m : VM), s.vecReady m.ctl m.k →
    let k := s.me
    let b := k.readX m.xb
    let base := b.val + BitVec.ofNat 64 (32 * m.lend.toNat)
    let trap (i : Instr) (f : SlotFault) : Prop := exec i s = .next (s.trapped m.ctl f)
    let reads (i : Instr) (bound : Nat) (pads : List (BitVec 5)) (ws : List VW) (gs : List Nat) : Prop :=
      match k.checkBerths pads with
      | .pass ns => exec i s = .next (s.vloads m bound ws ns gs)
      | .bad n => trap i ⟨0x0A, n.setWidth 16, 0⟩
      | .late n => exec i s = .next (s.waiting m.ctl (.buffer n m.ctl.slot.num))
    let gathers (i : Instr) (z : Nat) (es : List (Nat × Word)) : Prop :=
      let pad := es.filter (fun e => e.2.toNat / 2 ^ 60 = 0)
      reads i (6 + ((sliceTable m.sl).2 / z + 15) / 16) (pad.flatMap (fun e => k.berthsAt (e.2.toNat % 2 ^ 60) z)).eraseDups
        (let u := k.afterDraws .pad (pad.map (fun e => e.2.toNat % 2 ^ 60 / 32))
         es.map (fun e => ⟨e.1, z, (readEl u e.2 z).1, (readEl u e.2 z).2⟩)) (pad.map (fun e => e.2.toNat % 2 ^ 60 / 32))
    (b.poison = true → trap (.vld m) ⟨0x08, 0, 0⟩ ∧ trap (.vlds m) ⟨0x08, 0, 0⟩ ∧ trap (.vgth m) ⟨0x08, 0, 0⟩) ∧
    (b.poison = false →
      let (b0, sz) := sliceTable m.sl
      let bytes := (List.range sz).filter (fun j => (k.readK m.k).getLsbD (b0 + j))
      let ws (u : Core) : List VW := bytes.map (fun j => ⟨b0 + j, 1, (readEl u (base + BitVec.ofNat 64 j) 1).1, (readEl u (base + BitVec.ofNat 64 j) 1).2⟩)
      let o := base.toNat % 2 ^ 60
      let gs := (List.range (sz / 32)).map (fun i => o / 32 + i)
      (∀ f, accessCheck [0, 3] sz 32 base = some f → trap (.vld m) f) ∧
      (accessCheck [0, 3] sz 32 base = none → base.toNat / 2 ^ 60 = 0 →
        reads (.vld m) 6 (k.berthsAt o sz) (ws (k.afterDraws .pad gs)) gs) ∧
      (accessCheck [0, 3] sz 32 base = none → base.toNat / 2 ^ 60 = 3 → exec (.vld m) s = .next (s.givesV m.ctl 6 m.vd (ws k) 0)) ∧
      (let x1 := k.readX (m.xb + 1)
       let z := 2 ^ (x1.val.toNat / 2 ^ 62)
       let es := elements k m z (fun j => base + BitVec.ofInt 64 (j * ((x1.val.toNat % 2 ^ 48 : Nat) : Int).bmod (2 ^ 48)))
       (x1.poison = true → trap (.vlds m) ⟨0x08, 0, 0⟩) ∧
       (x1.poison = false → (∀ f, accessChecks [0, 3] z (es.map (·.2)) = some f → trap (.vlds m) f) ∧
         (accessChecks [0, 3] z (es.map (·.2)) = none → gathers (.vlds m) z es))) ∧
      (let z := elemSize (ETy.ofCode m.lend)
       let ix (j : Nat) : Nat := laneOf k (m.vd + 1) (b0 + j * z) z
       let es := elements k m z (fun j => b.val + BitVec.ofNat 64 (ix j * z))
       let bad := (lanes k m.sl m.k z).any (fun p => laneBad k (m.vd + 1) p)
       (bad = true → trap (.vgth m) ⟨0x08, 0, 0⟩) ∧
       (bad = false → b.val.toNat % z ≠ 0 → trap (.vgth m) ⟨0x04, 0, b.val⟩) ∧
       (bad = false → b.val.toNat % z = 0 → (∀ f, accessChecks [0, 3] z (es.map (·.2)) = some f → trap (.vgth m) f) ∧
         (accessChecks [0, 3] z (es.map (·.2)) = none → gathers (.vgth m) z es))))

/-- VST, VSTS and VSCT (R162-R165): seen by the program thread, every enabled byte or element is stored at its address, the highest
element last, and every byte of the scratchpad that no element covers reads as before; a granule becomes poisoned by a poisoned source, clean
where all of it is written clean, and is otherwise as before; registers and the hold are unchanged. A poisoned address register, stride
register or index raises 0x08, a base VSCT cannot align 0x04, and the first bad address its own cause. Choices of the model: log entries 6 and
130, addresses modulo 2^64. -/
def Obligations.VectorStores : Prop :=
  ∀ (s : State) (m : VM), s.vecReady m.ctl m.k → s.me.sp.wf = true →
    let k := s.me
    let b := k.readX m.xb
    let base := b.val + BitVec.ofNat 64 (32 * m.lend.toNat)
    let byteAt (u : Core) (a : Nat) : Nat := (u.viewBytes false a 1).1
    let stores (i : Instr) (es : List (Nat × Word)) (z : Nat) : Prop :=
      let covers (e : Nat × Word) (a : Nat) : Prop := e.2.toNat ≤ a ∧ a < e.2.toNat + z
      let bad (g : Nat) : Prop := ∃ e ∈ es, e.2.toNat / 32 = g ∧ laneBad k m.vd e.1 = true
      let whole (g : Nat) : Prop := ∀ i < 32, ∃ e ∈ es, covers e (32 * g + i)
      ∃ t, exec i s = .next t ∧ t.me.regs = k.regs ∧ t.me.hold = k.hold ∧ t.hbm = s.hbm ∧
        (∀ a < 2 ^ 19, (∀ e ∈ es, ¬ covers e a) → byteAt t.me a = byteAt k a) ∧
        (∀ pre e post a, es = pre ++ e :: post → covers e a → (∀ l ∈ post, ¬ covers l a) →
          byteAt t.me a = laneOf k m.vd (e.1 + (a - e.2.toNat)) 1) ∧
        ∀ g < 2 ^ 14, (bad g → (t.me.viewGran false g).2 = true) ∧ (¬ bad g → whole g → (t.me.viewGran false g).2 = false) ∧
          (¬ bad g → ¬ whole g → (t.me.viewGran false g).2 = (k.viewGran false g).2)
    let trap (i : Instr) (f : SlotFault) : Prop := exec i s = .next (s.trapped m.ctl f)
    (b.poison = true → trap (.vst m) ⟨0x08, 0, 0⟩ ∧ trap (.vsts m) ⟨0x08, 0, 0⟩ ∧ trap (.vsct m) ⟨0x08, 0, 0⟩) ∧
    (b.poison = false →
      let (b0, sz) := sliceTable m.sl
      (accessCheck [0] sz 32 base = none →
        stores (.vst m) (((List.range sz).filter (fun j => (k.readK m.k).getLsbD (b0 + j))).map (fun j => (b0 + j, base + BitVec.ofNat 64 j))) 1) ∧
      (∀ f, accessCheck [0] sz 32 base = some f → trap (.vst m) f) ∧
      (let x1 := k.readX (m.xb + 1)
       let z := 2 ^ (x1.val.toNat / 2 ^ 62)
       let es := elements k m z (fun j => base + BitVec.ofInt 64 (j * ((x1.val.toNat % 2 ^ 48 : Nat) : Int).bmod (2 ^ 48)))
       (x1.poison = true → trap (.vsts m) ⟨0x08, 0, 0⟩) ∧
       (x1.poison = false → (∀ f, accessChecks [0] z (es.map (·.2)) = some f → trap (.vsts m) f) ∧
         (accessChecks [0] z (es.map (·.2)) = none → stores (.vsts m) es z))) ∧
      (let z := elemSize (ETy.ofCode m.lend)
       let es := elements k m z (fun j => b.val + BitVec.ofNat 64 (laneOf k (m.vd + 1) (b0 + j * z) z * z))
       let bad := (lanes k m.sl m.k z).any (fun p => laneBad k (m.vd + 1) p)
       (bad = true → trap (.vsct m) ⟨0x08, 0, 0⟩) ∧
       (bad = false → b.val.toNat % z ≠ 0 → trap (.vsct m) ⟨0x04, 0, b.val⟩) ∧
       (bad = false → b.val.toNat % z = 0 →
         (∀ f, accessChecks [0] z (es.map (·.2)) = some f → trap (.vsct m) f) ∧
         (accessChecks [0] z (es.map (·.2)) = none → stores (.vsct m) es z))))


-- The array -----------------------------------------------------------------------------------------------------------

namespace Sys2Proof
open Sys2Proof.Machine

/-- A pointer of a matrix instruction that passes items 6 to 8 of R172: tag, end inside the space, alignment. -/
def mxFits (tag bits size align : Nat) (p : Word) : Prop :=
  p.toNat / 2 ^ 60 = tag ∧ p.toNat % 2 ^ 60 + size ≤ 2 ^ bits ∧ p.toNat % align = 0

/-- The fields of an MCFG word (R176, Table 3). -/
def mcField (m : BitVec 32) (lo n : Nat) : Nat := m.toNat / 2 ^ lo % 2 ^ n
/-- Whether an MCFG word is valid (R176, Table 3). -/
def mcLegal (m : BitVec 32) : Prop :=
  mcField m 0 3 ≤ 4 ∧ mcField m 4 4 ≤ 5 ∧ mcField m 8 4 ≤ 13 ∧ mcField m 24 4 ≤ 8 ∧ mcField m 3 1 = 0 ∧ mcField m 14 2 = 0 ∧ mcField m 28 4 = 0

/-- Bytes of an element of each drain format (R185). -/
def drainSize (d : Nat) : Nat := match d with | 0 => 4 | 1 => 2 | 2 => 2 | 3 => 2 | 4 => 1 | 5 => 1 | 6 => 4 | 7 => 8 | _ => 2
/-- A stride operand, in which 0 stands for the bytes of a row (R181, R185). -/
def strideAt (xn : Word) (row : Nat) : Nat := if xn.toNat / 2 ^ 16 % 2 ^ 16 = 0 then row else xn.toNat / 2 ^ 16 % 2 ^ 16
/-- The count of rows an operand names (R171). -/
def countOf (xn : Word) : Nat := xn.toNat % 256 + 1

/-- The row pointers and scale pointers of MSTRM, MDRN and MDRNH pass their checks (R172, R181, R185). -/
def rowsFit (xa xn x1 : Word) (tag bits row align : Nat) (scaled : Prop) : Prop :=
  let st := strideAt xn row
  (∀ i < countOf xn, mxFits tag bits row align (xa + BitVec.ofNat 64 (i * st))) ∧
  (scaled → ∀ i < 2 * countOf xn, mxFits tag bits 1 1 (x1 + BitVec.ofNat 64 i)) ∧ st % align = 0

end Sys2Proof

open Sys2Proof Sys2Proof.Machine

/-- The queued matrix instructions at issue (R171 to R176, R181, R185): where the array may be used, the operands are clean, the pointers
pass their checks and fewer than eight instructions wait, each enters the queue with its operands as read at issue, MTBL with the table it
reads there; with eight waiting the cause is 0x0A with DETAIL 0xFFFF. Choices of the model: log entries 131, MCFG's cause 0x01 whatever the queue
holds, and 46, no poison in the tables. -/
def Obligations.MatrixQueued : Prop :=
  ∀ (s : State) (o : MX) (z : Bool), s.mxReady o.ctl →
    let k := s.me
    let a := k.readX o.xa
    let n := k.readX o.xn
    let n1 := k.readX (o.xn + 1)
    let cfg := k.mx.mcfgTail
    let enters (i : Instr) (xa xn x1 : Word) : Prop :=
      (k.mx.waiting k.mt < 8 → exec i s = .next (s.queued i o.ctl xa xn x1 [] id)) ∧
      (8 ≤ k.mx.waiting k.mt → exec i s = .next (s.trapped o.ctl ⟨0x0A, 0xFFFF, 0⟩))
    (a.poison = false → mcLegal (a.val.setWidth 32) → enters (.mcfg o) a.val 0 0) ∧
    (a.poison = false → ¬ mcLegal (a.val.setWidth 32) → exec (.mcfg o) s = .next (s.trapped o.ctl ⟨0x01, 0, a.val⟩)) ∧
    (a.poison = false → mxFits 0 19 32 32 a.val →
      let off := a.val.toNat
      (8 ≤ k.mx.waiting k.mt → exec (.mtbl o z) s = .next (s.trapped o.ctl ⟨0x0A, 0xFFFF, 0⟩)) ∧
      ∀ ns, k.checkBerths (k.berthsAt off 32) = .pass ns → (k.mx.waiting k.mt < 8 → exec (.mtbl o z) s = .next (s.queued (.mtbl o z) o.ctl a.val 0 0
          ((List.range 16).map (fun i => BitVec.ofNat 16 (leNat ((((k.afterDraws .pad [off / 32]).viewRun false off 32).1.drop (2 * i)).take 2))))
          (fun t => t.modCore s.cur (fun k => k.passBerths ns)) (fun t => t.injectReads s.cur .pad [off / 32])))) ∧
    enters (.mwswap o) 0 0 0 ∧
    (a.poison = false → n.poison = false → n1.poison = false →
      rowsFit a.val n.val n1.val 0 19 (8 * fmtBits (mcField cfg 8 4)) 16 (mcField cfg 8 4 ≤ 11) → enters (.mstrm o z) a.val n.val n1.val) ∧
    (a.poison = false → n.poison = false → enters (.mstrma o z) a.val n.val 0) ∧
    (n.poison = false → enters (.mstrmh o z) 0 n.val 0 ∧ enters (.mclr o) 0 n.val 0) ∧
    (a.poison = false → n.poison = false → n1.poison = false →
      let row := 64 * drainSize (mcField cfg 24 4)
      let scaled := mcField cfg 24 4 ∈ [3, 4, 5]
      (rowsFit a.val n.val n1.val 0 19 row 32 scaled → enters (.mdrn o z) a.val n.val n1.val) ∧
      (rowsFit a.val n.val n1.val 1 22 row 32 scaled → enters (.mdrnh o z) a.val n.val n1.val))

/-- The first checks of every matrix instruction (R172, R190, R192): handler use without HMX raises 0x03 before anything else, a gated
array 0x0C with clean operands; MSAVE and MREST in task mode raise 0x03. Choices of the model: log entry 37. -/
def Obligations.MatrixTraps : Prop :=
  ∀ (s : State) (o : MX) (b : Bool), s.alone o.ctl →
    let all : List Instr := [.mcfg o, .mtbl o b, .mwld o b, .mwlds o b, .mwswap o, .mstrm o b, .mstrma o b, .mstrmh o b, .mdrn o b, .mdrnh o b, .mclr o,
      .mhpsh o, .mhcnt o, .mgateOn o b, .mstat o b, .msync o]
    let clean : Prop := (s.me.readX o.xa).poison = false ∧ (s.me.readX o.xn).poison = false ∧ (s.me.readX (o.xn + 1)).poison = false
    (s.me.csr.hm = true → s.me.csr.hmx = false → ∀ i ∈ .mgateOff o :: all, exec i s = .next (s.trapped o.ctl ⟨0x03, 0, 0⟩)) ∧
    (s.mxReady o.ctl → (s.me.readX o.xa).poison = true →
      ∀ i ∈ [.mcfg o, .mtbl o b, .mwld o b, .mwlds o b, .mstrm o b, .mstrma o b, .mdrn o b, .mdrnh o b], exec i s = .next (s.trapped o.ctl ⟨0x08, 0, 0⟩)) ∧
    ((s.me.csr.hm = true → s.me.csr.hmx = true) → s.me.mx.gate.isGated = true → clean → ∀ i ∈ all, exec i s = .next (s.trapped o.ctl ⟨0x0C, 0, 0⟩)) ∧
    (s.me.csr.hm = false → ∀ i ∈ [.msave o b, .mrest o b], exec i s = .next (s.trapped o.ctl ⟨0x03, 0, 0⟩))

/-- MHPSH, MHCNT, MSTAT, MSYNC and MGATE (R183, R184, R188 to R190): the row pushed behind the others, or cause 0x0A with DETAIL 0xFFFE at
16 entries; the free entries; the status word, with the sticky bits of earlier cycles cleared on request; the wait until all matrix work has
landed, after which the slot arrives at once; a gate requested, or on an open, pending or waking array given up, when the array is again as the
request found it. Choices of the model: log entries 117, rows of a hoist stream that enter in this cycle, 125 and 132. -/
def Sys2Proof.Claim.MatrixControl : Prop :=
  ∀ (s : State) (o : MX) (clr ret : Bool), s.mxReady o.ctl →
    let k := s.me
    let cancel (t : State) : State := t.modCore s.cur (fun k => if k.mx.gate.isPending then k.gateLive.gateCancel else k)
    let level : BitVec 2 := if o.ctl.ar then k.csr.ardom else 0
    exec (.mhpsh o) s = .next (if k.hoistHeld ≥ 16 then s.trapped o.ctl ⟨0x0A, 0xFFFE, 0⟩
      else s.retired o.ctl 2 1 (fun t => (cancel t).modCore s.cur (fun k =>
        { k with mx := { k.mx with hoist := k.mx.hoist ++ [(k.readV o.xa, k.poisonV o.xa)], otherDue := max k.mx.otherDue (k.mt + 1) } }))) ∧
    exec (.mhcnt o) s = .next (s.retiredCore o.ctl 2 (fun u => u.writeXm o.xa ⟨BitVec.ofNat 64 (16 - k.hoistHeld), false⟩ 2)
      (if o.xa = 0 then [] else [k.xDest o.xa])) ∧
    (exec (.mstat o clr) s = .next (s.retiredCore o.ctl 2 (fun u =>
        (if clr then { u with mx := { u.mx with sticky := 0 } } else u).writeXm o.xa ⟨k.mstat, false⟩ 2) (if o.xa = 0 then [] else [k.xDest o.xa])) ∧
      (k.hoistHeld < 128 → k.mx.waiting k.mt < 16 →
        k.mstat.toNat / 2 ^ 24 = (k.mx.sticky ||| k.mx.fresh).toNat ∧ k.mstat.toNat / 2 ^ 17 % 128 = k.hoistHeld ∧ k.mstat.toNat / 2 ^ 13 % 16 = k.mx.waiting k.mt ∧
        k.mstat.toNat / 2 ^ 8 % 32 = 0 ∧ (k.mstat.toNat % 2 = 0 ↔ k.mxLanded = true))) ∧
    exec (.msync o) s = .next (if !(k.mxLanded && !k.mx.gate.isPending) then s.waiting o.ctl .msync
      else if k.freeze.any (fun f => f.wait == .msync) then s.waited o.ctl id else s.retired o.ctl 2 1 id) ∧
    (∃ t, exec (.mgateOn o ret) s = .next t ∧ t.me.mx.gate.isPending = true ∧ t.me.mx.acc = k.mx.acc ∧ t.me.regs = k.regs ∧
      (k.mx.gate = .isOpen → t.me.mx.gate = .pending ret 0) ∧ t.me.mx.w0 = k.mx.w0 ∧ t.me.mx.w1 = k.mx.w1 ∧
      (∀ w, k.mx.gate = .waking w → k.mx.gateParked = false → t.me.mx.gate = .pending ret w) ∧
      (level ≠ 0 → t.me.mx.gateAr = k.mx.gateAr ++ [level]) ∧ (level = 0 → t.me.mx.gateAr = k.mx.gateAr)) ∧
    (let kept (t : State) : Prop := t.me.mx.acc = k.mx.acc ∧ t.me.mx.w0 = k.mx.w0 ∧ t.me.mx.w1 = k.mx.w1 ∧ t.me.regs = k.regs ∧ t.me.mx.mcfg = k.mx.mcfg
     (∀ r w, k.mx.gate = .pending r w → ∃ t, exec (.mgateOff o) s = .next t ∧ kept t ∧ t.me.mx.gate.isPending = false ∧ t.me.mx.gate.isGated = false ∧
       (k.mx.gateParked = false → t.me.mx.gate = if w > k.mt then .waking w else .isOpen)) ∧
     (∀ w, k.mx.gate = .waking w → ∃ t, exec (.mgateOff o) s = .next t ∧ kept t ∧ t.me.mx.gate = .waking w)) ∧
    ((s.me.mx.gate = .isOpen → exec (.mgateOff o) s = .next (s.retired { o.ctl with ar := false } 2 1 (fun t => t.modCore s.cur (fun k =>
        if level ≠ 0 then { k with arrivals := k.arrivals ++ [⟨k.ct + 1, level, []⟩] } else k)))))

/-- MGATE off on a gated array (R190): a wake of 2,000 cycles begins. -/
def Sys2Proof.Claim.MatrixWake : Prop :=
  ∀ (s : State) (o : MX) (ret : Bool), s.alone o.ctl → (s.me.csr.hm = true → s.me.csr.hmx = true) → s.me.mx.gate = .gated ret →
    ∃ t, exec (.mgateOff o) s = .next t ∧ t.me.mx.gate = .waking (s.me.mt + 2000) ∧ t.me.mx.acc = s.me.mx.acc ∧ t.me.mx.w0 = s.me.mx.w0 ∧
      t.me.mx.w1 = s.me.mx.w1

/-- MWLD and MWLDS (R178): all 4,096 cells of the shadow plane are to land within the bound, from 256 column words of the hold converted
block by block under the WFMT of the queue's tail, from 64 rows of the scratchpad with their scale bytes, or as raw E-forms, all read after the
draws of the injector (R326) and, in the hold, with their errors (R328). Choices of the model: log entry 33. -/
def Sys2Proof.Claim.WeightLoads : Prop :=
  ∀ (s : State) (o : MX) (b : Bool), s.mxReady o.ctl →
    let k := s.me
    let a := k.readX o.xa
    let n := k.readX o.xn
    let wf := mcField k.mx.mcfgTail 4 4
    let off := a.val.toNat % 2 ^ 60
    let cancel (t : State) : State := t.modCore s.cur (fun k => if k.mx.gate.isPending then k.gateLive.gateCancel else k)
    let loads (t : State) (es : List EForm) (bound : Nat) (st : BitVec 8) : State :=
      (cancel t).modCore s.cur (fun k =>
        let ps := (List.range es.length).map (fun i => (⟨.cell (!k.mx.act) i, (es.getD i ⟨0, false⟩).raw.setWidth 256, (es.getD i ⟨0, false⟩).poison, k.mt + bound, true, 0⟩ : Pend))
        { k with pend := k.pend ++ ps,
                 mx := { k.mx with otherDue := max k.mx.otherDue (k.mt + bound), fresh := k.mx.fresh ||| st, loadDue := max k.mx.loadDue (k.mt + bound) } })
    let cells (n : Nat) : List PDest := (List.range n).map (fun i => .cell (!k.mx.act) i)
    a.poison = false → n.poison = false →
      (mxFits 1 22 8192 32 a.val →
        let gs := (List.range 256).map (fun i => off / 32 + i)
        let el (i : Nat) : BitVec 16 × Bool :=
          let w := k.viewOver true (off / 32 + i / 16) (homeRead (k.afterDraws .hold gs) (off / 32 + i / 16))
          (w.1.extractLsb' (16 * (i % 16)) 16, w.2)
        let block (i : Nat) : List EForm × Sticky :=
          weightBlock wf (n.val.setWidth 8).toInt (if b then some (((n.val.toNat / 256 % 256 : Nat) : Int).bmod 256) else none)
            ((List.range 32).map (fun j => el (32 * i + j)))
        let st := (List.range 128).foldl (fun x i => x ||| stOf (block i).2) 0
        exec (.mwld o b) s = .next (s.retired o.ctl 2 80 (fun t =>
          (gs.filter (homeLogs k)).foldl (fun t g => t.noteHold s.cur g false)
            (loads (t.injectReads s.cur .hold gs) ((List.range 128).flatMap (fun i => (block i).1)) 80 st)) (cells 4096))) ∧
      (b = true → mxFits 0 19 8192 32 a.val → ∀ ns, k.checkBerths (k.berthsAt off 8192).eraseDups = .pass ns →
        let gs := (List.range 256).map (fun i => off / 32 + i)
        let u := k.afterDraws .pad gs
        exec (.mwlds o b) s = .next (s.retired o.ctl 2 80 (fun t =>
          loads ((t.injectReads s.cur .pad gs).modCore s.cur (fun k => k.passBerths ns))
            ((List.range 4096).map (fun i => ⟨BitVec.ofNat 16 (u.viewBytes false (off + 2 * i) 2).1, (u.viewBytes false (off + 2 * i) 2).2⟩)) 80 0) (cells 4096))) ∧
      (b = false → mxFits 0 19 (512 * fmtBits wf) 32 a.val → mxFits 0 19 128 1 n.val →
        let sc := n.val.toNat % 2 ^ 60
        ∀ ns, k.checkBerths (k.berthsAt off (512 * fmtBits wf) ++ k.berthsAt sc 128).eraseDups = .pass ns →
        let gs := granList off (512 * fmtBits wf) ++ granList sc 128
        let u := k.afterDraws .pad gs
        exec (.mwlds o b) s = .next (s.retired o.ctl 2 48 (fun t =>
          loads ((t.injectReads s.cur .pad gs).modCore s.cur (fun k => k.passBerths ns))
            ((List.range 64).flatMap (fun r => u.rowEforms wf (off + r * (8 * fmtBits wf)) (sc + 2 * r))) 48 0) (cells 4096)))

namespace Sys2Proof
open Sys2Proof.Machine

/-- Byte `i` of a number stored from its low byte on. -/
def byteOf (v i : Nat) : Nat := v / 2 ^ (8 * i) % 256

/-- The code of the gate in a matrix record (Table 7). -/
def gateTable (g : Gate) : Nat :=
  match g with
  | .isOpen => 0 | .pending false _ => 1 | .pending true _ => 2 | .gated false => 3 | .gated true => 4 | .waking _ => 5

/-- Byte `i` of a parked entry (Table 8): the slot word as issued, rows entered, cycles to its start or next row, Xa, Xn, X(n+1), and the table of an
MTBL or the MCFG of a stream that has started. -/
def entryByte (it : MxItem) (i : Nat) : Nat :=
  if i < 4 then byteOf (((encodeSlot it.ins).map SlotEnc.word).getD 0).toNat i
  else if i < 6 then byteOf it.rows (i - 4)
  else if i < 8 then byteOf it.next (i - 6)
  else if i < 16 then byteOf it.xa.toNat (i - 8)
  else if i < 24 then byteOf it.xn.toNat (i - 16)
  else if i < 32 then byteOf it.xn1.toNat (i - 24)
  else match it.ins with
    | .mtbl .. => byteOf (it.tbl.getD ((i - 32) / 2) 0).toNat (i % 2)
    | _ => if it.started = true ∧ i < 36 then byteOf it.mcfg.toNat (i - 32) else 0

/-- Byte `i` of the matrix record of an array at array time `t` (Table 7). -/
def recordByte (m : Mx) (t i : Nat) : Nat :=
  let ev := (m.sticky ||| m.fresh).toNat
  let wake := match m.gate with | .waking w => w | .pending _ w => w | _ => 0
  if i < 8 then
    byteOf (0x4D58 + 2 ^ 16 + m.parked.length * 2 ^ 24 + m.hoist.length * 2 ^ 32 + gateTable m.gate * 2 ^ 37 + ev / 128 * 2 ^ 40) i
  else if i < 12 then byteOf m.mcfgTail.toNat (i - 8)
  else if i = 0x13 then ev
  else if 0x18 ≤ i ∧ i < 0x20 then byteOf (if m.gateParked then wake else wake - t) (i - 0x18)
  else if 0x20 ≤ i ∧ i < 0x40 then byteOf (m.t0.getD ((i - 0x20) / 2) 0).toNat (i % 2)
  else if 0x40 ≤ i ∧ i < 0x60 then byteOf (m.t1.getD ((i - 0x40) / 2) 0).toNat (i % 2)
  else if 0x80 ≤ i ∧ i < 0x2C0 then
    match m.parked[(i - 0x80) / 64]? with | some it => entryByte it ((i - 0x80) % 64) | none => 0
  else 0

/-- A raw E-form as it is written: a zero and a NaR have one form each (R44). -/
def formTable (e : EForm) : Nat := if (⟨e.raw, false⟩ : EForm).nar then efNar.toNat else if (⟨e.raw, false⟩ : EForm).zero then efZero.toNat else e.raw.toNat

/-- Byte `i` of the area of MSAVE, with its poison (R193): the record, the active and the shadow plane, `n` rows from `row0` on, and for each of
them its NaR mask and its poison mask. -/
def areaByte (m : Mx) (t row0 n i : Nat) : Nat × Bool :=
  let cell (w : SMap EForm) (o : Nat) : Nat × Bool := let e := SMap.get .zeroCell w (o / 2); (byteOf (formTable e) (o % 2), e.poison)
  let el (j c : Nat) : AccEl := m.el (64 * ((row0 + j) % 256) + c)
  let mask (j o : Nat) : Nat := byteOf ((List.range 64).foldl (fun a c => if (if o < 8 then (el j c).nar else (el j c).poison) then a + 2 ^ c else a) 0) (o % 8)
  if i < 0x400 then (recordByte m t i, false)
  else if i < 0x2400 then cell (if m.act then m.w1 else m.w0) (i - 0x400)
  else if i < 0x4400 then cell (if m.act then m.w0 else m.w1) (i - 0x2400)
  else if i < 0x4400 + 512 * n then
    let o := i - 0x4400
    (byteOf (el (o / 512) (o % 512 / 8)).val.toNat (o % 8), (el (o / 512) (o % 512 / 8)).poison)
  else let o := i - 0x4400 - 512 * n; (mask (o / 16) (o % 16), false)

/-- Parked entry `i` of a record is taken as an item (R194, R195, R8): its slot word, rows, time, operands, table or configuration, with the reserved bits
of an MCFG word zero; which of its tables an MTBL names is not in the word (log 13). -/
def entryTaken (r : List Byte) (i : Nat) (it : MxItem) : Prop :=
  let e (o n : Nat) : Nat := fieldAt r (0x80 + 64 * i + o) n
  let w : BitVec 32 := BitVec.ofNat 32 (e 0 4)
  let begun : Prop := isStream it.ins = true ∧ (e 4 2 ≠ 0 ∨ e 32 4 ≠ 0)
  (∃ ld, decodeSlot .mx ld w none = some it.ins ∧ (ld = 0 ∨ (ld = 1 ∧ w.toNat / 2 ^ 26 = 2))) ∧
  it.next = e 6 2 ∧ it.xn = BitVec.ofNat 64 (e 16 8) ∧ it.xn1 = BitVec.ofNat 64 (e 24 8) ∧
  ((∀ o, it.ins ≠ .mcfg o) → it.xa = BitVec.ofNat 64 (e 8 8)) ∧
  (∀ o, it.ins = .mcfg o → it.xa.setWidth 32 = BitVec.ofNat 32 (e 8 4) &&& 0x0FFF3FF7) ∧
  it.rows = (if isStream it.ins then e 4 2 else 0) ∧ (it.started = true ↔ begun) ∧
  (begun → it.mcfg = BitVec.ofNat 32 (e 32 4) &&& 0x0FFF3FF7) ∧
  (∀ o b, it.ins = .mtbl o b → it.tbl = (List.range 16).map (fun j => BitVec.ofNat 16 (e (32 + 2 * j) 2)))

end Sys2Proof

open Sys2Proof Sys2Proof.Machine

/-- MSAVE and MREST (R192 to R195): in a handler MSAVE leaves its area to be written within 80 + 2n cycles, byte by byte as Tables 7 and 8 lay it
out, poisoned where a cell or element is, and keeps the parked work; MREST takes the record's configuration, tables, sticky bits and parked work,
has each cell and element land within the same bound with the value and poison of the area, and clears HMX; the reserved bits of
a restored configuration stay zero (R8, R176), and an event of this very cycle, such as the cancelling of a pending gate, stays sticky; a record
that fails its check raises 0x14. Choices of the model: log entries 13, 14, 35, 46, 127 and 148. -/
def Sys2Proof.Claim.MatrixSaveRestore : Prop :=
  ∀ (s : State) (o : MX) (nr : Bool), s.alone o.ctl → s.me.csr.hm = true → s.me.mx.gate.isGated = false →
    let k := s.me
    let a := k.readX o.xa
    let n := if nr then 0 else countOf (k.readX o.xn).val
    let size := 0x4400 + 528 * n
    let due := k.mt + 80 + 2 * n
    let off := a.val.toNat
    let els := (List.range n).flatMap (fun j => (List.range 64).map (fun c => 64 * ((o.acc.toNat + j) % 256) + c))
    let m := (k.afterDraws .acc els).mx
    let u := k.afterDraws .pad (granList off size)
    let rec' := (u.viewRun false off 1024).1
    a.poison = false → (k.readX o.xn).poison = false → mxFits 0 19 size 32 a.val →
      (∃ t, exec (.msave o nr) s = .next t ∧ t.me.mx.acc = m.acc ∧ t.me.mx.parked = k.mx.parked ∧ t.me.csr.hm = true ∧
        (k.mx.tablesForm = true → k.mx.parked.length ≤ 9 → ∃ ps, t.me.pend = k.pend ++ ps ∧
          (∀ p ∈ ps, p.due = due ∧ p.mx = true ∧ ∃ g mask, p.dest = .gran false g mask ∧
            (∀ i < 32, mask.getLsbD i = true → off ≤ 32 * g + i ∧ 32 * g + i < off + size) ∧
            (p.poison = true ↔ ∃ i < size, (off + i) / 32 = g ∧ (areaByte m k.mt o.acc.toNat n i).2 = true)) ∧
          ∀ i < size, ∃ p ∈ ps, ∃ mask, p.dest = .gran false ((off + i) / 32) mask ∧ mask.getLsbD ((off + i) % 32) = true ∧
            p.val.toNat / 2 ^ (8 * ((off + i) % 32)) % 256 = (areaByte m k.mt o.acc.toNat n i).1)) ∧
      (recordBad rec' = true → exec (.mrest o nr) s = .next (s.trapped o.ctl ⟨0x14, 0, 0⟩)) ∧
      (recordBad rec' = false → (∃ ns, k.checkBerths (k.berthsAt off size) = .pass ns) →
        ∃ t, exec (.mrest o nr) s = .next t ∧ t.me.csr.hmx = false ∧ t.me.csr.hm = true ∧
          t.me.mx.mcfgTail = BitVec.ofNat 32 (fieldAt rec' 8 4) &&& 0x0FFF3FF7 ∧
          ((∀ it ∈ t.me.mx.parked, ∀ o', it.ins ≠ .mcfg o') → t.me.mx.mcfg = t.me.mx.mcfgTail) ∧
          t.me.mx.t0 = (List.range 16).map (fun i => BitVec.ofNat 16 (fieldAt rec' (0x20 + 2 * i) 2)) ∧
          t.me.mx.t1 = (List.range 16).map (fun i => BitVec.ofNat 16 (fieldAt rec' (0x40 + 2 * i) 2)) ∧
          t.me.mx.sticky = (BitVec.ofNat 8 (fieldAt rec' 0x10 4 / 2 ^ 24) &&& 0x7F) ||| k.mx.fresh ||| (if k.mx.gate.isPending then 0x40 else 0) ∧
          (let entries := fieldAt rec' 0 8 / 2 ^ 24 % 16
           (∀ i < entries, (decodeSlot .mx 0 (BitVec.ofNat 32 (fieldAt rec' (0x80 + 64 * i) 4)) none).isSome = true) →
             t.me.mx.parked.length = entries ∧ ∀ i < entries, ∃ it, t.me.mx.parked[i]? = some it ∧ entryTaken rec' i it) ∧
          ∃ ps, t.me.pend = k.pend ++ ps ∧ ps.length = 8192 + 64 * n ∧ (∀ p ∈ ps, p.due = due) ∧
            (∀ (x : Bool) (i : Nat), i < 4096 → let w := u.viewBytes false (off + (if x then 0x2400 else 0x400) + 2 * i) 2
              ps[(if x then 4096 else 0) + i]? = some ⟨.cell (if x then !k.mx.act else k.mx.act) i, BitVec.ofNat 256 w.1, w.2, due, true, 0⟩) ∧
            ∀ j c, j < n → c < 64 →
              let v := (u.viewBytes false (off + 0x4400 + 512 * j + 8 * c) 8).1
              let nar := (u.viewBytes false (off + 0x4400 + 512 * n + 16 * j) 8).1 / 2 ^ c % 2
              let bad := (u.viewBytes false (off + 0x4400 + 512 * n + 16 * j + 8) 8).1 / 2 ^ c % 2
              ps[8192 + 64 * j + c]? =
                some ⟨.acc (64 * ((o.acc.toNat + j) % 256) + c), BitVec.ofNat 256 (v + 2 ^ 64 * nar), decide (bad = 1), due, true, 0⟩)

/-- A queued matrix instruction starts (R173, R174, R176, R177, R179, R187): MCFG puts its word in force, MTBL its table, MWSWAP exchanges
the planes, MCLR clears its rows to the identity of the semiring in force and no others; a stream takes the configuration in force; a drain
leaves every byte of its rows, converted under that configuration, to be written by its bound, but for bytes stored since it issued, and
with CLR clears the rows. What an earlier stream has on its way, by then or into a row it reads or clears, has landed, a stream keeps the table in force,
the reserved bits of MCFG stay zero (R8), and a drain reads after the draws of the injector (R326). Choices of the model: log entries 34 and 35. -/
def Sys2Proof.Claim.MatrixStarts : Prop :=
  ∀ (s : State) (c : CoreId) (i : Nat) (it : MxItem), (s.core c).mxDue = some (.start i) → (s.core c).mx.items[i]? = some it →
    let k := (s.core c).landBefore it
    let canonical : Prop := SMap.wf .zero (s.core c).mx.acc = true
    let semi := mcField k.mx.mcfg 0 3
    let row (j : Nat) : Nat := (mxRow it.ins + j) % 256
    let mine (e : Nat) : Prop := ∃ j < countOf it.xn, e / 64 = row j
    let read := (k.injectReads .acc ((List.range (countOf it.xn)).flatMap (fun j => (List.range 64).map (fun e => 64 * row j + e)))).mx
    ∃ t, exec (.mxQueuedStart c) s = .next t ∧
      let m := (t.core c).mx
      (m.items[i]?).map (·.started) = some true ∧ (m.items[i]?).map (·.mcfg) = some k.mx.mcfg ∧
      (∀ o, it.ins = .mcfg o → m.mcfg = it.xa.setWidth 32 &&& 0x0FFF3FF7) ∧
      ((∀ o, it.ins ≠ .mcfg o) → m.mcfg = k.mx.mcfg) ∧
      (∀ o b, it.ins = .mtbl o b → (if b then m.t1 else m.t0) = it.tbl ∧ (if b then m.t0 else m.t1) = (if b then k.mx.t0 else k.mx.t1)) ∧
      (∀ o, it.ins = .mwswap o → m.act = !k.mx.act ∧ m.w0 = k.mx.w0 ∧ m.w1 = k.mx.w1) ∧
      (∀ o, it.ins = .mclr o → canonical → ∀ e, (mine e → e < 16384 → m.el e = ⟨semiIdentity semi, false, false⟩) ∧ (¬ mine e → m.el e = k.mx.el e)) ∧
      (isStream it.ins = true → (m.items[i]?).map (·.tbl) = some (if k.mx.mcfg.getLsbD 13 then k.mx.t1 else k.mx.t0)) ∧
      ((∀ o, it.ins ≠ .mclr o) → (∀ o b, it.ins ≠ .mdrn o b ∧ it.ins ≠ .mdrnh o b) → m.acc = k.mx.acc) ∧
      (∀ o, it.ins = .mdrn o false ∨ it.ins = .mdrnh o false → m.acc = read.acc) ∧
      ∀ (o : MX) (clr hold : Bool), it.ins = (if hold then .mdrnh o clr else .mdrn o clr) → it.xa.toNat % 32 = 0 → strideAt it.xn (64 * drainSize (mcField k.mx.mcfg 24 4)) % 32 = 0 →
        let be := if it.xn.getLsbD 12 then some (k.csr.bnd.toList.getD (it.xn.toNat / 256 % 16) 0, k.csr.bndmode.toNat / 4 ^ (it.xn.toNat / 256 % 16) % 4) else none
        let space := if hold then 2 ^ 22 else 2 ^ 19
        (clr = true → canonical → ∀ e, (mine e → e < 16384 → m.el e = ⟨semiIdentity semi, false, false⟩) ∧ (¬ mine e → m.el e = read.el e)) ∧
        ∃ ps, (t.core c).pend = k.pend ++ ps ∧ (∀ p ∈ ps, p.due = it.due) ∧
          ∀ j < countOf it.xn,
            let out := read.drainRow k.mx.mcfg (row j) be
            ∀ b < out.bytes.length,
              let a := it.xa.toNat % space + j * strideAt it.xn (64 * drainSize (mcField k.mx.mcfg 24 4)) + b
              (SMap.get 0 it.cover (2 * (a / 32) + hold.toNat)).getLsbD (a % 32) = false →
              ∃ p ∈ ps, ∃ mask, p.dest = .gran hold (a / 32) mask ∧ mask.getLsbD (a % 32) = true ∧
                p.val.toNat / 2 ^ (8 * (a % 32)) % 256 = ((out.bytes.getD b (0, false)).1).toNat

/-- A row of a stream enters (R169, R180 to R183, R326): after the draws of the injector its 64 operands come from the scratchpad without the
stores of the cycle in which it should have entered, from the accumulator, or from the hoist FIFO; every element
of the destination row takes the contributions of the 64 cell rows in order, from the identity with Z, under the table the stream started with,
and no other element changes, when they land: by the stream's bound or, as a choice has it, at once; a berth's wrong tag traps with cause 0x0A in
slot 4. Choices of the model: log entries 2, 7, 126 and 158. -/
def Sys2Proof.Claim.RowEntry : Prop :=
  ∀ (s : State) (c : CoreId) (i : Nat) (it : MxItem), (s.core c).mxDue = some (.row i) → (s.core c).mx.items[i]? = some it →
    isStream it.ins = true →
    let k := (s.core c).landDueWork
    let u := k.rowDraws it
    (∀ n, k.hoistEmpty it = false → k.rowCheck it = .bad n → exec (.streamRowEntry c) s = .next (s.takeTrap c 0x0A 4 (n.setWidth 16) k.pc 0)) ∧
    (∀ ns, k.hoistEmpty it = false → k.rowCheck it = .pass ns → k.mx.work = [] →
      let r := it.rows
      let ra := 8 * fmtBits (mcField it.mcfg 8 4)
      let src := (it.xa.toNat % 256 + r) % 256
      let dst := (mxRow it.ins + r) % 256
      let semi := mcField it.mcfg 0 3
      let weights := if k.mx.act then k.mx.w1 else k.mx.w0
      ∃ (t : State) (ea : List EForm) (z : Bool), exec (.streamRowEntry c) s = .next t ∧
        (∀ o b, it.ins = .mstrm o b → z = b ∧
          ea = (u.shaded it.shade).rowEforms (mcField it.mcfg 8 4) ((it.xa.toNat + r * strideAt it.xn ra) % 2 ^ 19) ((it.xn1.toNat + 2 * r) % 2 ^ 19)) ∧
        (∀ o b, it.ins = .mstrma o b → z = b ∧
          ea = match it.held.find? (fun e => e.1 == r) with | some e => e.2.1 | none => (u.mx.downRow it.mcfg src).1) ∧
        (∀ o b, it.ins = .mstrmh o b → z = b ∧ ∃ v p rest, k.mx.hoist = (v, p) :: rest ∧ ea = hoistEforms (mcField it.mcfg 8 4) v p ∧
          (t.core c).mx.hoist = rest) ∧
        (SMap.wf .zero (s.core c).mx.acc = true → let m := (t.core c).mx.landAllWork
          (∀ col < 64,
            let a0 := if z then ⟨semiIdentity semi, false, false⟩ else u.mx.el (64 * dst + col)
            m.el (64 * dst + col) = (List.range ea.length).foldl (fun a j =>
              (cellStep semi ((it.mcfg.extractLsb' 16 8 : BitVec 8).toInt) it.tbl (SMap.get .zeroCell weights (64 * j + col)) (ea.getD j ⟨0, false⟩) a).1) a0) ∧
          ∀ e, e / 64 ≠ dst → m.el e = u.mx.el e) ∧
        (s.choice = 0 → (t.core c).mx.acc = u.mx.acc ∧ ∃ w, (t.core c).mx.work = [w] ∧ w.row = dst ∧ w.due = it.due) ∧
        (s.choice ≠ 0 → (t.core c).mx.work = []) ∧
        ((t.core c).mx.items[i]?).map (·.rows) = some (r + 1) ∧ (t.core c).regs = k.regs ∧ (t.core c).sp = u.sp)

/-- The other events of the array (R186, R190): the trap of a drain's bound in trap mode, cause 0x09 with the bound register in DETAIL and
slot 4; a pending gate takes effect, without retention with zero cells and cleared elements; a wake ends. Choices of the model: log entries 32
and 133. -/
def Sys2Proof.Claim.ArrayEvents : Prop :=
  ∀ (s : State) (c : CoreId),
    let k := s.core c
    (∀ b d rest, k.mx.drainTraps = (b, d) :: rest → k.run = .running →
      exec (.drainBoundTrap c) s =
        .next ((s.setCore c { k with mx := { k.mx with drainTraps := rest } }).takeTrap c 0x09 4 (b.setWidth 16) k.pc 0)) ∧
    (k.gateDue = true → ∃ t ret, exec (.gateTakesEffect c) s = .next t ∧ (t.core c).mx.gate = .gated ret ∧
      (ret = true → (t.core c).mx.acc = k.mx.acc ∧ (t.core c).mx.w0 = k.mx.w0 ∧ (t.core c).mx.w1 = k.mx.w1 ∧ (t.core c).mx.sticky = k.mx.sticky) ∧
      (ret = false → (∀ e, (t.core c).mx.el e = ⟨0, false, false⟩) ∧ (t.core c).mx.w0 = [] ∧ (t.core c).mx.w1 = [] ∧
        (t.core c).mx.events.getLsbD 7 = true) ∧ (t.core c).arrivals = k.arrivals ++ k.mx.gateAr.map (fun l => ⟨k.ct, l, []⟩)) ∧
    (k.wakeDue = true → ∃ t, exec (.wakeEnd c) s = .next t ∧ (t.core c).mx.gate = .isOpen ∧ (t.core c).mx.acc = k.mx.acc)


-- Engine commands -----------------------------------------------------------------------------------------------------

namespace Sys2Proof
open Sys2Proof.Machine

/-- A command has issued and is captured (R199, R200, R243): it stands at the end of the engine queue with its operands, its blocks and the
bounds, seed and plane as at issue, behind the commands it must wait for; nothing else of the core's registers and memory changes. -/
def tookCommand (s t : State) (o : CP) (i : Instr) (v : List Word) (blocks : List (List Byte)) (after : Cmd → Prop) : Prop :=
  let k := s.me
  let r := t.me
  ∃ q, r.queue = k.queue ++ [q] ∧ r.nextCmd = k.nextCmd + 1 ∧ q.id = k.nextCmd ∧ q.ins = i ∧ [q.xs, q.xs1, q.xd, q.xd1] = v ∧ q.blocks = blocks ∧
    q.cls = o.cls ∧ q.sem = o.sem ∧ q.task = k.task ∧ q.issued = s.tnow ∧ q.bnd = k.csr.bnd ∧ q.bndmode = k.csr.bndmode ∧ q.collto = k.csr.collto ∧
    q.seed = k.csr.srseed ∧ q.plane = k.act ∧ q.ar = (if o.ctl.ar then k.csr.ardom else 0) ∧ q.started = false ∧ q.finished = false ∧ q.met = [] ∧
    (∀ p ∈ k.queue, after p → p.id ∈ q.after) ∧
    (∀ f ∈ k.fences, f.mask.getLsbD o.cls.toNat = true → ∀ p ∈ k.queue, p.id ∈ f.before → p.id ∈ q.after) ∧
    r.regs = k.regs ∧ r.sems = k.sems ∧ r.berths = k.berths ∧ t.hbm = s.hbm ∧ r.pc = (k.backEdge 2).2.2.2.2 ∧ r.csr.tcyc = k.csr.tcyc + 1 ∧
    (k.injects .pad = false → r.sp = k.sp ∧ r.hold = k.hold)

/-- A data pointer that passes item 6 of R198: an accepted tag, `n` bytes inside the space unless it is relative to a handle, aligned. -/
def dataFits (tags : List Nat) (n align : Nat) (p : Word) : Prop :=
  let size := 2 ^ (match p.toNat / 2 ^ 60 with | 0 => 19 | 1 => 22 | _ => 13)
  p.toNat / 2 ^ 60 ∈ tags ∧ (p.toNat / 2 ^ 60 ≠ 2 → p.toNat % 2 ^ 60 < size ∧ p.toNat % 2 ^ 60 + n ≤ size) ∧ p.toNat % align = 0

/-- A length that passes item 6 of R198. -/
def lenFits (n lo hi : Nat) : Prop := lo ≤ n ∧ n ≤ hi ∧ n % 32 = 0

/-- A scratchpad structure that passes items 4 and 8 of R198 and R277: in the scratchpad, aligned, in no poisoned granule. -/
def structFits (k : Core) (p : Word) (n align : Nat) : Prop :=
  p.toNat / 2 ^ 60 = 0 ∧ p.toNat % 2 ^ 60 + n ≤ 2 ^ 19 ∧ p.toNat % align = 0 ∧ (k.viewRun false p.toNat n).2 = false

/-- What a command does that finds the engine queue full (R199): a task freezes before its bundle, a handler traps with cause 0x16. -/
def queueFull (s : State) (o : CP) : State := if s.me.csr.hm then s.trapped o.ctl ⟨0x16, 0, 0⟩ else s.waiting o.ctl .queue

/-- No check of a list fails. -/
def noFault (cs : List (Option SlotFault)) : Prop := ∀ c ∈ cs, c = none

end Sys2Proof

open Sys2Proof Sys2Proof.Machine

/-- The commands on linear data at issue (R198 to R200, R211, R212, R216 to R223, R231, R313): with clean registers, pointers and lengths that
pass their checks and a free entry, CPYL and its berth form, MCAST, SEND, SENDS, SEMR, FWR and its berth form, FFAA, FFLG and FFLG.add, MIGR
and MIGR.remap are captured, and with the queue full each freezes its task or traps a handler with cause 0x16; SEND follows earlier SENDs to its berth, SENDS those on its lane, SEMR every earlier command of its class. Choices of the model: log entries 51 and 52. -/
def Sys2Proof.Claim.LinearCommands : Prop :=
  ∀ (s : State) (o : CP) (sig : Bool), s.alone o.ctl →
    let k := s.me
    let r (n : Reg) : Word := (k.readX n).val
    let clean (ns : List Reg) : Prop := ∀ n ∈ ns, (k.readX n).poison = false
    let takes (i : Instr) (v : List Word) (after : Cmd → Prop) : Prop :=
      (k.queue.length < 32 → ∃ t, exec i s = .next t ∧ tookCommand s t o i v [] after) ∧
      (32 ≤ k.queue.length → exec i s = .next (queueFull s o))
    let never : Cmd → Prop := fun _ => False
    let n40 := (r (o.xs + 1)).toNat % 2 ^ 40
    let n32 := (r (o.xs + 1)).toNat % 2 ^ 32
    let two := [r o.xs, r (o.xs + 1), r o.xd, 0]
    let four := [r o.xs, r (o.xs + 1), r o.xd, r (o.xd + 1)]
    (clean [o.xs, o.xs + 1, o.xd] →
      (lenFits n40 0 (2 ^ 40) → dataFits [0, 1, 2, 3] n40 32 (r o.xs) → dataFits [0, 1, 2] n40 32 (r o.xd) → takes (.cpyl o) two never) ∧
      (lenFits n40 32 524288 → dataFits [0, 1, 2, 3] n40 32 (r o.xs) → takes (.cpylBerth o) two never) ∧
      (lenFits n32 32 65536 → dataFits [0, 1, 3] n32 1 (r o.xs) →
        takes (.send o sig) two (fun p => (∃ o' b, p.ins = .send o' b) ∧ p.xd.toNat % 2 ^ 11 = (r o.xd).toNat % 2 ^ 11 ∧
          p.xd.toNat / 2 ^ 16 % 32 = (r o.xd).toNat / 2 ^ 16 % 32) ∧
        takes (.sends o) two (fun p => (∃ o', p.ins = .sends o') ∧ p.xd.toNat / 2 ^ 11 % 32 = (r o.xd).toNat / 2 ^ 11 % 32)) ∧
      (lenFits n32 32 (2 ^ 32) → dataFits [0, 1, 2, 3] n32 32 (r o.xs) → dataFits [2] 0 32 (r o.xd) → takes (.fwr o) two never)) ∧
    (clean [o.xs, o.xs + 1, o.xd, o.xd + 1] →
      (lenFits n32 32 524288 → dataFits [0, 1, 2, 3] n32 1 (r o.xs) → (r o.xd).toNat / 2 ^ 48 % 2 ^ 15 < 2 ^ 14 → takes (.mcast o) four never) ∧
      (lenFits n32 32 (2 ^ 32) → dataFits [0, 1, 2, 3] n32 32 (r o.xs) → dataFits [2] 0 32 (r o.xd) → takes (.fwrBerth o) four never) ∧
      ((r o.xs).toNat / 2 ^ 60 = 2 → n40 ≠ 0 → n40 % 65536 = 0 → (r o.xs).toNat % 65536 = 0 → dataFits [2] 0 65536 (r o.xd) →
        takes (.migr o) four never ∧ takes (.migrRemap o) four never)) ∧
    (clean [o.xs, o.xd] →
      takes (.semr o) [r o.xs, 0, r o.xd, 0] (fun p => p.cls = o.cls) ∧
      (dataFits [2] 8 8 (r o.xd) → takes (.fflg o) [r o.xs, 0, r o.xd, 0] never ∧ takes (.fflgAdd o) [r o.xs, 0, r o.xd, 0] never)) ∧
    (clean [o.xs, o.xd, o.xd + 1] → mxFits 0 19 8 8 (r (o.xd + 1)) → dataFits [2] 8 8 (r o.xd) →
      takes (.ffaa o) [r o.xs, 0, r o.xd, r (o.xd + 1)] never)

/-- The commands on records and blocks at issue (R198 to R200, R209, R210, R214, R224, R229, R232 to R234): with contents that pass their
checks and a free entry CPYT, GTHR, COLL, DRG, TRIM, SNAP and CPAB are captured with their records, and with the queue full each freezes its
task or traps a handler with cause 0x16; COLL follows earlier COLLs, TRIM earlier
TRIMs, SNAP every earlier command but TRIM and COLL; RCF takes no entry and drops the named record, or all with Xs = X0, from the cache. A block is read once the draws of its read are made (R326). Choices of the model: log entry 54. -/
def Sys2Proof.Claim.RecordCommands : Prop :=
  ∀ (s : State) (o : CP) (l : Level), s.alone o.ctl →
    let k := s.me
    let r (n : Reg) : Word := (k.readX n).val
    let xs := r o.xs
    let takes (i : Instr) (v : List Word) (blocks : List (List Byte)) (after : Cmd → Prop) : Prop :=
      (k.queue.length < 32 → ∃ t, exec i s = .next t ∧ tookCommand s t o i v blocks after) ∧
      (32 ≤ k.queue.length → exec i s = .next (queueFull s o))
    let a := k.takeRecord xs
    let b := k.takeRecord (r o.xd)
    (k.readX o.xs).poison = false →
      ((k.readX o.xd).poison = false →
        (noFault (k.copyForm xs (r o.xd)).checks → takes (.cpyt o) [xs, 0, r o.xd, 0] [a.1, b.1] (fun _ => False)) ∧
        ((k.readX (o.xs + 1)).poison = false →
          noFault ([structFault xs 192 32, structFault (r o.xd) 192 32, structFault (r (o.xs + 1)) (4 * shExt b.1 1) 4, a.2.2, b.2.2,
            recordFault xs (if shRank a.1 = 2 then none else some 1), recordFault (r o.xd) (gatherBad a.1 b.1)]
            ++ shapePtrs a.1 [0, 2, 3] ++ shapePtrs b.1 [0, 2]) →
          takes (.gthr o) [xs, r (o.xs + 1), r o.xd, 0] [a.1, b.1] (fun _ => False)) ∧
        ((k.csr.domOf l).getLsbD 31 = true → ∀ i ∈ [Instr.snap o l, .snapSeal o l],
          takes i [xs, k.csr.domOf l, r o.xd, 0] [] (fun p => (∀ o', p.ins ≠ .trim o' ∧ p.ins ≠ .coll o')))) ∧
      (let u := k.afterDraws .pad (structGrans xs 64)
       let d := (u.viewRun false xs.toNat 64).1
       structFits u xs 64 32 → bucketBad d = none → (coStatp d ≠ 0 → mxFits 0 19 32 32 (coStatp d)) →
       dataFits [0, 2] (bucketBytes (coWire d) (coCount d)) 32 (coSrc d) → dataFits [0, 2] (bucketBytes (coWire d) (coCount d)) 32 (coDst d) →
       takes (.coll o) [xs, 0, 0, 0] [d] (fun p => ∃ o', p.ins = .coll o')) ∧
      (let u := k.afterDraws .pad (structGrans xs 128)
       let d := (u.viewRun false xs.toNat 128).1
       let g := k.takeRecord (drRrec d)
       structFits u xs 128 32 → mxFits 0 19 192 32 (drRrec d) → g.2.2 = none → regionBad g.1 = none → dredgeBad d (shFmt g.1) = none →
       noFault ((shapePtrs g.1 [2]).take 1) → takes (.drg o) [xs, 0, 0, 0] [d, g.1] (fun _ => False)) ∧
      (let u := k.afterDraws .pad (structGrans xs 64)
       let d := (u.viewRun false xs.toNat 64).1
       structFits u xs 64 32 → trimBad d = none → mxFits 0 19 (4 * tbPlen d) 32 (tbProg d) →
       takes (.trim o) [xs, 0, 0, 0] [d] (fun p => ∃ o', p.ins = .trim o')) ∧
      takes (.cpab o) [xs, 0, 0, 0] [] (fun _ => False) ∧
      (o.xs ≠ 0 → mxFits 0 19 192 32 xs → exec (.rcf o) s = .next (s.retiredCore o.ctl 1 (fun u => { u with cache := u.cache.filter (fun e => e.1 != xs) }))) ∧
      (o.xs = 0 → exec (.rcf o) s = .next (s.retiredCore o.ctl 1 (fun u => { u with cache := [] })))

/-- A full engine queue (R199): a command freezes a task before its bundle and raises cause 0x16 in a handler; poison in its source register
raises cause 0x08 first, and a wrong length its own cause with the source pointer in FADDR (R198). Choices of the model: log entries 53 and 55. -/
def Sys2Proof.Claim.CommandTraps : Prop :=
  ∀ (s : State) (o : CP) (sig : Bool) (l : Level), s.alone o.ctl →
    let k := s.me
    let x := (k.readX o.xs)
    let n := ((k.readX (o.xs + 1)).val).toNat % 2 ^ 32
    (x.poison = true → ∀ i ∈ [.cpyt o, .cpyl o, .cpylBerth o, .mcast o, .gthr o, .send o sig, .sends o, .semr o, .fwr o, .fwrBerth o, .ffaa o, .fflg o,
        .fflgAdd o, .coll o, .drg o, .migr o, .migrRemap o, .snap o l, .snapSeal o l, .trim o, .rcf o, .cpab o],
      exec i s = .next (s.trapped o.ctl ⟨0x08, 0, 0⟩)) ∧
    (x.poison = false → 32 ≤ k.queue.length → exec (.cpab o) s = .next (queueFull s o)) ∧
    (x.poison = false → (k.readX (o.xs + 1)).poison = false → (k.readX o.xd).poison = false → dataFits [0, 1, 3] n 1 x.val →
      (n = 0 ∨ n > 65536 → exec (.send o sig) s = .next (s.trapped o.ctl ⟨0x05, 0, x.val⟩)) ∧
      (n ≠ 0 → n ≤ 65536 → n % 32 ≠ 0 → exec (.send o sig) s = .next (s.trapped o.ctl ⟨0x04, 0, x.val⟩))) ∧
    ((k.csr.domOf l).getLsbD 31 = false → x.poison = false → (k.readX o.xd).poison = false →
      exec (.snap o l) s = .next (s.trapped o.ctl ⟨0x01, 0, BitVec.ofNat 64 (0x021 + l.ix.val)⟩))


-- Events of commands --------------------------------------------------------------------------------------------------

namespace Sys2Proof
open Sys2Proof.Machine

/-- After executing an event the machine goes on in a state of which something holds, a command of core c included. -/
def eventCmd (i : Instr) (s : State) (c : CoreId) (id : Nat) (holds : State → Cmd → Prop) : Prop :=
  ∃ t r, exec i s = .next t ∧ (t.core c).cmd id = some r ∧ holds t r

/-- After executing an event the machine goes on in a state of which something holds. -/
def event (i : Instr) (s : State) (holds : State → Prop) : Prop := ∃ t, exec i s = .next t ∧ holds t

/-- A place of a scratchpad pointer of a command in progress that nothing holds back: tag 0, aligned, and no injector on the scratchpad. -/
def padReady (s : State) (c : CoreId) (q : Cmd) : Prop :=
  (s.core c).cmd q.id = some q ∧ q.started = true ∧ q.finished = false ∧ q.gens = [] ∧ q.hold = none ∧ q.xs.toNat / 2 ^ 60 = 0 ∧
    q.xs.toNat % 32 = 0 ∧ (s.core c).injects .pad = false

end Sys2Proof

open Sys2Proof Sys2Proof.Machine

/-- A command starts (R201, R204, R243, R266): once every earlier command of its class has started, CPABs apart, the commands it waits for are gone,
the matrix writes before it have landed and its task's context is in place; a CPAB in the cycle after its issue. Starting a CPYL checks its
handles and binds their generations, or ends it with RIGHTS (R309, R310), but one of length 0 ends with OK (R211); SEMR adds to its target's semaphore, or ends with RIGHTS (R219); CPAB ends the commands of its classes that have not started (R234) and sent nothing. Choices of the model: log entries 115 and 116. -/
def Sys2Proof.Claim.CommandStarts : Prop :=
  ∀ (s : State) (c : CoreId) (q : Cmd), (s.core c).cmd q.id = some q →
    let k := s.core c
    let starts := eventCmd (.commandStart c q.id) s c q.id
    (q.started = false → (∀ o, q.ins ≠ .cpab o ∧ q.ins ≠ .coll o ∧ q.ins ≠ .drg o ∧ q.ins ≠ .trim o) →
      (∀ p ∈ k.queue.takeWhile (fun p => p.id != q.id), p.cls = q.cls → p.started = true ∨ ∃ o, p.ins = .cpab o) →
      (∀ i ∈ q.after, ∀ p ∈ k.queue, p.id ≠ i) → k.mxWrites q.mxSeq q.mxDue = false →
      (∀ u, k.suspended = some u → u.task ≠ q.task) → (k.task = q.task → k.run = .running ∨ k.run = .idle) → s.startsNow c q = true) ∧
    (∀ o, q.ins = .cpab o → q.started = false → q.pos = 1 → s.startsNow c q = true) ∧
    (s.startsNow c q = true →
      ((∀ o, q.ins ≠ .cpab o) → starts (fun _ r => r.started = true ∧ r.startAt = s.tnow ∧ r.ins = q.ins)) ∧
      (∀ o, q.ins = .cpyl o →
        let n : Int := (q.xs1.toNat % 2 ^ 40 : Nat)
        let ts : List Touch := [⟨q.xs, 0, n, .src⟩, ⟨q.xd, 0, n, .dst⟩]
        (n = 0 → starts (fun _ r => r.finished = true ∧ r.met = q.met)) ∧
        (n ≠ 0 → s.touchesOk c ts = true → starts (fun _ r => r.gens = s.bindGens c ts ∧ r.finished = q.finished ∧ r.met = q.met)) ∧
        (n ≠ 0 → s.touchesOk c ts = false → starts (fun _ r => r.finished = true ∧ r.met = q.met ++ [.rights]))) ∧
      (∀ o, q.ins = .semr o →
        let target : CoreId := BitVec.ofNat 11 (q.xd.toNat % 2 ^ 11)
        let n : BitVec 6 := BitVec.ofNat 6 (q.xd.toNat / 2 ^ 16 % 2 ^ 6)
        (s.ownsCore k.part target = true → starts (fun t r => r.finished = true ∧ r.met = q.met ∧
          (t.core target).sem n = addedTo ((s.core target).sem n) ((q.xs.toNat : Int).bmod (2 ^ 32)))) ∧
        (s.ownsCore k.part target = false → starts (fun t r => r.finished = true ∧ r.met = q.met ++ [.rights] ∧
          (t.core target).sems = (s.core target).sems))) ∧
      (∀ o, q.ins = .cpab o → event (.commandStart c q.id) s (fun t =>
        ∀ p ∈ (t.core c).queue, p.id < q.id → q.xs.getLsbD p.cls.toNat = true → p.started = false → p.delivering = false →
          (∀ e ∈ s.sent, e.op.srcCore = c → e.cmd ≠ p.id) →
          (∃ o' l, p.ins = .snap o' l ∨ p.ins = .snapSeal o' l) ∨ ∃ o', p.ins = .cpab o')))

/-- A command completes (R24, R203): it leaves the queue, its semaphore's DONE bit is set, the bit of its status raised where it is not OK,
and its value grows by one. -/
def Sys2Proof.Claim.CommandCompletes : Prop :=
  ∀ (s : State) (c : CoreId) (q : Cmd), (s.core c).cmd q.id = some q → q.finished = true → q.ar = 0 → (s.core c).exits = [] →
    let st := firstStatus q.met
    (q.met = [] → st = .ok) ∧ (Status.rights ∈ q.met → Status.aborted ∉ q.met → st = .rights) ∧
    event (.commandCompletion c q.id) s (fun t =>
      (∀ p ∈ (t.core c).queue, p.id ≠ q.id) ∧ (t.core c).queue.length = ((s.core c).queue.filter (fun p => p.id != q.id)).length ∧
      (t.core c).sem q.sem = addedTo { (s.core c).sem q.sem with
        done := true, err := ((s.core c).sem q.sem).err ||| (if st = .ok then 0 else 1#8 <<< (statusCode st - 1)) } 1 ∧
      (∀ n, n ≠ q.sem → (t.core c).sem n = (s.core c).sem n) ∧ (t.core c).regs = (s.core c).regs ∧ t.hbm = s.hbm)

/-- One granule of a CPYL inside a scratchpad (R202, R211, R276): the destination granule takes the bytes and the poison of the source
granule, no other byte changes, and the command has come one granule further. Choices of the model: log entry 58. -/
def Sys2Proof.Claim.CopyGranule : Prop :=
  ∀ (s : State) (c : CoreId) (q : Cmd) (o : CP), q.ins = .cpyl o → padReady s c q → q.got = [] → (s.core c).sp.wf = true →
    q.xd.toNat / 2 ^ 60 = 0 → q.xd.toNat % 32 = 0 → 32 * q.pos < q.xs1.toNat % 2 ^ 40 →
    let m := (s.core c).sp
    let g := q.xs.toNat % 2 ^ 19 / 32 + q.pos
    let h := q.xd.toNat % 2 ^ 19 / 32 + q.pos
    let t := s.cmdWork c q
    let u := (t.core c).sp
    (∀ i < 32, u.read (32 * h + i) = m.read (32 * g + i)) ∧ u.poisoned h = m.poisoned g ∧
    (∀ a, a / 32 ≠ h → u.read a = m.read a ∧ u.poisoned (a / 32) = m.poisoned (a / 32)) ∧
    ∃ r, (t.core c).cmd q.id = some r ∧ r.pos = q.pos + 1 ∧ (r.finished = true ↔ 32 * (q.pos + 1) ≥ q.xs1.toNat % 2 ^ 40) ∧
      (m.poisoned g = true → Status.poison ∈ r.met) ∧ (m.poisoned g = false → r.met = q.met)

/-- Acceptance at a berth (R215), decided once the first granule has been read: a SEND is accepted by an armed mesh berth of a core of the partition whose buffer holds it, and then
delivers to that buffer; otherwise it ends with RIGHTS. A target that refuses an MCAST is noted and the others go on. Choices of the model: log entry 59. -/
def Sys2Proof.Claim.DeliveryAccepted : Prop :=
  ∀ (s : State) (c target : CoreId) (q : Cmd) (o : CP) (sig : Bool), (s.core c).cmd q.id = some q → q.started = true → q.finished = false →
    let takes := eventCmd (.deliveryAcceptance c q.id target) s c q.id
    let fitsIn (b : Berth) (off len : Nat) : Prop := b.arm = true ∧ off + len ≤ 32 * (b.lenm1.toNat + 1)
    (q.ins = .send o sig ∨ q.ins = .mcast o → q.got = [] → exec (.deliveryAcceptance c q.id target) s = .next s) ∧
    (q.ins = .send o sig → q.got ≠ [] → target = BitVec.ofNat 11 (q.xd.toNat % 2 ^ 11) → q.accepted = 0 → q.refused = 0 →
      let b := (s.core target).berth (BitVec.ofNat 5 (q.xd.toNat / 2 ^ 16 % 32))
      let off := 32 * (q.xd.toNat / 2 ^ 24 % 2 ^ 14)
      let good : Prop := s.ownsCore (s.core c).part target = true ∧ fitsIn b off (q.xs1.toNat % 2 ^ 32) ∧ b.mesh = true
      (good → takes (fun _ r => r.accepted = 1 ∧ r.delivering = true ∧ r.bufs = q.bufs ++ [(target, 32 * b.base.toNat + off)] ∧ r.finished = false)) ∧
      (¬ good → takes (fun _ r => r.refused = 1 ∧ r.finished = true ∧ r.met = q.met ++ [.rights] ∧ r.bufs = q.bufs))) ∧
    (q.ins = .mcast o → q.got ≠ [] → ∀ i < 64, q.xd1.getLsbD i = true → target = quayCore (q.xd.toNat % 32) i →
      q.accepted.getLsbD i = false → q.refused.getLsbD i = false →
      let b := (s.core target).berth (BitVec.ofNat 5 (q.xd.toNat / 2 ^ 8 % 32))
      let off := 32 * (q.xd.toNat / 2 ^ 16 % 2 ^ 14)
      let good : Prop := s.ownsCore (s.core c).part target = true ∧ fitsIn b off (q.xs1.toNat % 2 ^ 32) ∧ b.mc = true
      (good → takes (fun _ r => r.accepted = q.accepted ||| (1 <<< i) ∧ r.refused = q.refused ∧ r.bufs = q.bufs ++ [(target, 32 * b.base.toNat + off)])) ∧
      (¬ good → takes (fun _ r => r.refused = q.refused ||| (1 <<< i) ∧ r.accepted = q.accepted ∧ r.finished = false)))

/-- A SENDS injects a flit (R379): in a slot of its lane's mask up to two granules leave the scratchpad, with their poison, to arrive after
the lane's latency; the flit carries the parity of its plan and starts at its own router; the source is unchanged. Choices of the model: log
entries 61, 62 and 141. -/
def Sys2Proof.Claim.FlitInjected : Prop :=
  ∀ (s : State) (c : CoreId) (q : Cmd) (o : CP) (lane : List Byte), q.ins = .sends o → padReady s c q → q.blocks = [lane] → q.got = [] → (s.core c).sp.wf = true →
    let len := q.xs1.toNat % 2 ^ 32
    let arrive := s.tnow.toNat + fieldAt lane 2 1
    32 * q.pos < len → len % 32 = 0 → fieldAt lane 8 8 / 2 ^ (s.tnow.toNat % 64) % 2 = 1 →
    (∀ f ∈ s.lanes, ¬ (f.src = c ∧ f.cmd = q.id ∧ f.sent = s.tnow)) →
    let n := min 64 (len - 32 * q.pos)
    let a := q.xs.toNat % 2 ^ 19 + 32 * q.pos
    eventCmd (.laneFlitInject c q.id) s c q.id (fun t r =>
      r.pos = q.pos + n / 32 ∧ r.nums = q.nums ++ [arrive] ∧ r.data.bytes = q.data.bytes ++ (s.core c).sp.cells.readRun a n ∧
      ((s.core c).sp.poisoned (a / 32) = true → q.pos ∈ r.data.bad) ∧ (t.core c).sp = (s.core c).sp ∧
      t.lanes = s.lanes ++ [⟨c, BitVec.ofNat 11 (q.xd.toNat % 2 ^ 11), q.id, q.pos / 2, (s.core c).planOdd, s.tnow, 0⟩])

/-- Chunks of collectives (R225, R227, R376, R387): one of this package leaves the mesh and waits at its member, if that is a core of the sender's partition, and enters no core otherwise; one from another package for a core of
its partition waits there too and is answered with OK while the links are in service (R414), and does nothing where no firmware runs; and a member that has waited COLLTO ticks notes the chunk as missing, with TIMEOUT. Choices of the model: log entries 63 and 67. -/
def Sys2Proof.Claim.CollectiveChunks : Prop :=
  ∀ (s : State) (op : FabOp) (core : CoreId) (ch : Chunk) (c : CoreId) (q : Cmd), op.kind = .chunk core ch →
    (core, chunkName ch) ∉ s.missed →
    (op.srcChip = s.chip → op ∈ s.flying →
      exec (.collChunkArrival op) s = .next { s with flying := s.flying.erase op, chunks := if s.ownsCore op.part core then s.chunks ++ [(core, ch)] else s.chunks }) ∧
    (op.srcChip ≠ s.chip → s.boot ≠ .none → exec (.collChunkArrival op) s = .next s) ∧
    (op.srcChip ≠ s.chip → s.boot = .none → s.dupOf op.srcChip op.srcCore = none → s.dups.length < 4096 → op.postCut = none →
      s.ownsCore op.part core = true → (s.part op.part).state ≠ .none →
      event (.collChunkArrival op) s (fun t => t.chunks = s.chunks ++ [(core, ch)] ∧
        OutMsg.response ⟨op.srcChip, op.srcCore, op.seq, .ok, 0, false⟩ ∈ t.out ∧ t.dups.length = s.dups.length + 1)) ∧
    ((s.core c).cmd q.id = some q → s.collLate c q = true →
      eventCmd (.collHopTimeout c q.id) s c q.id (fun t r => Status.timeout ∈ r.met ∧ r.finished = false ∧ t.missed.length = s.missed.length + 1))

/-- The exchange of MIGR with REMAP (R319): after the copy of a page of 64 KiB the frames of its source and destination entries change places
and M of the source entry is cleared; no memory changes. A handle rebound since the copy ends the command with RIGHTS and no exchange (R310). Choices of the model: log entry 118. -/
def Sys2Proof.Claim.PageExchange : Prop :=
  ∀ (s : State) (c : CoreId) (q : Cmd) (o : CP), (s.core c).cmd q.id = some q → q.ins = .migrRemap o → q.started = true → q.finished = false →
    q.exchangeDue = true → SMap.wf 0 s.pages = true →
    (s.genOk c q q.xs = false ∨ s.genOk c q q.xd = false →
      eventCmd (.migrPageExchange c q.id) s c q.id (fun t r => r.finished = true ∧ r.met = q.met ++ [.rights] ∧ t.pages = s.pages ∧ t.hbm = s.hbm)) ∧
    (s.genOk c q q.xs = true → s.genOk c q q.xd = true →
    let a := (s.migrKeys c q q.wrote).1
    let b := (s.migrKeys c q q.wrote).2
    a ≠ b → (s.migrKeys c q (q.wrote + 1)).1 ≠ a →
    eventCmd (.migrPageExchange c q.id) s c q.id (fun t r =>
      let ea := SMap.get 0 s.pages a; let eb := SMap.get 0 s.pages b
      let fa := SMap.get 0 t.pages a; let fb := SMap.get 0 t.pages b
      pteFrame fa = pteFrame eb ∧ pteFrame fb = pteFrame ea ∧ pteM fa = false ∧ pteOwner fa = pteOwner ea ∧ pteOwner fb = pteOwner eb ∧
      pteW fa = pteW ea ∧ pteW fb = pteW eb ∧ (∀ k, k ≠ a → k ≠ b → SMap.get 0 t.pages k = SMap.get 0 s.pages k) ∧
      t.hbm = s.hbm ∧ r.wrote = q.wrote + 1 ∧ (r.finished = true ↔ 65536 * (q.wrote + 1) ≥ q.xs1.toNat % 2 ^ 40)))

/-- A dredge engine reads the next granule of its stack (R354), and the merge makes the result once every engine has finished (R356 to R358):
its header counts the elements, the excluded and the qualifiers, and in mode 0 the first K qualifiers follow in ascending index. Choices of the model: log entry 115. -/
def Sys2Proof.Claim.DredgeEvents : Prop :=
  ∀ (s : State) (c : CoreId) (q : Cmd) (o : CP) (e : BitVec 3), (s.core c).cmd q.id = some q → q.ins = .drg o → q.started = true →
    q.finished = false → q.data.bytes = [] →
    let part := (s.core c).part
    (∀ a loc, s.drgNext c q e = some a → s.drgGenOk c q a = true → q.engineHold e = none → bit (s.part part).flags 0 = false →
      s.translate a false part none = .ok loc → a % 32 = 0 →
      eventCmd (.dredgeScanGranule c q.id e) s c q.id (fun t r =>
        r.got = q.got ++ [(.ia part a, s.hbm.gran (loc / 32), s.hbm.poisoned (loc / 32))] ∧ t.hbm = s.hbm)) ∧
    (s.drgScanned c q = true →
      let d := q.blocks.getD 0 []
      let g := q.blocks.getD 1 []
      let els := (List.range (regionCount g)).map (s.drgEl c q)
      let quals := els.filter (fun x => !x.bad && drgQualifies d g x)
      let out := (els.filter (·.bad)).length
      eventCmd (.dredgeMerge c q.id) s c q.id (fun _ r =>
        fieldAt r.data.bytes 0 1 = (if out = 0 then 0 else 5) ∧ fieldAt r.data.bytes 8 8 = quals.length % 2 ^ 64 ∧
        fieldAt r.data.bytes 16 8 = out % 2 ^ 64 ∧ fieldAt r.data.bytes 24 8 = els.length % 2 ^ 64 ∧
        (drMode d = 0 → ∀ i, i < drK d → i < quals.length →
          fieldAt r.data.bytes (64 + 16 * i) 8 = (quals.getD i ⟨0, 0, 0, false⟩).ix % 2 ^ 64))) 

-- Waits ---------------------------------------------------------------------------------------------------------------

/-- The end of a wait (R236, R199, R182, R183, R302): when what a frozen core waits for has come, the bundle is to issue in this cycle and
nothing else changes; before that nothing changes at all. A semaphore or TNOW has reached its target; FENCE.wait has no command of a masked class
left and no matrix write of class 0 (R243, R275); LAND, a slot's read and a row of a stream find the berth no longer late; DOMWAIT finds no
arrival yet or a later phase (R250); SPAWN finds room in a queue that has accepted none this cycle and no request that has waited
longer, nor as long from a lower core (R292); PHASE COMMIT and ABORT find the phase's commands gone, ABORT with room for its copies (R254); EXIT
and MSYNC find the array landed and no gate pending (R190, R252); a hold write finds its granule copied (R367). Choice of the model: log
entry 147. -/
def Sys2Proof.Claim.WaitsEnd : Prop :=
  ∀ (s : State) (c : CoreId) (f : Freeze), let k := s.core c
    k.run = .running → k.freeze = some f → f.ready = false →
    let ready : Host.Outcome State Fault Refusal := .next (s.setCore c { k with freeze := some { f with ready := true } })
    let landed (n : BitVec 5) : Prop := (k.berth n).atag = (k.berth n).etag
    let late (n : BitVec 5) : Prop := (k.berth n).arm = true ∧ (k.berth n).pending = true ∧ (k.berth n).atag + 1 = (k.berth n).etag
    (∀ n t, f.wait = .sem n t → exec (.waitSatisfied c) s = if (k.sem n).val.toNat < t.toNat then .next s else ready) ∧
    (∀ t, f.wait = .time t → exec (.waitSatisfied c) s = if s.tnow.toNat < t.toNat then .next s else ready) ∧
    let ends (w : Wait) (over_ : Prop) : Prop :=
      f.wait = w → (over_ → exec (.waitSatisfied c) s = ready) ∧ (¬ over_ → exec (.waitSatisfied c) s = .next s)
    let released (w : Wait) (n : BitVec 5) : Prop :=
      f.wait = w → (¬ late n → exec (.landingFreezeRelease c) s = ready) ∧ (late n → exec (.landingFreezeRelease c) s = .next s)
    let phaseGone (m : BitVec 16) : Prop := ∀ p since, k.phase = some (p, since) → ∀ q ∈ k.queue, m.getLsbD q.cls.toNat = true → q.id < since
    (∀ n, f.wait = .land n → landed n → exec (.waitSatisfied c) s = ready) ∧
    (∀ n, ends (.land n) (¬ ((k.berth n).arm = true ∧ (k.berth n).atag + 1 = (k.berth n).etag))) ∧
    (∀ m, ends (.fence m) ((∀ q ∈ k.queue, m.getLsbD q.cls.toNat = false) ∧ (m.getLsbD 0 = true → k.mxWrites [k.mxSpan] k.mx.otherDue = false))) ∧
    (∀ l, (k.csr.domOf l).getLsbD 31 = true → ends (.dom l) (∀ a, k.lastArr[l.ix] = some a → (a - k.csr.dphOf l).toInt < 0)) ∧
    (∀ t, ends (.spawn t) ((s.core t).spawnq.length < 16 ∧ (s.core t).spawnAt ≠ some s.clock.cycle ∧
      ∀ d g, d ≠ c → (s.core d).freeze = some g → g.wait = .spawn t → f.cyc < g.cyc ∨ (f.cyc = g.cyc ∧ c.toNat < d.toNat))) ∧
    (∀ m r, ends (.phase m r) (phaseGone m)) ∧
    (∀ m r qs, ends (.phaseAbort m r qs) (phaseGone m ∧ k.queue.length + qs.length ≤ 32)) ∧
    ends .msync (k.mxLanded = true ∧ k.mx.gate.isPending = false) ∧
    ends .exit (k.mxLanded = true ∧ k.mx.gate.isPending = false) ∧
    (∀ g, ends (.cow g) (s.holdMark c (32 * g) = none)) ∧
    (∀ n i, released (.buffer n i) n) ∧ (∀ n, released (.row n) n) ∧
    (f.wait = .queue → exec (.engineQueueEntryFree c) s = if k.queue.length < 32 then ready else .next s) ∧
    (f.wait = .hoist → exec (.hoistEntryAvailable c) s = if k.mx.hoist = [] then .next s else ready)

/-- A wait that outlasts LATEMAX (R237, R303): cause 0x0B at the waiting bundle, with the DETAIL and SLOT of what it waits for; a LATEMAX of
0 means 2^32 - 1. Choices of the model: log entries 36 and 38. -/
def Sys2Proof.Claim.LateWaits : Prop :=
  ∀ (s : State) (c : CoreId) (f : Freeze), let k := s.core c
    k.run = .running → k.freeze = some f → f.ready = false → s.waitOver c f.wait = false →
    (if k.csr.latemax = 0 then 2 ^ 32 - 1 else k.csr.latemax.toNat) ≤ (s.tnow - f.since).toNat →
    let traps (detail : BitVec 16) (slot : Nat) : Prop :=
      exec (.latemaxExpiry c) s = .next ((s.takeTrap c 0x0B slot detail k.pc 0).modCore c Core.taskCycle)
    (∀ n t, f.wait = .sem n t → traps (BitVec.ofNat 16 (0x100 + n.toNat)) 0) ∧ (∀ m, f.wait = .fence m → traps 0xFFFC 0) ∧
    (∀ n, f.wait = .land n → traps (BitVec.ofNat 16 n.toNat) 0) ∧ (∀ l, f.wait = .dom l → traps (BitVec.ofNat 16 (0xFFF1 + l.ix.val)) 0) ∧
    (∀ t, f.wait = .spawn t → traps 0xFFF9 0) ∧ (∀ m r, f.wait = .phase m r → traps 0xFFFA 0) ∧
    (∀ m r qs, f.wait = .phaseAbort m r qs → traps 0xFFFA 0) ∧
    (∀ n i, f.wait = .buffer n i → traps (BitVec.ofNat 16 n.toNat) 7) ∧ (f.wait = .queue → traps 0xFFFD 5) ∧
    (∀ n, f.wait = .row n → traps (BitVec.ofNat 16 n.toNat) 4) ∧ (f.wait = .hoist → traps 0xFFFF 4)

/-- The system instructions complete (R251 to R259): alone in its bundle, each answers a next state that has its effect, on conditions on the state
and the operands alone: TRAP and BRK enter the handler, ERET returns to the task, SPAWN puts an entry into the target's queue, EXIT frees the core
and the weight goes back to its root, PHASE begins, commits and aborts, PLSWAP asks for the token and gives it up. -/
def Sys2Proof.Claim.SystemCompletion : Prop :=
  ∀ (s : State) (c : Ctl) (code : BitVec 16) (xd xa xb : Reg), s.alone c →
    let k := s.me
    let tw := k.readX xa
    let w : BitVec 32 := (k.readX xd).val.setWidth 32
    let target : CoreId := BitVec.ofNat 11 (tw.val.toNat % 2 ^ 11)
    let good (n : Nat) : Prop := (k.phaseRecord n).2 = none
    let waits (n : Nat) : Prop := k.phaseBusy (phCmask (k.phaseRecord n).1) = true
    let looked := k.first.bind (·.phase)
    (k.csr.hm = false → s.landHeld s.cur = false →
      (c.slot = .sc → ∃ t, exec (.trap c code) s = .next t ∧ t.me.csr.hm = true ∧ t.me.pc = k.csr.hvec ∧ t.me.csr.epc = (k.backEdge 2).2.2.2.2) ∧
      (∃ t, exec (.brk c code) s = .next t ∧ t.me.csr.hm = true ∧ t.me.pc = k.csr.hvec ∧ t.me.csr.epc = k.pc)) ∧
    (k.csr.hm = true → k.active.marked k.csr.epc.toNat = true → ∃ t, exec (.eret c) s = .next t ∧ t.me.csr.hm = false ∧ t.me.pc = k.csr.epc) ∧
    (s.spawnGrant s.cur target = true → (k.readX xd).poison = false → tw.poison = false → (k.readX xb).poison = false → w ≠ 0 → w.toNat ≤ k.csr.weight.toNat →
      s.ownsCore k.part target = true → tw.val.toNat / 2 ^ 16 % 4 = 0 →
      ∃ t e, exec (.spawn c xd xa xb) s = .next t ∧ (t.core target).spawnq = (s.core target).spawnq ++ [e] ∧ e.weight = w ∧ e.arg = (k.readX xb).val ∧
        t.me.csr.weight = k.csr.weight - w) ∧
    (k.exitReady = true → k.csr.pha = false → ∃ t, exec (.exit c) s = .next t ∧ t.me.run = .idle ∧ weightGoesBack s t) ∧
    (∀ e, k.exits = [e] → (∀ q ∈ k.queue, q.task ≠ e.task) →
      ∃ t, exec (.exitWeightAdd s.cur) s = .next t ∧ t.me.exits = [] ∧
        (t.core (BitVec.ofNat 11 (e.root.toNat % 2 ^ 11))).sem (BitVec.ofNat 6 (e.root.toNat / 2 ^ 16 % 2 ^ 6)) =
          addedTo ((s.core (BitVec.ofNat 11 (e.root.toNat % 2 ^ 11))).sem (BitVec.ofNat 6 (e.root.toNat / 2 ^ 16 % 2 ^ 6))) e.weight.toNat) ∧
    (k.csr.hm = false → k.csr.pha = false → looked = none → good 128 → ∃ t, exec (.phaseBegin c) s = .next t ∧ t.me.csr.pha = true ∧ t.me.phase = some (k.pc, k.nextCmd)) ∧
    (k.csr.hm = false → k.csr.pha = true → looked = none → good 128 → ¬ waits 128 →
      ∃ t, exec (.phaseCommit c) s = .next t ∧ t.me.csr.pha = false ∧ t.me.phase = none) ∧
    (k.csr.hm = false → k.csr.pha = true → looked = none → good 640 → ¬ waits 640 → let r := (k.phaseRecord 640).1
      (∀ j < phNin r, (k.phaseCopy r j).2 = none) → k.queue.length + phNin r ≤ 32 →
      ∃ t qs, exec (.phaseAbort c) s = .next t ∧ qs.length = phNin r ∧ (∀ j q, qs[j]? = some q → isCopy k r j q) ∧ wasAborted s t r qs) ∧
    (k.csr.hm = false → k.shrdy = true → ∃ t, exec (.plswap c) s = .next t ∧ t.me.swreq = true ∧ t.me.act = k.act) ∧
    (k.csr.hm = false → ∃ t, exec (.plswapCancel c) s = .next t ∧ t.me.swreq = false ∧ t.me.act = k.act)

-- The sequencer -------------------------------------------------------------------------------------------------------

/-- A tide occurrence falls due (R288): it is pending, the next one is to come if the entry has one, and one that was still pending is
dropped and counted. -/
def Sys2Proof.Claim.TideDue : Prop :=
  ∀ (s : State) (c : CoreId) (plane : Bool) (entry : BitVec 8), let k := s.core c
    let p := k.plane plane
    let e := p.tide entry
    let o := p.occOf entry
    SMap.wf .none p.occ = true → o.live = true → teLaunch e + (if teRepeat e then o.next * tePeriod e else 0) ≤ s.tnow.toNat → k.origin = false →
    event (.tideOccurrenceDue c plane entry) s (fun t =>
      ((t.core c).plane plane).occOf entry = ⟨decide (teRepeat e = true ∧ tePeriod e ≠ 0 ∧ (teRcount e = 0 ∨ o.next + 1 < teRcount e)), some o.next, o.next + 1⟩ ∧
      (t.core c).missed = (if o.pend.isSome ∧ k.missed ≠ BitVec.allOnes 64 then k.missed + 1 else k.missed) ∧
      (t.core c).run = k.run ∧ (t.core c).regs = k.regs ∧ ((t.core c).plane plane).bytes = p.bytes)

/-- Selection at a free core (R291 to R293): the earliest due occurrence starts its task at its PC with its argument in X1, late by the ticks
since its launch; without one the suspended task resumes; without that the head of the spawn queue starts with its weight. A task starts
with every other register zero, in task mode, with no flag set. Choices of the model: log entry 81. -/
def Sys2Proof.Claim.Selection : Prop :=
  ∀ (s : State) (c : CoreId), let k := s.core c
    k.run = .idle →
    let fresh (t : State) (arg : Word) : Prop := (t.core c).run = .running ∧ (t.core c).csr.hm = false ∧ (t.core c).csr.fpflags = 0 ∧
      (t.core c).csr.tcyc = 0 ∧ (t.core c).readX 1 = ⟨arg, false⟩ ∧ (∀ n, n ≠ 1 → (t.core c).readX n = ⟨0, false⟩) ∧
      (t.core c).regs.p = 0 ∧ (∀ n, (t.core c).readV n = 0) ∧ (t.core c).pend = []
    (∀ due i, firstTide k.pendingTides = some (due, i) →
      let e := k.active.tide i
      s.tideBad c k.active e = false → teSwap e = false → k.swreq = false →
      event (.selection c) s (fun t => fresh t (teArg e) ∧ (t.core c).pc = BitVec.ofNat 64 (tePc e) ∧ (t.core c).csr.taskid = teTaskid e ∧
        (t.core c).csr.slip = BitVec.ofNat 64 (s.tnow.toNat - due) ∧ (t.core c).origin = false)) ∧
    (k.pendingTides = [] → k.suspended ≠ none → k.swreq = false →
      event (.selection c) s (fun t => (t.core c).run = .resuming s.tnow ∧ (t.core c).suspended = k.suspended)) ∧
    (∀ x rest, k.pendingTides = [] → k.suspended = none → k.spawnq = x :: rest → k.swreq = false →
      event (.selection c) s (fun t => fresh t x.arg ∧ (t.core c).pc = BitVec.ofNat 64 x.pc.toNat ∧ (t.core c).csr.weight = x.weight ∧
        (t.core c).csr.rootloc = x.root ∧ (t.core c).csr.taskid = x.taskid ∧ (t.core c).spawnq = rest ∧ (t.core c).origin = true))

namespace Sys2Proof
open Sys2Proof.Machine

/-- The records of a context area (R31, Table 12, R304, Table 4) of a core pre-empted at TNOW `p` by entry `e` of a plane: `m` holds them. -/
def areaRecords (s : State) (c : CoreId) (p : Word) (pl : Bool) (e : BitVec 8) (m : PMem) : Prop :=
  let k := s.core c
  let n (o z : Nat) : Nat := m.readNat o z
  (∀ i < 32, n (8 * i) 8 = (k.readX (BitVec.ofNat 5 i)).val.toNat) ∧
  n 0x100 1 = (k.regs.p ||| 1).toNat ∧ n 0x101 1 = (k.regs.pp &&& 0xFE).toNat ∧ n 0x102 6 = 0 ∧ n 0x108 4 = (k.regs.xp &&& 0xFFFFFFFE).toNat ∧
  n 0x10C 1 = (k.regs.kp &&& 0xFE).toNat ∧ n 0x10D 51 = 0 ∧ (∀ i < 8, n (0x140 + 16 * i) 16 = (k.readK (BitVec.ofNat 3 i)).toNat) ∧
  taskCsrs.length = 45 ∧ (∀ i a, taskCsrs[i]? = some a → n (0x200 + 8 * i) 8 = ((s.csrRead c a).getD 0).toNat) ∧ n 0x368 24 = 0 ∧
  n 0x380 8 = k.pc.toNat % 65536 + 0x110000 + (if k.resumeWait then 2 ^ 24 else 0) ∧ n 0x388 8 = p.toNat ∧
  (∀ l : Fin 3, n (0x390 + 4 * l.val) 4 = ((k.lastArr[l]).getD (k.csr.dph[l] - 1)).toNat) ∧ n 0x39C 4 = 0 ∧
  n 0x3A0 8 = e.toNat + (if pl then 256 else 0) ∧ n 0x3A8 88 = 0 ∧
  (∀ i < 64, n (0x400 + 8 * i) 4 = (k.sem (BitVec.ofNat 6 i)).val.toNat ∧ n (0x404 + 8 * i) 4 = (k.sem (BitVec.ofNat 6 i)).status.toNat) ∧
  (∀ i < 32, let b := k.berth (BitVec.ofNat 5 i)
    n (0x600 + 16 * i) 16 = b.base.toNat + b.lenm1.toNat * 2 ^ 16 + b.arm.toNat * 2 ^ 32 + b.mesh.toNat * 2 ^ 33 + b.fab.toNat * 2 ^ 34
      + b.mc.toNat * 2 ^ 35 + b.etag.toNat * 2 ^ 80 + b.atag.toNat * 2 ^ 96) ∧
  (∀ i < 1024, (m.read (0x800 + i)).toNat = recordByte k.mx k.mt i)

/-- The images of a context area (R31, Table 12): V registers and their poison, hoist FIFO, weight planes, accumulator masks and store, scratchpad. -/
def areaImages (k : Core) (m : PMem) : Prop :=
  let n (o z : Nat) : Nat := m.readNat o z
  let cell (w : SMap EForm) (i : Nat) : Nat := formTable (SMap.get .zeroCell w i)
  (∀ i < 32, n (0xC00 + 2 * i) 2 = (k.poisonV (BitVec.ofNat 5 i)).toNat ∧ n (0x1000 + 128 * i) 128 = (k.readV (BitVec.ofNat 5 i)).toNat) ∧
  (∀ i < 16, n (0x2000 + 128 * i) 128 = ((k.mx.hoist[i]?).map (fun h => h.1.toNat)).getD 0) ∧
  (∀ i < 4096, n (0x4000 + 2 * i) 2 = cell (k.mx.plane k.mx.act) i ∧ n (0x6000 + 2 * i) 2 = cell (k.mx.plane (!k.mx.act)) i) ∧
  (∀ r < 256, ∀ j < 64, (n (0x8000 + 16 * r) 8).testBit j = (k.mx.el (64 * r + j)).nar ∧
    (n (0x8008 + 16 * r) 8).testBit j = (k.mx.el (64 * r + j)).poison) ∧
  (∀ i < 16384, n (0x10000 + 8 * i) 8 = (k.mx.el i).val.toNat) ∧
  (∀ a < 524288, m.read (0x30000 + a) = k.sp.read a)

/-- The poison of a context area's granules: of a poisoned hoist part, weight cell or scratchpad granule, and of nothing else the engine writes. -/
def areaPoison (k : Core) (m : PMem) : Prop :=
  (∀ g, (g < 14 ∨ (16 ≤ g ∧ g < 98) ∨ (128 ≤ g ∧ g < 256) ∨ (1024 ≤ g ∧ g < 1152) ∨ (2048 ≤ g ∧ g < 6144)) → m.poisoned g = false) ∧
  (∀ i < 64, m.poisoned (256 + i) = true ↔ ∃ h, k.mx.hoist[i / 4]? = some h ∧ h.2.toNat / 16 ^ (i % 4) % 16 ≠ 0) ∧
  (∀ i < 256, (m.poisoned (512 + i) = true ↔ ∃ j < 16, (SMap.get .zeroCell (k.mx.plane k.mx.act) (16 * i + j)).poison = true) ∧
    (m.poisoned (768 + i) = true ↔ ∃ j < 16, (SMap.get .zeroCell (k.mx.plane (!k.mx.act)) (16 * i + j)).poison = true)) ∧
  (∀ g < 16384, m.poisoned (6144 + g) = k.sp.poisoned g)

end Sys2Proof

open Sys2Proof Sys2Proof.Machine

/-- Context save and resume (R31, R204, R304 to R306): a pre-empted core whose results have landed and whose commands do not use its scratchpad begins to save; when the save
ends its context area is written and the core is free, with the task suspended; when a resume ends the task runs again with the
registers and the scratchpad of the area, SLIP grown by the ticks since the pre-emption; the clause on a resume is of a partition without TEST (R326).
The area that a save leaves is given byte by byte, with its poison, in the layout of R31 and R304, and its reserved bytes keep what they held.
Choices of the model: log entries 77 to 79. -/
def Sys2Proof.Claim.ContextEvents : Prop :=
  ∀ (s : State) (c : CoreId), let k := s.core c
    (∀ p pl e, k.run = .preempting p pl e → k.landing = none → s.saveHeld c = false → k.swreq = false →
      event (.contextSaveBegin c) s (fun t => (t.core c).run = .saving p s.tnow pl e ∧ (t.core c).buf = [] ∧ (t.core c).regs = k.regs)) ∧
    (∀ p t0 pl e, k.run = .saving p t0 pl e → event (.contextSaveEnd c) s (fun t =>
      (t.core c).run = .idle ∧ t.hbm = (s.saveContext c p pl e).hbm ∧
      (k.context.length = 11 → k.context.Nodup → s.memWf → s.mapsWf → k.csr.hm = false → k.mx.tablesForm = true → k.mx.parked.length ≤ 9 →
        k.injects .acc = false → k.injects .pad = false →
        let m := t.contextArea c
        areaRecords s c p pl e m ∧ areaImages k m ∧ areaPoison k m ∧
        ∀ a, (0x1C0 ≤ a ∧ a < 0x200) ∨ (0xC40 ≤ a ∧ a < 0x1000) ∨ (0x2800 ≤ a ∧ a < 0x4000) ∨ (0x9000 ≤ a ∧ a < 0x10000) →
          m.read a = (s.contextArea c).read a ∧ m.poisoned (a / 32) = (s.contextArea c).poisoned (a / 32)) ∧
      ∃ u, (t.core c).suspended = some u ∧ u.task = k.task ∧ u.dom = k.csr.dom ∧ u.dph = k.csr.dph ∧ u.phase = k.phase ∧ u.bndhit = 0)) ∧
    (∀ t0 u, k.run = .resuming t0 → k.suspended = some u → (s.part k.part).flags.getLsbD 0 = false →
      let m := s.contextArea c
      recordBad (m.cells.readRun 0x800 1024) = false →
      event (.contextResumeEnd c) s (fun t =>
        (t.core c).run = .running ∧ (t.core c).suspended = none ∧ (t.core c).task = u.task ∧ (t.core c).regs = m.contextRegs ∧
        (t.core c).csr.hm = false ∧ (t.core c).csr.dph = u.dph ∧ (t.core c).sp = m.moveOut 0x30000 524288 ∧
        (t.core c).pc = BitVec.ofNat 64 (m.readNat 0x380 2) ∧ (t.core c).csr.tcyc = BitVec.ofNat 64 (m.readNat 0x230 8) ∧
        (t.core c).csr.slip = satAdd (BitVec.ofNat 64 (m.readNat 0x238 8)) (s.tnow - BitVec.ofNat 64 (m.readNat 0x388 8)).toNat))

/-- The end of a plane load (R29, R89, R300): 12,288 ticks after it began the shadow plane holds the image, SHRDY says whether the image was
accepted, and the active plane is unchanged. That a table armed during the load stays armed is the model's choice (log entry 124), and so is the
tick in which the load ends (log entry 96). -/
def Sys2Proof.Claim.PlaneLoaded : Prop :=
  ∀ (s : State) (c : CoreId) (img : List Byte) (t0 : Word) (id : Nat), let k := s.core c
    k.loading = some (img, t0, id) → 12288 ≤ (s.tnow - t0).toNat →
    event (.planeLoadEnd c) s (fun t =>
      (t.core c).loading = none ∧ (t.core c).act = k.act ∧ (t.core c).regs = k.regs ∧
      (t.core c).shrdy = (acceptPlane img).isOk ∧ (t.core c).active = k.active ∧
      ((t.core c).plane (!k.act)).armed = (k.plane (!k.act)).armed ∧ ((t.core c).plane (!k.act)).bytes = Memory.cells 0 (img.take 98304))


-- Pages, faults and filters -------------------------------------------------------------------------------------------

/-- What the firmware does to the page table and to faults (R314, R316, R398): an update of a 64 KiB entry whose frame belongs to its owner
takes effect where the firmware runs (R414), and MAP also ends the fault; an update that names another owner's frame changes nothing; REFUSE, and FAULTMAX ticks
without an answer, let the held access end with PAGE. Choices of the model: log entry 83. -/
def Sys2Proof.Claim.FaultAnswers : Prop :=
  ∀ (s : State) (id page : Nat) (pte : Word), SMap.wf 0 s.pages = true →
    let e := pte &&& 0x7FFFFF1FFF
    let allowed : Prop := s.frameOwner (e.toNat / 2 ^ 16) = some (BitVec.ofNat 5 (e.toNat / 2 ^ 8))
    let sets (i : Instr) (p : Nat) (more : State → Prop) : Prop :=
      event i s (fun t => SMap.get 0 t.pages p = e ∧ (∀ k, k ≠ p → SMap.get 0 t.pages k = SMap.get 0 s.pages k) ∧ more t)
    (∀ f, s.faults.find? (fun f => f.id == id && !f.refused) = some f → pte.getLsbD 7 = false →
      (allowed → s.entryMarked (f.ia / 65536) e (BitVec.ofNat 5 (e.toNat / 2 ^ 8)) = false →
        sets (.faultMap id pte) (f.ia / 65536) (fun t => ∀ x ∈ t.faults, x.id ≠ id)) ∧
      (¬ allowed → exec (.faultMap id pte) s = .next s)) ∧
    (pte.getLsbD 7 = false →
      (s.boot ≠ .none → exec (.pageTableUpdate page pte) s = .next s) ∧
      (s.boot = .none → allowed → s.entryMarked page e (BitVec.ofNat 5 (e.toNat / 2 ^ 8)) = false →
        sets (.pageTableUpdate page pte) page (fun t => t.faults = s.faults)) ∧
      (s.boot = .none → allowed → s.entryMarked page e (BitVec.ofNat 5 (e.toNat / 2 ^ 8)) = true → pteW e = true →
        event (.pageTableUpdate page pte) s (fun t => pteC (SMap.get 0 t.pages page) = true ∧ pteW (SMap.get 0 t.pages page) = false)) ∧
      (¬ allowed → exec (.pageTableUpdate page pte) s = .next s)) ∧
    (∀ f, s.faults.find? (fun f => f.id == id) = some f →
      event (.faultRefuse id) s (fun t => t.holdNow (some (.fault id)) = .page ∧ t.pages = s.pages) ∧
      (f.refused = false → (if (s.part f.part).faultmax = 0 then 2 ^ 24 else (s.part f.part).faultmax.toNat) ≤ (s.tnow - f.since).toNat →
        event (.faultmaxExpiry id) s (fun t => t.holdNow (some (.fault id)) = .page ∧ t.pages = s.pages)))

/-- The clearing of an error filter (R323): CLRINT ticks after it was last cleared, every bit of the filter is cleared at once and no other
filter changes. -/
def Sys2Proof.Claim.FilterCleared : Prop :=
  ∀ (s : State) (f : BitVec 4) (h : f.toNat < 12), SMap.wf false s.tele.filters = true →
    s.tele.clrint.toNat ≤ (s.tnow - s.tele.cleared[f.toNat]).toNat →
    event (.filterClear f) s (fun t => (∀ b < 4096, SMap.get false t.tele.filters (4096 * f.toNat + b) = false) ∧
      (∀ k, k / 4096 ≠ f.toNat → SMap.get false t.tele.filters k = SMap.get false s.tele.filters k) ∧
      t.tele.cleared[f.toNat] = s.tnow ∧ t.tele.first = s.tele.first ∧ t.tele.repeats = s.tele.repeats)

-- The drydock ---------------------------------------------------------------------------------------------------------

/-- The cut (R363, R366): when every member has come and no collective up to its step is left, SNAPs that disagree, or do not go past the
previous cut, all complete with RECORD and no cut is made; else the cut takes N, the image and the level of the SNAPs, and every writable
page entry of the set gets C = 1 and W = 0, all at once, with no other entry changed. Choices of the model: log entry 85. -/
def Sys2Proof.Claim.CutMade : Prop :=
  ∀ (s : State) (p : BitVec 5) (l : Level) (w : CoreId × Cmd) (ws : List (CoreId × Cmd)), s.cutDue p = some (l, w :: ws) →
    SMap.wf 0 s.pages = true →
    (s.cutBad p (w :: ws) = true → event (.cutInstant p) s (fun t =>
      (∀ q, q ≠ p → t.part q = s.part q) ∧ t.part p = { s.part p with confirmed := none } ∧ t.pages = s.pages ∧
      ∀ v ∈ w :: ws, ∃ r, (t.core v.1).cmd v.2.id = some r ∧ r.finished = true ∧ Status.record ∈ r.met)) ∧
    (s.cutBad p (w :: ws) = false → event (.cutInstant p) s (fun t =>
      (∃ c, (t.part p).cut = some c ∧ c.n = BitVec.ofNat 32 w.2.xs.toNat ∧ c.image = w.2.xd ∧ c.level = l ∧ c.pos = 0 ∧ c.copies = []) ∧
      (t.part p).lastCut = some (BitVec.ofNat 32 w.2.xs.toNat) ∧
      ∀ k, let e := SMap.get 0 s.pages k
        SMap.get 0 t.pages k = if k ∈ s.setKeys p ∧ e.getLsbD 1 = true then (e ||| 4) &&& ~~~ 2 else e))

/-- Copies and the drain (R367, R370, R371): a copy a writer waits for holds the granule as it is and unmarks it; the drain takes the next
granule from its copy, or from memory where there is none, adds it to the segment in progress, and sends the segment when it is full or
its range ends: encrypted under the key of the image with the IV and the authenticated data of R371 to its place in the storage target, its
entry with the tag being added to the manifest's (R372). No memory of the part changes. It is of a partition without TEST and of a hold without a corrected error: a read there can draw
an error (R326) or log one (R323). Choices of the model: log entries 21, 86 and 119. -/
def Sys2Proof.Claim.CutDrained : Prop :=
  ∀ (s : State) (p : BitVec 5) (c : Cut) (r : SnapRange) (a g : Nat), (s.part p).cut = some c →
    let same (t : State) : Prop := t.hbm = s.hbm ∧ t.cores = s.cores
    let after (i : Instr) (holds : State → Cut → Prop) : Prop := event i s (fun t => same t ∧ ∃ c', (t.part p).cut = some c' ∧ holds t c')
    (s.part p).flags.getLsbD 0 = false → (r.hold = true → (s.core r.core).injects .hold = false ∧ ∀ x, (s.core r.core).homeCorrects x = false) →
    (granuleAt (s.part p).ranges g = some (r, a) → g ∈ c.copying → s.bufRoom p r.unit = true → c.marked g = true →
      after (.cowCopyDone p g) (fun t c' => c'.copies = c.copies ++ [(g, s.granuleBlob r a)] ∧ g ∉ c'.copying ∧ c'.marked g = false ∧ c'.pos = c.pos ∧
        t.out = s.out)) ∧
    (granuleAt (s.part p).ranges c.pos = some (r, a) → a - r.base + r.unit ≤ r.len →
      let data := match c.copies.find? (fun e => e.1 == c.pos) with | some e => e.2 | none => s.granuleBlob r a
      let full : Prop := (a - r.base + r.unit) % 2 ^ 20 = 0 ∨ a - r.base + r.unit = r.len
      after (.drainGranule p) (fun t c' => c'.pos = c.pos + 1 ∧ c'.marked c.pos = false ∧ (∀ e ∈ c'.copies, e ∈ c.copies) ∧
        (¬ full → c'.drained = c.drained ++ [data.bytes] ∧ c'.segs = c.segs ∧ (c.pos + 1 < (s.part p).units → t.out = s.out)) ∧
        (full → ∀ set, (s.part p).snapset = some set →
          let i := c.segs.length
          let plain := (c.drained ++ [data.bytes]).flatten
          let store := segmentOffset ((s.part p).ranges.flatMap SnapRange.lens) i
          let entry := segmentEntry (rangeIx (s.part p).ranges c.pos 0) plain.length ((a - r.base) / 2 ^ 20 * 2 ^ 20) store
          let sealed := Config.gcmSeal (s.sealKey (s.part p).tenant ((s.part p).measure.getD 0) c.c c.image) (bytesBE i 8 ++ List.replicate 4 0)
            ((s.manifestHead p c).take 64 ++ entry) plain
          c'.drained = [] ∧ c'.segs = c.segs ++ [entry ++ padTo 16 sealed.2] ∧
          OutMsg.segment p (set.addr + BitVec.ofNat 64 store) sealed.1 ∈ t.out)))

/-- The end of a cut (R373): once everything is drained and the target confirms, the SNAPs of SEAL complete and the counter value is to be
marked committed; when the drain fails the pages get back the W the cut took, and the SNAPs of SEAL complete with PAGE, or with LINK
where the target cannot be reached. -/
def Sys2Proof.Claim.CutEnds : Prop :=
  ∀ (s : State) (p : BitVec 5) (c : Cut) (lost : Bool), (s.part p).cut = some c → SMap.wf 0 s.pages = true →
    let ended (t : State) (st : Option Status) : Prop := ∀ m ∈ c.members, ∀ q, (s.core m.1).cmd m.2 = some q →
      ∃ r, (t.core m.1).cmd m.2 = some r ∧ r.finished = true ∧ (∀ x, st = some x → x ∈ r.met) ∧ (st = none → r.met = q.met)
    ((s.part p).units ≤ c.pos → event (.imageConfirmed p) s (fun t => (t.part p).cut = none ∧ ended t none ∧
      t.out = s.out ++ [OutMsg.commitC (s.part p).tenant c.c] ∧ t.pages = s.pages)) ∧
    (c.pos < (s.part p).units → exec (.imageConfirmed p) s = .next s) ∧
    event (.drainFailure p lost) s (fun t => (t.part p).cut = none ∧ ended t (some (if lost then .link else .page)) ∧
      ∀ k, let e := SMap.get 0 s.pages k
        SMap.get 0 t.pages k = if k ∈ c.wasW ∧ e.getLsbD 2 = true ∧ e.getLsbD 1 = false then (e ||| 2) &&& ~~~ 4 else e)


-- Trimmers ------------------------------------------------------------------------------------------------------------

namespace Sys2Proof
open Sys2Proof.Machine

/-- A sweep that has bound its entry and whose next turn is of a thread with items left (R333, R335). -/
def turnOf (s : State) (w : Sweep) : Prop := s.me.sweep = some w ∧ w.checked = true ∧ w.delay = 0 ∧ w.stop = none ∧ w.thread.live = true

/-- The state after a turn in which only the sweep changes: its thread, flags, and what becomes of the thread. -/
def tookTurn (s : State) (w : Sweep) (th : Thread) (fl : BitVec 8) (ctl : TmCtl) : State :=
  s.modCore s.cur (fun k => { k with sweep := some (w.took ⟨th, fl, ctl⟩) })

/-- A lane of `z` bits as an unsigned number. -/
def ulane (z : Nat) (v : BitVec 256) (j : Nat) : Nat := v.toNat / 2 ^ (z * j) % 2 ^ z
/-- An FX32 lane as a signed number. -/
def slane (v : BitVec 256) (j : Nat) : Int := (ulane 32 v j : Int).bmod (2 ^ 32)

/-- An instruction writes a W register lane by lane (R336): lane j takes the first part of `f j` and the sweep takes the flags of all lanes; granule g is
poisoned where `q g` says. -/
def writesLanes (s : State) (w : Sweep) (i : Instr) (d : BitVec 4) (z : Nat) (f : Nat → Nat × BitVec 8) (q : Nat → Bool) : Prop :=
  ∃ v p, exec i s = .next (tookTurn s w (w.thread.setW d v p) ((List.range (256 / z)).foldl (fun m j => m ||| (f j).2) 0) .next) ∧
    (∀ j < 256 / z, ulane z v j = (f j).1) ∧ ∀ g < 4, p.getLsbD g = q g

/-- The LGM16 NaR and the FX32 NaR (R36, R338). -/
def nar16 : Nat := 32768
/-- The FX32 NaR. -/
def nar32 : Nat := 2 ^ 31

/-- An FX32 result, clamped with FXSAT (R344). -/
def fxResult (v : Int) : Nat × BitVec 8 :=
  if v > 2 ^ 31 - 1 then (2 ^ 31 - 1, 4) else if v < -(2 ^ 31 - 1) then (2 ^ 31 + 1, 4) else ((v % 2 ^ 32).toNat, 0)

/-- An FX32 operation of two lanes (R344). -/
def fxLane (f : Int → Int → Int) (a b : Nat) : Nat × BitVec 8 :=
  if a = nar32 ∨ b = nar32 then (nar32, 0) else fxResult (f ((a : Int).bmod (2 ^ 32)) ((b : Int).bmod (2 ^ 32)))

/-- nearest_even(n / d). -/
def nearestEven (n : Int) (d : Nat) : Int :=
  n / d + (if 2 * (n % d) > d ∨ (2 * (n % d) = d ∧ n / d % 2 = 1) then 1 else 0)

/-- TMADDL on a lane (R341, R144). -/
def mulLane (a b : Nat) : Nat × BitVec 8 :=
  let l : Int := (a % 32768 : Nat) + (b % 32768 : Nat) - 16384
  let sign : Nat := if a / 32768 = b / 32768 then 0 else 32768
  if a = nar16 ∨ b = nar16 then (nar16, 0) else if a = 0 ∨ b = 0 then (0, 0)
  else if l > 32767 then (sign + 32767, 1) else if l < 1 then (0, 2) else (sign + l.toNat, 0)

/-- TMSHR on a lane (R342). -/
def shrTable (fn : Nat) (a : Nat) : Nat × BitVec 8 :=
  let x : Int := (a % 32768 : Nat) - 16384
  if a % 32768 = 0 then ((if fn = 0 then a else nar16), 0)
  else if fn = 2 then (a / 32768 * 32768 + (32768 - a % 32768), 0)
  else if a ≥ 32768 then (nar16, 8)
  else ((if fn = 0 then 16384 + nearestEven x 2 else 16384 - nearestEven x 2).toNat, 0)

/-- The value order of LGM16 lanes. -/
def lgmKey (a : Nat) : Int := if a ≥ 32768 then -((a % 32768 : Nat) : Int) else (a : Int)

/-- A condition of TMCMP on two numbers of which neither, or one, is NaR (R345). -/
def cmpTable (c : TmCond) (nar : Bool) (a b : Int) : Bool :=
  match c with | .un => nar | .eq => !nar && decide (a = b) | .lt => !nar && decide (a < b) | .le => !nar && decide (a ≤ b)

/-- TMRND on a lane (R347), with the draw of the stochastic form. -/
def rndTable (a n : Nat) (draw : Option Nat) : Nat × BitVec 8 :=
  let q := (n : Int).bmod (2 ^ 32) / 65536
  let f := (n : Int).bmod (2 ^ 32) % 65536
  let up : Bool := match draw with | some r => decide ((r : Int) < f * 65536) | none => decide (2 * f > 65536 ∨ (2 * f = 65536 ∧ q % 2 = 1))
  let l := (a % 32768 : Nat) + q + (if up then 1 else 0)
  if a % 32768 = 0 then (a, 0) else if n = nar32 then (nar16, 0)
  else if l > 32767 then (a / 32768 * 32768 + 32767, 1) else if l < 1 then (a / 32768 * 32768 + 1, 16) else (a / 32768 * 32768 + l.toNat, 0)

/-- A generator after some draws (R142). -/
def drawn (g : Word) : Nat → Word
  | 0 => g
  | n + 1 => srNext (drawn g n)

end Sys2Proof

open Sys2Proof Sys2Proof.Machine

/-- The lane instructions of the trimmers (R341 to R346, R348): each lane by its own rule, with the sticky flags of the sweep, and the poison
of the granules it came from. Choices of the model: log entry 71. -/
def Sys2Proof.Claim.TrimmerLanes : Prop :=
  ∀ (s : State) (w : Sweep) (d a b m : BitVec 4) (k : BitVec 8) (n : BitVec 5) (ca : BitVec 3) (cond : TmCond), turnOf s w →
    let t := w.thread
    let va := t.wr a; let vb := t.wr b; let vd := t.wr d
    let la := ulane 16 va; let lb := ulane 16 vb
    let xa := ulane 32 va; let xb := ulane 32 vb
    let pa (g : Nat) : Bool := (t.wrp a).getLsbD g
    let pab (g : Nat) : Bool := (t.wrp a).getLsbD g || (t.wrp b).getLsbD g
    let none' {α : Type} (x : α) : α × BitVec 8 := (x, 0)
    let l2 (i : Instr) (f : Nat → Nat → Nat × BitVec 8) : Prop := writesLanes s w i d 16 (fun j => f (la j) (lb j)) pab
    let l1 (i : Instr) (f : Nat → Nat × BitVec 8) : Prop := writesLanes s w i d 16 (fun j => f (la j)) pa
    let x2 (i : Instr) (f : Nat → Nat → Nat × BitVec 8) : Prop := writesLanes s w i d 32 (fun j => f (xa j) (xb j)) pab
    let x1 (i : Instr) (f : Nat → Nat × BitVec 8) : Prop := writesLanes s w i d 32 (fun j => f (xa j)) pa
    let sum (neg : Bool) (x y : Nat) : Nat × BitVec 8 :=
      let r := lgmAdd (BitVec.ofNat 16 x) (BitVec.ofNat 16 y) neg
      (r.1.toNat, BitVec.ofNat 8 (r.2.osat.toNat + 2 * r.2.ozero.toNat))
    let bad (x y : Nat) : Bool := decide (x = nar16) || decide (y = nar16)
    let badX (x y : Nat) : Bool := decide (x = nar32) || decide (y = nar32)
    let sx (x : Nat) : Int := (x : Int).bmod (2 ^ 32)
    let sg (x : Nat) (neg : Bool) : Nat := if x % 32768 = 0 then x else x % 32768 + 32768 * neg.toNat
    l2 (.tmadd d a b) (sum false) ∧ l2 (.tmsub d a b) (sum true) ∧ l2 (.tmaddl d a b) mulLane ∧
    l1 (.tmshrSqrt d a) (shrTable 0) ∧ l1 (.tmshrRsqrt d a) (shrTable 1) ∧ l1 (.tmshrRcp d a) (shrTable 2) ∧
    (∀ h < 2, writesLanes s w (if h = 0 then .tmcvtL2fLo d a k else .tmcvtL2fHi d a k) d 32 (fun j =>
      let x := la (8 * h + j)
      if x = nar16 then (nar32, 0) else if x = 0 then (0, 0)
      else fxResult (roundInt .rne ((lgmValue (BitVec.ofNat 16 x) 0).scale (16 + k.toInt)))) (fun g => pa (2 * h + g / 2))) ∧
    (∀ h < 2, writesLanes s w (if h = 0 then .tmcvtF2lLo d a k else .tmcvtF2lHi d a k) d 16 (fun j =>
      if j / 8 ≠ h then (ulane 16 vd j, 0)
      else
        let x := xa (j % 8)
        if x = nar32 then (nar16, 0) else if x = 0 then (0, 0)
        else
          let r := roundLog (.fin (decide (sx x < 0)) (sx x).natAbs (-16 - k.toInt)) 0 16 10
          (r.1 % 2 ^ 16, BitVec.ofNat 8 (r.2.osat.toNat + 2 * r.2.ozero.toNat)))
      (fun g => if g / 2 = h then pa (2 * (g % 2)) || pa (2 * (g % 2) + 1) else (t.wrp d).getLsbD g)) ∧
    x2 (.tmfxAdd d a b) (fxLane (· + ·)) ∧ x2 (.tmfxSub d a b) (fxLane (· - ·)) ∧ x2 (.tmmul d a b) (fxLane (fun x y => nearestEven (x * y) 65536)) ∧
    x1 (.tmfxSar d a n) (fun x => fxLane (fun x _ => x / 2 ^ n.toNat) x 0) ∧ x1 (.tmfxShl d a n) (fun x => fxLane (fun x _ => x * 2 ^ n.toNat) x 0) ∧
    exec (.tmsel d a b m) s = .next (tookTurn s w (t.setW d ((va &&& t.wr m) ||| (vb &&& ~~~ t.wr m)) (t.wrp a ||| t.wrp b ||| t.wrp m)) 0 .next) ∧
    l2 (.tmcmp cond .l d a b) (fun x y => none' (if cmpTable cond (bad x y) (lgmKey x) (lgmKey y) then 2 ^ 16 - 1 else 0)) ∧
    x2 (.tmcmp cond .x d a b) (fun x y => none' (if cmpTable cond (badX x y) (sx x) (sx y) then 2 ^ 32 - 1 else 0)) ∧
    l2 (.tmmin .l d a b) (fun x y => none' (if bad x y then nar16 else if lgmKey x ≤ lgmKey y then x else y)) ∧
    l2 (.tmmax .l d a b) (fun x y => none' (if bad x y then nar16 else if lgmKey x ≤ lgmKey y then y else x)) ∧
    x2 (.tmmin .x d a b) (fun x y => none' (if badX x y then nar32 else if sx x ≤ sx y then x else y)) ∧
    x2 (.tmmax .x d a b) (fun x y => none' (if badX x y then nar32 else if sx x ≤ sx y then y else x)) ∧
    l2 (.tmsgnCopy d a b) (fun x y => none' (sg x (decide (y ≥ 32768)))) ∧
    l2 (.tmsgnXor d a b) (fun x y => none' (sg x (decide (x ≥ 32768) != decide (y ≥ 32768)))) ∧
    l1 (.tmsgnAbs d a) (fun x => none' (sg x false)) ∧ l1 (.tmsgnNeg d a) (fun x => none' (sg x (decide (x < 32768)))) ∧
    exec (.tmmov d a) s = .next (tookTurn s w (t.setW d va (t.wrp a)) 0 .next) ∧
    writesLanes s w (.tmmovBc16 d ca) d 16 (fun _ => ((t.cr ca).toNat % 2 ^ 16, 0)) (fun _ => t.crp ca) ∧
    writesLanes s w (.tmmovBc32 d ca) d 32 (fun _ => ((t.cr ca).toNat, 0)) (fun _ => t.crp ca)

/-- TMRND (R347): eight deltas added to eight lanes, to nearest with ties to even or with one draw of the thread's generator for each lane in
ascending order, whatever the lane holds; the other eight lanes are unchanged, and no weight changes its sign or becomes zero. -/
def Sys2Proof.Claim.TrimmerRounding : Prop :=
  ∀ (s : State) (w : Sweep) (d a : BitVec 4) (hi : Bool), turnOf s w →
    let t := w.thread
    let h := hi.toNat
    let row (draw : Nat → Option Nat) (j : Nat) : Nat × BitVec 8 :=
      if j / 8 = h then rndTable (ulane 16 (t.wr d) j) (ulane 32 (t.wr a) (j % 8)) (draw (j % 8)) else (ulane 16 (t.wr d) j, 0)
    let q (g : Nat) : Bool := (decide (g / 2 = h) && ((t.wrp a).getLsbD (2 * (g % 2)) || (t.wrp a).getLsbD (2 * (g % 2) + 1))) || (t.wrp d).getLsbD g
    writesLanes s w (.tmrnd false hi d a) d 16 (row (fun _ => none)) q ∧
    ∃ v p, exec (.tmrnd true hi d a) s = .next (tookTurn s w { (t.setW d v p) with gen := drawn t.gen 8 }
        ((List.range 16).foldl (fun m j => m ||| (row (fun j => some ((drawn t.gen (j + 1)).toNat % 2 ^ 32)) j).2) 0) .next) ∧
      (∀ j < 16, ulane 16 v j = (row (fun j => some ((drawn t.gen (j + 1)).toNat % 2 ^ 32)) j).1) ∧ (∀ g < 4, p.getLsbD g = q g)

/-- The scalar and control instructions of the trimmers (R348): C registers modulo 2^32 with their poison; TMBR and TMLOOP with a poisoned
register stop the sweep with POISON and reason 7; TMNOP does nothing. -/
def Sys2Proof.Claim.TrimmerScalars : Prop :=
  ∀ (s : State) (w : Sweep) (d ca : BitVec 3) (a : BitVec 4) (imm : BitVec 19) (i16 : BitVec 16) (j : BitVec 4) (j3 : BitVec 3) (target : BitVec 10),
    turnOf s w →
    let t := w.thread
    let x := t.cr ca
    let goes (i : Instr) (th : Thread) (ctl : TmCtl) : Prop := exec i s = .next (tookTurn s w th 0 ctl)
    let poisoned : Prop := t.crp ca = true
    let branch (cond : TmBrCond) (taken : Prop) : Prop := (poisoned → goes (.tmbr cond ca target) t (.stop .poison 7 0)) ∧
      (¬ poisoned → (taken → goes (.tmbr cond ca target) t (.goto target.toNat)) ∧ (¬ taken → goes (.tmbr cond ca target) t .next))
    goes .tmnop t .next ∧ goes .tmend t .endItem ∧
    goes (.tmaddi d ca imm) (t.setC d (BitVec.ofInt 32 (x.toNat + imm.toInt)) (t.crp ca)) .next ∧
    goes (.tmmovi d false i16) (t.setC d (BitVec.ofInt 32 i16.toInt) false) .next ∧
    goes (.tmmovi d true i16) (t.setC d (BitVec.ofNat 32 (i16.toNat * 2 ^ 16 + (t.cr d).toNat % 2 ^ 16)) (t.crp d)) .next ∧
    goes (.tmmovGet16 d a j) (t.setC d (BitVec.ofNat 32 (ulane 16 (t.wr a) j.toNat)) ((t.wrp a).getLsbD (j.toNat / 4))) .next ∧
    goes (.tmmovGet32 d a j3) (t.setC d (BitVec.ofNat 32 (ulane 32 (t.wr a) j3.toNat)) ((t.wrp a).getLsbD (j3.toNat / 2))) .next ∧
    goes (.tmbr .always ca target) t (.goto target.toNat) ∧
    branch .eq (x = 0) ∧ branch .ne (x ≠ 0) ∧ branch .lt (x.toInt < 0) ∧ branch .ge (0 ≤ x.toInt) ∧
    (poisoned → goes (.tmloop ca target) t (.stop .poison 7 0)) ∧
    (¬ poisoned → goes (.tmloop ca target) (t.setC ca (x - 1) false) (if x = 1 then .next else .goto target.toNat))

/-- TMLD and TMST (R337, R340, R328): an access is checked for the entry's generation, its right and its bound, and stops the sweep with
RIGHTS and reason 4, 2 or 3; a load takes the column word, poisoned where it reads uncorrectable, with the flag of poison met; a store
writes the whole word, poisoned if any granule of the register is, and a word of a granule the drydock is still to copy refuses the turn. Choices of the model: log entry 69. -/
def Sys2Proof.Claim.TrimmerMemory : Prop :=
  ∀ (s : State) (w : Sweep) (d : BitVec 4) (dc cb q : BitVec 3) (off : BitVec 16), turnOf s w →
    let t := w.thread
    let k := s.me
    let e := k.cap w.cap
    let rel : Int := 32 * ((t.cr cb).toInt + off.toInt)
    let at_ := capBase e + rel.toNat
    let stops (i : Instr) (st : Status) (r : Nat) (o : Word) : Prop := exec i s = .next (tookTurn s w t 0 (.stop st r o))
    (t.crp cb = true → ∀ i ∈ [.tmld d cb off, .tmldC dc cb q off, .tmst d cb off], stops i .poison 7 0) ∧
    (t.crp cb = false →
      (capGen e ≠ w.gen → ∀ i ∈ [.tmld d cb off, .tmldC dc cb q off, .tmst d cb off], stops i .rights 4 (BitVec.ofInt 64 rel)) ∧
      (capGen e = w.gen →
        (e.getLsbD 1 = false → stops (.tmld d cb off) .rights 2 (BitVec.ofInt 64 rel) ∧ stops (.tmldC dc cb q off) .rights 2 (BitVec.ofInt 64 rel)) ∧
        (e.getLsbD 2 = false → stops (.tmst d cb off) .rights 2 (BitVec.ofInt 64 rel)) ∧
        (e.getLsbD 1 = true →
          (rel < 0 ∨ rel ≥ capBound e → stops (.tmld d cb off) .rights 3 (BitVec.ofInt 64 rel) ∧ stops (.tmldC dc cb q off) .rights 3 (BitVec.ofInt 64 rel)) ∧
          (0 ≤ rel → rel < capBound e → SMap.get 0 k.holdErr (at_ / 32) ∈ [0, 2] → k.injects .hold = false →
            let word := k.hold.gran (at_ / 32)
            let bad := k.hold.poisoned (at_ / 32) || SMap.get 0 k.holdErr (at_ / 32) == 2
            let fl : BitVec 8 := if bad then 32 else 0
            exec (.tmld d cb off) s = .next (tookTurn s w (t.setW d word (if bad then 15 else 0)) fl .next) ∧
            exec (.tmldC dc cb q off) s = .next (tookTurn s w (t.setC dc (BitVec.ofNat 32 (ulane 32 word q.toNat)) bad) fl .next))) ∧
        (e.getLsbD 2 = true →
          (rel < 0 ∨ rel ≥ capBound e → stops (.tmst d cb off) .rights 3 (BitVec.ofInt 64 rel)) ∧
          (0 ≤ rel → rel < capBound e → s.holdMark s.cur at_ = none → SMap.get 0 k.holdErr (at_ / 32) = 0 →
            exec (.tmst d cb off) s = .next (tookTurn (s.modCore s.cur (fun k => { k with
              hold := k.hold.mergeGran (at_ / 32) (t.wr d) (BitVec.allOnes 32) (some (t.wrp d != 0)) })) w t 0 .next)) ∧
          (0 ≤ rel → rel < capBound e → ∀ g, s.holdMark s.cur at_ = some g →
            exec (.tmst d cb off) s = .next (tookTurn (s.askCopy k.part g) w t 0 .refuse)))))

/-- What a turn makes of the sweep (R334, R335, R349): the turn passes to the next slot and the flags gather; the thread goes to the next
instruction or to the branch's target, and past the end of the program to its next item, the one NTHR further on with C0 counted up, or
to its end; a refused turn is counted; a stop leaves the status, the reason, the thread and the index of the instruction. Choices of the model: log entry 70. -/
def Obligations.TrimmerTurns : Prop :=
  ∀ (w : Sweep) (th : Thread) (fl : BitVec 8) (st : Status) (r : Nat) (off : Word) (n : Nat), let i := w.turn
    let took (ctl : TmCtl) : Sweep := w.took ⟨th, fl, ctl⟩
    let mine (x : Sweep) : Thread := x.threads[i.toNat]'(i.isLt)
    (∀ ctl, (took ctl).turn = i + 1 ∧ (took ctl).flags = w.flags ||| fl ∧ (took ctl).prog = w.prog ∧
      (∀ j : BitVec 4, j ≠ i → (took ctl).threads[j.toNat]'(j.isLt) = w.threads[j.toNat]'(j.isLt))) ∧
    (th.ip + 1 < w.prog.length → mine (took .next) = { th with ip := th.ip + 1 } ∧ (took .next).items = w.items) ∧
    (n < w.prog.length → mine (took (.goto n)) = { th with ip := n }) ∧
    (mine (took .refuse) = th ∧ (took .refuse).refused = w.refused + 1) ∧
    ((took (.stop st r off)).stop = some ⟨st, r, i.toNat, th.ip, off⟩ ∧ (mine (took (.stop st r off))).live = false) ∧
    (∀ ctl, (ctl = .endItem ∨ (ctl = .next ∧ w.prog.length ≤ th.ip + 1)) → (took ctl).items = w.items + 1 ∧
      (th.item + w.nthr < w.count → (mine (took ctl)).ip = 0 ∧ (mine (took ctl)).item = th.item + w.nthr ∧
        (mine (took ctl)).cr 0 = BitVec.ofNat 32 (w.cpre[0].toNat + th.item + w.nthr) ∧ (mine (took ctl)).w = th.w) ∧
      (w.count ≤ th.item + w.nthr → (mine (took ctl)).live = false))


-- Torus links ---------------------------------------------------------------------------------------------------------

namespace Sys2Proof
open Sys2Proof.Machine

/-- A port that is up and whose injectors are off (R326, R327). -/
def portReady (s : State) (p : Port) : Prop :=
  (s.port p).up = true ∧ (s.injector (injPort (portIx p).val true)).cfg.getLsbD 0 = false ∧
    (s.injector (injPort (portIx p).val false)).cfg.getLsbD 0 = false

/-- A good flit of a type left a port (R380): its CRC is right and no reserved field is set. -/
def sentFlit (t : State) (p : Port) (f : BitVec 512) (ty : Nat) : Prop := OutMsg.flit p f ∈ t.out ∧ f.toNat / 2 ^ 14 % 16 = ty ∧ flitBad f = false

end Sys2Proof

open Sys2Proof Sys2Proof.Machine

/-- A flit arrives (R380, R381, R383): one with a bad CRC, a reserved type or a reserved field is discarded and counted, one out of order is
discarded, and either leaves a NAK outstanding; one in order is accepted, and returns its credits; an ACK drops the flits it names. Choices of the model: log entries 23 and 88. -/
def Sys2Proof.Claim.FlitReceived : Prop :=
  ∀ (s : State) (p : Port) (f : BitVec 512), portReady s p →
    let k := s.port p
    let ty := f.toNat / 2 ^ 14 % 16
    let seq := BitVec.ofNat 12 (f.toNat / 2 ^ 20)
    let got (holds : State → TorusPort → Prop) : Prop := event (.flitReceive p f) s (fun t => holds t (t.port p))
    (flitBad f = true → got (fun _ r => r.rxSeq = k.rxSeq ∧ r.rx = k.rx ∧ r.naked = true ∧ r.bad = (if k.bad = BitVec.allOnes 64 then k.bad else k.bad + 1))) ∧
    (flitBad f = false → ty ∈ [1, 2, 3] →
      (seq = k.rxSeq → k.sinceAck < 63 → got (fun t r => r.rxSeq = k.rxSeq + 1 ∧ r.rx = k.rx ++ [f] ∧ r.naked = false ∧ r.sinceAck = k.sinceAck + 1 ∧
        t.out = s.out ∧ let c := BitVec.ofNat 2 (f.toNat / 2 ^ 12)
        r.credits[c.toNat]'(c.isLt) = min 256 (k.credits[c.toNat]'(c.isLt) + f.toNat / 2 ^ 4 % 2 ^ 8))) ∧
      (seq = k.rxSeq → k.sinceAck = 63 → got (fun t r => r.rxSeq = k.rxSeq + 1 ∧ r.sinceAck = 0 ∧ ∃ g, sentFlit t p g 4)) ∧
      (seq ≠ k.rxSeq → got (fun _ r => r.rxSeq = k.rxSeq ∧ r.rx = k.rx ∧ r.naked = true) ∧
        (k.naked = false → got (fun t _ => ∃ g, sentFlit t p g 5 ∧ g.toNat / 2 ^ 64 % 2 ^ 12 = k.rxSeq.toNat)))) ∧
    (flitBad f = false → ty = 4 → ∀ pre post, k.unacked = pre ++ post → pre ≠ [] →
      let n := BitVec.ofNat 12 (f.toNat / 2 ^ 64) + 1
      (∀ g ∈ pre, flitSeq g ≠ n) → (∀ g rest, post = g :: rest → flitSeq g = n) → (post = [] → n = k.txSeq) →
      got (fun _ r => r.unacked = post ∧ r.failed = 0))

/-- The timers of a port (R381, R396): an ACK 256 ticks after the first flit accepted since the last one; a replay of every unacknowledged
flit after 4,096 ticks without progress, the third that fails in a row taking the port down; and a beacon with TNOW every 65,536 ticks,
unsequenced. Retraining brings a port up again once the firmware runs (R414), and a received beacon is handed to the firmware with TNOW. Choices of
the model: log entry 155. -/
def Sys2Proof.Claim.PortTimers : Prop :=
  ∀ (s : State) (p : Port) (a b : Word),
    let k := s.port p
    (portReady s p →
      (0 < k.sinceAck → 256 ≤ (s.tnow - k.lastAck).toNat → event (.ackTimer p) s (fun t => (t.port p).sinceAck = 0 ∧ (t.port p).lastAck = s.tnow ∧
        ∃ f, sentFlit t p f 4 ∧ f.toNat / 2 ^ 64 % 2 ^ 12 = (k.rxSeq - 1).toNat)) ∧
      (k.unacked ≠ [] → 4096 ≤ (s.tnow - k.progress).toNat →
        (k.replaying = false ∨ k.failed < 2 → k.failed < 3 → event (.replayTimeout p) s (fun t => t.out = s.out ++ k.unacked.map (OutMsg.flit p) ∧
          (t.port p).unacked = k.unacked ∧ (t.port p).progress = s.tnow ∧ (t.port p).failed = (if k.replaying then k.failed + 1 else k.failed))) ∧
        (k.replaying = true → 2 ≤ k.failed → event (.replayTimeout p) s (fun t => (t.port p).up = false ∧ (t.port p).unacked = [] ∧
          FwRecord.portDown p ∈ t.fw))) ∧
      (65536 ≤ (s.tnow - k.beaconTx).toNat → event (.beaconSend p) s (fun t => (t.port p).beaconTx = s.tnow ∧ (t.port p).txSeq = k.txSeq ∧
        (t.port p).unacked = k.unacked ∧ ∃ f, sentFlit t p f 6 ∧ f.toNat / 2 ^ 64 % 2 ^ 64 = s.tnow.toNat ∧ f.toNat / 2 ^ 128 % 2 ^ 64 = k.beaconAt.toNat)) ∧
      event (.beaconReceive p a b) s (fun t => (t.port p).beaconPeer = a ∧ (t.port p).beaconAt = s.tnow ∧ t.fw = s.fw ++ [.beacon p a b s.tnow] ∧
        t.tnow = s.tnow)) ∧
    (k.up = false → (s.boot = .none → exec (.portRetrain p) s = .next (s.modPort p (fun t => { t with up := true }))) ∧
      ∀ f, exec (.flitReceive p f) s = .next s)

/-- A priority flow control frame pauses or resumes one Ethernet port (R389). -/
def Sys2Proof.Claim.PauseFrame : Prop :=
  ∀ (s : State) (port : BitVec 2) (pause : Bool), event (.pfcPauseFrame port pause) s (fun t =>
    (∀ i : BitVec 2, t.paused.getLsbD i.toNat = if i = port then pause else s.paused.getLsbD i.toNat) ∧ t.ports = s.ports ∧ t.cores = s.cores)

-- Operations between packages -----------------------------------------------------------------------------------------

/-- An operation of another package arrives (R222, R384, R385): an FFAA new to the duplicate table adds to its word and is answered with the
old value; the same number again is answered as before and does nothing more. The links are in service (R414). Choices of the model: log entry 91. -/
def Sys2Proof.Claim.OperationArrives : Prop :=
  ∀ (s : State) (op : FabOp) (ia : Nat) (x : Word), op.kind = .ffaa ia x →
    let g := ia / 32 * 32
    let answer (old : Word) (bad : Bool) (st : Status) : OutMsg := .response ⟨op.srcChip, op.srcCore, op.seq, st, old, bad⟩
    s.boot = .none →
    (∀ loc, s.dupOf op.srcChip op.srcCore = none → (s.part op.part).state ≠ .none → s.dups.length < 4096 → op.postCut = none → ia % 8 = 0 → loc % 32 = 0 → s.hbm.wf = true →
      s.translate g false op.part none = .ok loc → s.translate g true op.part none = .ok loc → (s.part op.part).flags.getLsbD 0 = false →
      s.hbm.poisoned (loc / 32) = false →
      let a := loc + ia % 32
      let old := s.hbm.readNat a 8
      event (.fabricOperationArrival op) s (fun t => t.hbm.readNat a 8 = (old + x.toNat) % 2 ^ 64 ∧
        (∀ b, b < a ∨ a + 8 ≤ b → t.hbm.read b = s.hbm.read b) ∧ answer (BitVec.ofNat 64 old) false .ok ∈ t.out ∧
        ∃ d, t.dupOf op.srcChip op.srcCore = some d ∧ (op.seq, .done .ok (BitVec.ofNat 64 old) false) ∈ d.seen)) ∧
    (∀ d st old bad, s.dupOf op.srcChip op.srcCore = some d → seqAfter op.seq d.h = false → (d.h - op.seq).toNat < 64 →
      d.seen.find? (fun e => e.1 == op.seq) = some (op.seq, .done st old bad) →
      event (.fabricOperationArrival op) s (fun t => answer old bad st ∈ t.out ∧ t.hbm = s.hbm ∧ t.cores = s.cores ∧ t.peerMem = s.peerMem))

/-- What comes back, or does not (R220, R222, R384): a response ends its command with its status, an FFAA's after its old value has been
written to the scratchpad; a hold notice restarts the measure; after 65,536 ticks without either the copy is sent again, and after
2^18 the command ends with LINK; and a package that holds an operation says so every 16,384 ticks. That a re-sent copy is counted at the port
it leaves by is the model's choice (log entry 93), as is what log entry 91 says. -/
def Sys2Proof.Claim.OperationAnswered : Prop :=
  ∀ (s : State) (r : Response) (n : Notice) (e : Sent) (q : Cmd), (s.core e.op.srcCore).cmd e.cmd = some q →
    let ends (t : State) (st : Status) : Prop := ∃ u, (t.core e.op.srcCore).cmd e.cmd = some u ∧ u.finished = true ∧ st ∈ u.met
    (s.sent.find? (fun x => x.chip == r.dstChip && x.op.srcCore == r.srcCore && x.op.seq == r.seq && !x.waiting) = some e →
      ((∀ c ch, e.op.kind ≠ .chunk c ch) → event (.e2eResponseArrival r) s (fun t => ends t r.status)) ∧
      (∀ ia x, e.op.kind = .ffaa ia x → r.status = .ok → r.oldBad = false → q.xd1.toNat % 8 = 0 → (s.core r.srcCore).sp.wf = true →
        let a := q.xd1.toNat % 2 ^ spaceBits (tagOf q.xd1)
        event (.e2eResponseArrival r) s (fun t => (t.core r.srcCore).sp.readNat a 8 = r.old.toNat ∧
          ∀ b, b < a ∨ a + 8 ≤ b → (t.core r.srcCore).sp.read b = (s.core r.srcCore).sp.read b))) ∧
    (s.sentOf n = some e →
      event (.holdNotice true n) s (fun t => ∃ x ∈ t.sent, x.op = e.op ∧ x.heardAt = s.tnow ∧ x.sentAt = e.sentAt) ∧
      (65536 ≤ (s.tnow - e.sentAt).toNat → 65536 ≤ (s.tnow - e.heardAt).toNat → ∀ p, s.route e.chip = some p →
        event (.e2eResendTimeout n) s (fun t => t.out = s.out ++ [OutMsg.fabric e.chip e.op] ∧
          (t.port p).resends = (if (s.port p).resends = BitVec.allOnes 64 then (s.port p).resends else (s.port p).resends + 1))) ∧
      (2 ^ 18 ≤ (s.tnow - e.heardAt).toNat → event (.e2eLinkTimeout n) s (fun t => ends t .link))) ∧
    (∀ h, s.heldOps.find? (fun h => h.op.srcChip == n.chip && h.op.srcCore == n.core && h.op.seq == n.seq) = some h →
      (16384 ≤ (s.tnow - h.notice).toNat → event (.holdNotice false n) s (fun t => t.out = s.out ++ [OutMsg.notice n.chip n] ∧ ∃ x ∈ t.heldOps, x.op = h.op ∧ x.notice = s.tnow)) ∧
      ((s.tnow - h.notice).toNat < 16384 → exec (.holdNotice false n) s = .next s))

/-- Level 3 barriers (R388) and the duplicate table (R385): the root keeps each package's latest count, and where the counts reach COUNT, or
a phase change comes from the root, the phase of every member rises by one, and the root tells every other package of the group, once the links are in service (R414); an entry whose operations are done and 2^19 ticks
old makes room for another source. That a change reaches all members in one step is the model's choice (log entry 4), as is what log entry 19
says. -/
def Sys2Proof.Claim.PackageCounts : Prop :=
  ∀ (s : State) (key : Word) (chip : BitVec 21) (count : BitVec 32) (core : CoreId),
    let changed (t : State) : Prop := ∀ c, ((s.core c).run ≠ .idle → (s.core c).csr.dom[2] = key → (t.core c).csr.dph[2] = (s.core c).csr.dph[2] + 1) ∧
      ((s.core c).csr.dom[2] ≠ key → (t.core c).csr.dph = (s.core c).csr.dph) ∧ (t.core c).regs = (s.core c).regs
    let t1 : State := { s with l3 := s.l3.filter (fun e => !(e.1 == key && e.2.1 == chip)) ++ [(key, chip, count)] }
    (s.boot ≠ .none → exec (.l3ArrivalCount key chip count) s = .next s ∧ exec (.l3PhaseChange key) s = .next s) ∧
    (s.boot = .none → s.isRoot key = true → chip ≠ s.chip → t1.l3Total key < key.toNat / 2 ^ 32 → exec (.l3ArrivalCount key chip count) s = .next t1) ∧
    (s.boot = .none → s.isRoot key = true → chip ≠ s.chip → key.toNat / 2 ^ 32 ≤ t1.l3Total key →
      event (.l3ArrivalCount key chip count) s (fun t => changed t ∧ (∀ c ∈ s.groupOf key, c ≠ s.chip → OutMsg.phase c key ∈ t.out) ∧ t.l3Total key = 0)) ∧
    (s.boot = .none → event (.l3PhaseChange key) s (fun t => changed t ∧ barCount t.bars key .l3 = 0)) ∧
    (∀ d, s.dupOf chip core = some d → (∀ e ∈ d.seen, e.2 ≠ .held) → 2 ^ 19 ≤ (s.tnow - d.last).toNat → (∀ h ∈ s.heldOps, h.why ≠ .table) →
      exec (.duplicateEntryReplacement chip core) s = .next { s with dups := s.dups.filter (fun e => e != d) })

-- Time, power, reset --------------------------------------------------------------------------------------------------

/-- Time (R284, R395, R415): a discipline step makes this cycle count twice or not at all, at most once in 1,024 cycles; TNOW is loaded once,
to no smaller value, after the frequency lock and before any LAUNCH, and only then disciplined; the clock locks to a reference or holds over when it is lost; and a PTP event message is
timestamped with TNOW. Choices of the model: log entry 95. -/
def Sys2Proof.Claim.ClockEvents : Prop :=
  ∀ (s : State) (two egress : Bool) (v : Word) (src : BitVec 8) (port : BitVec 2) (seqId : BitVec 16),
    let recent : Prop := ∃ c, s.clock.lastStep = some c ∧ s.clock.cycle < c + 1024
    (recent → exec (.disciplineStep two) s = .next s) ∧
    (¬ recent → s.boot = .none → s.clock.loaded = true → event (.disciplineStep two) s (fun t => t.nextTnow = s.tnow + (if two then 2 else 0) ∧ t.tnow = s.tnow ∧ t.clock.lastStep = some s.clock.cycle)) ∧
    (s.boot = .none → s.clock.flock = true → s.clock.loaded = false → s.clock.launched = false → s.tnow.toNat ≤ v.toNat → event (.tnowLoad v) s (fun t => t.tnow = v ∧ t.clock.loaded = true)) ∧
    (s.clock.flock = false ∨ s.clock.loaded = true ∨ s.clock.launched = true ∨ v.toNat < s.tnow.toNat → exec (.tnowLoad v) s = .next s) ∧
    (s.boot = .none → src.toNat ≤ 9 → event (.frequencyLock src) s (fun t => t.clock.flock = true ∧ t.clock.hold = false ∧ t.clock.src = src ∧ t.tnow = s.tnow)) ∧
    event .referenceLoss s (fun t => t.clock.flock = false ∧ t.clock.hold = true ∧ t.clock.src = s.clock.src ∧ t.tnow = s.tnow) ∧
    (s.boot ≠ .none ∨ s.clock.loaded = false → exec (.disciplineStep two) s = .next s) ∧
    (s.boot = .none → event (.ptpEventMessage port egress seqId) s (fun t => t.out = s.out ++ [.timestamp port egress seqId s.tnow] ∧ t.tnow = s.tnow))

/-- Power and heat (R416, R417): a steal level set at a window boundary, before any core's turn, takes n of the 64 cycles of a window; at 100
degrees the level rises by 8 a window and no setting lowers it, with THROTTLE it is at least 48, at 110 it is 63 in every basin and the firmware is told, at 120 or on a coolant alarm power is off, no state is kept, and from there
nothing but a reset does anything. Choices of the model: log entries 111 and 112. -/
def Sys2Proof.Claim.PowerEvents : Prop :=
  ∀ (s : State) (basin : BitVec 2) (n : BitVec 6),
    let opens : Prop := s.turn = .core 0 ∧ (s.tnow.toNat % 64 = 0 ∨ s.tnow.toNat / 64 ≠ s.power.window)
    (opens → s.power.hot = false → event (.stealWindow basin n) s (fun t => t.power.steal[basin.toNat]'(basin.isLt) = n ∧
      ∀ b : BitVec 2, b ≠ basin → t.power.steal[b.toNat]'(b.isLt) = s.power.steal[b.toNat]'(b.isLt))) ∧
    (opens → s.power.hot = true → event (.stealWindow basin n) s (fun t => ∀ b, s.power.level b ≤ t.power.level b)) ∧
    (¬ opens → exec (.stealWindow basin n) s = .next s) ∧
    ((List.range 64).filter (fun i => stolenAt n.toNat (BitVec.ofNat 64 i))).length = n.toNat ∧
    event (.thermalResponse .hot100) s (fun t => t.power.hot = true ∧ (t.power.raise).heat.toNat = (if s.power.heat.toNat < 55 then s.power.heat.toNat + 8 else 63)) ∧
    event (.thermalResponse (.throttle true)) s (fun t => ∀ b < 4, 48 ≤ t.power.level b) ∧
    event (.thermalResponse (.throttle false)) s (fun t => t.power.throttle = false) ∧
    event (.thermalResponse .hot110) s (fun t => (∀ b, t.power.level b = 63) ∧ t.fw = s.fw ++ [.hot110]) ∧
    (∀ x ∈ [Thermal.hot120, .coolant], event (.thermalResponse x) s (fun t => t.power.on = false ∧ t.alive = false ∧ (∀ c, t.core c = Core.reset) ∧
      t.hbm = PMem.empty ∧ t.pages = [] ∧ t.handles = [] ∧ t.sent = [] ∧ t.rings = State.reset.rings ∧ t.farDown = [] ∧ t.out = s.sentOut)) ∧
    event (.thermalResponse .cool98) s (fun t => t.power.hot = false ∧ t.power.heat = 0 ∧ (s.power.throttle = false → ∀ b : BitVec 2, t.power.level b.toNat = (s.power.steal[b.toNat]'(b.isLt)).toNat)) ∧
    (s.alive = false → s.orders = [] → ∀ i rest, s.agenda = i :: rest → isReset i = false → step s = .next { s with agenda := rest })

/-- Reset (R402, R414): the sequence stops at the first step that fails, of the hardware or because an image is refused. Once it has cleared the
memories every core, memory, table and partition is as after power-on; TNOW is zero; what lies outside the part stays. A boot that stops leaves
every link down, and one that comes to the per-boot key makes a new tree and takes a leaf of the device key while there are any (R400, R401); no
ephemeral key is made again (R409). What was on its way out of the package and had not left is gone. Choices of the model: log entries 113, 114
and 153. -/
def Sys2Proof.Claim.ResetEvent : Prop :=
  ∀ (s : State) (stop : BootStop),
    let b := bootStop stop
    (stop = .pll → b = .pll) ∧ (stop ≠ .pll → imageOk 1 Config.harbourImage = false → b = .rom) ∧
    (b = .none ↔ stop = .none ∧ imageOk 1 Config.harbourImage = true ∧ imageOk 3 Config.boardManifest = true ∧ imageOk 2 Config.managementImage = true) ∧
    event (.reset stop) s (fun t =>
      (b = .none ∨ b = .management → (∀ c, t.core c = Core.reset) ∧ t.hbm = PMem.empty ∧ t.handles = [] ∧ t.frames = []) ∧
      (b ≠ .none → b ≠ .management → t.hbm = s.hbm ∧ t.frames = s.frames ∧ ∀ c, (t.core c).run = .idle ∧ (t.core c).sp = (s.core c).sp) ∧
      t.pages = [] ∧ t.faults = [] ∧
      (∀ p, t.part p = Part.empty) ∧ t.tnow = 0 ∧ t.bars = [] ∧ t.power = Power.reset ∧ t.clock = Clock.reset ∧ t.boot = b ∧ t.turn = .core 0 ∧
      t.hostMem = s.hostMem ∧ t.peerMem = s.peerMem ∧ t.chip = s.chip ∧ t.out = s.sentOut ∧ t.gone = s.sentOut.length ∧
      t.harbour.trees = (if bootKeyed b = true then s.harbour.trees + 1 else s.harbour.trees) ∧ t.harbour.keys = s.harbour.keys ∧
      t.harbour.leaf = (if bootKeyed b = true ∧ s.harbour.leaf.toNat < 2 ^ 20 then s.harbour.leaf + 1 else s.harbour.leaf) ∧
      (∀ p, (t.port p).up = decide (b = .none)))


-- The host ------------------------------------------------------------------------------------------------------------

namespace Sys2Proof
open Sys2Proof.Machine

/-- A host message of a code that is processed now (R392, R282): the part is up, no earlier command of the function waits and no write of its queue
pair 1, nor the read of an image for an earlier LOAD_PLANE, is under way, the function is bound to a partition, and the header's reserved bytes are zero. -/
def hostSays (s : State) (m : HostMsg) (code : Nat) (p : BitVec 5) : Prop :=
  s.boot = .none ∧ 64 ≤ m.bytes.length ∧ m.bytes.length ≤ 4096 ∧ fieldAt m.bytes 0 2 = code ∧ zeros m.bytes 2 2 = true ∧ s.vfPart m.vf = some p ∧
    (∀ w ∈ s.hostWait, w.1.vf ≠ m.vf) ∧ ∀ h ∈ s.hostOps, h.vf = m.vf → h.qp = 1 → h.write = false ∧ h.load = none

/-- The completion record of a host command (R392): tag, code, status, reason, results. -/
def record32 (m : HostMsg) (status reason : Nat) (res : List Byte) : OutMsg :=
  .completion m.vf (BitVec.ofNat 64 (fieldAt m.bytes 8 8)) (BitVec.ofNat 32 (fieldAt m.bytes 16 4))
    ((m.bytes.drop 4).take 4 ++ (m.bytes.take 2 ++ ([BitVec.ofNat 8 status, BitVec.ofNat 8 reason] ++ (res ++ List.replicate (24 - res.length) 0))))

/-- A command ends with its completion record and nothing else. -/
def ends32 (i : Instr) (s : State) (m : HostMsg) (status reason : Nat) : Prop :=
  exec i s = .next { s with out := s.out ++ [record32 m status reason []] }

/-- A rectangle of the partition's cores in bytes 20 to 23 (R393). -/
def rectFits (s : State) (m : HostMsg) (p : BitVec 5) : Prop :=
  fieldAt m.bytes 20 1 ≤ fieldAt m.bytes 22 1 ∧ fieldAt m.bytes 22 1 ≤ 63 ∧ fieldAt m.bytes 21 1 ≤ fieldAt m.bytes 23 1 ∧ fieldAt m.bytes 23 1 ≤ 31 ∧
    ∀ c ∈ rectCores m, s.ownsCore p c = true

/-- Whether a core lies in the rectangle of a message (R393). -/
def inRect (m : HostMsg) (c : CoreId) : Bool :=
  decide (fieldAt m.bytes 20 1 ≤ c.toNat % 64 ∧ c.toNat % 64 ≤ fieldAt m.bytes 22 1 ∧ fieldAt m.bytes 21 1 ≤ c.toNat / 64 ∧ c.toNat / 64 ≤ fieldAt m.bytes 23 1)

end Sys2Proof

open Sys2Proof Sys2Proof.Machine

/-- RDMA (R390, R391, R282): a WRITE or READ whose rkey and handle allow it begins, numbered in arrival order; a granule of it is then written or read through the handle, and
when it is over it is acknowledged with its data; any other is answered with a NAK, and an atomic request with an invalid-request NAK. Choices of the model: log entries 99 and 150. -/
def Sys2Proof.Claim.HostAccesses : Prop :=
  ∀ (s : State) (vf : BitVec 8) (qp : BitVec 6) (key : BitVec 32) (off n : Nat) (data : List Byte) (p : BitVec 5) (h : BitVec 12), s.boot = .none →
    let begun (qp : BitVec 6) (write : Bool) (data : List Byte) (len : Nat) : State :=
      { s with hostOps := s.hostOps ++ [⟨s.nextHost, vf, qp, p, h, hGen (s.handle p h), off, write, data, len, 0, none, none⟩], nextHost := s.nextHost + 1 }
    let nak : State := { s with out := s.out ++ [.rdmaAck vf false []] }
    (s.rkeyHandle vf key = some (p, h) →
      exec (.rdmaWrite ⟨vf, qp⟩ key off data) s = .next (if s.handleOkFor p h off data.length .hostWrite then begun qp true data data.length else nak) ∧
      exec (.rdmaRead vf key off n) s = .next (if s.handleOkFor p h off n .hostRead then begun 0 false [] n else nak)) ∧
    (s.rkeyHandle vf key = none → exec (.rdmaWrite ⟨vf, qp⟩ key off data) s = .next nak ∧ exec (.rdmaRead vf key off n) s = .next nak) ∧
    exec (.rdmaAtomicRequest vf) s = .next { s with out := s.out ++ [.rdmaInvalid vf] } ∧
    (∀ (o : HostOp) (loc : Nat), s.hostOps = [o] → o.pos = 0 → o.why = none → 0 < o.len → hGen (s.handle o.part o.handle) = o.gen →
      hSpace (s.handle o.part o.handle) = 1 →
      let a := hBase (s.handle o.part o.handle) + o.off
      a % 32 + o.len ≤ 32 → s.translate (a / 32 * 32) o.write o.part none = .ok loc → loc % 32 = 0 → s.hbm.wf = true →
        (s.part o.part).flags.getLsbD 0 = false → s.hbm.poisoned (loc / 32) = false →
      (o.write = true → o.data.length = o.len → s.hostTick.hostOps = [{ o with pos := o.len }] ∧ ∀ b, s.hostTick.hbm.read b =
        (if loc + a % 32 ≤ b ∧ b < loc + a % 32 + o.len then o.data.getD (b - (loc + a % 32)) 0 else s.hbm.read b)) ∧
      (o.write = false → o.data = [] → s.hostTick.hostOps = [{ o with pos := o.len, data := s.hbm.cells.readRun (loc + a % 32) o.len }] ∧ s.hostTick.hbm = s.hbm)) ∧
    (∀ o : HostOp, s.hostOps = [o] → o.len ≤ o.pos → o.load = none →
      s.hostTick = { s with hostOps := [], out := s.out ++ [.rdmaAck o.vf true o.data] })

/-- What every host command comes to before its effect (R282, R392, R405): it waits behind an earlier write of its queue pair and behind the
image read of an earlier LOAD_PLANE; a non-zero reserved byte or a reserved code gives status 3, a function
bound to no partition status 2, and a state that does not accept it status 1 with reason 9; nothing else happens. Choices of the model: log entries 97 and 99. -/
def Sys2Proof.Claim.HostCommandChecks : Prop :=
  ∀ (s : State) (m : HostMsg) (code : Nat) (i : Instr), s.boot = .none → 64 ≤ m.bytes.length → m.bytes.length ≤ 4096 →
    (∀ w ∈ s.hostWait, w.1.vf ≠ m.vf) →
    let behind : Prop := ∃ h ∈ s.hostOps, h.vf = m.vf ∧ h.qp = 1 ∧ (h.write = true ∨ h.load.isSome = true) ∧ h.no < s.nextHost
    (code, i) ∈ [(1, .loadPlane m), (2, .armTide m), (3, .disarmTide m), (4, .bindHandle m), (5, .setCap m), (6, .setRing m), (7, .setClass m),
      (8, .setSnapset m), (9, .cancelCut m), (10, .restore m), (11, .semAdd m), (12, .readStatus m)] →
    (behind → fieldAt m.bytes 0 2 = code → exec i s = .next { s with hostWait := s.hostWait ++ [(m, s.nextHost)], nextHost := s.nextHost + 1 }) ∧
    (¬ behind → 12 < fieldAt m.bytes 0 2 ∨ fieldAt m.bytes 0 2 = 0 → ends32 i s m 3 0) ∧
    (¬ behind → fieldAt m.bytes 0 2 = code →
      (zeros m.bytes 2 2 = false → ends32 i s m 3 0) ∧
      (s.vfPart m.vf = none → ends32 i s m 3 0 ∨ ends32 i s m 2 0) ∧
      (∀ p, s.vfPart m.vf = some p → (s.part p).state ≠ (if code = 10 then .stopped else .running) → code ≠ 1 → code ≠ 4 →
        ends32 i s m 3 0 ∨ ends32 i s m 1 9)) ∧
    (fieldAt m.bytes 0 2 ≠ code → 1 ≤ fieldAt m.bytes 0 2 → fieldAt m.bytes 0 2 ≤ 12 → exec i s = .next s)

/-- LOAD_PLANE, ARM_TIDE, DISARM_TIDE and SEM_ADD (R392, R300, R288, R23): loads of the image begin on every core of the rectangle, SHRDY
cleared and the shadow plane disarmed, or every busy core refuses with reason 5; the named plane of every core of the rectangle is armed
or disarmed; the addend is added to the semaphore. A rectangle or core outside the partition gives status 2. Choices of the model: log entries 96 and 97. -/
def Sys2Proof.Claim.HostToCores : Prop :=
  ∀ (s : State) (m : HostMsg) (p : BitVec 5), m.bytes.length = 64 →
    let only (t : State) (f : CoreId → Core → Core) : Prop := ∀ c, t.core c = if inRect m c then f c (s.core c) else s.core c
    (hostSays s m 1 p → rectFits s m p → zeros m.bytes 25 3 = true → zeros m.bytes 40 24 = true →
      (fieldAt m.bytes 24 1 = 0 →
        let img := m.fetched.take 98304 ++ List.replicate (98304 - m.fetched.length) 0
        ((∀ c ∈ rectCores m, (s.core c).swreq = false ∧ (s.core c).loading = none) → (s.part p).measure = none →
          event (.loadPlane m) s (fun t => t.out = s.out ∧
            only t (fun _ k => { k.modPlane (!k.act) (fun q => { q with armed := false }) with shrdy := false, loading := some (img, s.tnow, s.nextLoad) }) ∧
            ∃ l ∈ t.loads, l.id = s.nextLoad ∧ l.msg = m ∧ l.left = (rectCores m).length ∧ l.refused = [])) ∧
        (∀ low, low ∈ rectCores m → (∀ c ∈ rectCores m, low.toNat ≤ c.toNat) → (∀ c ∈ rectCores m, (s.core c).swreq = true ∨ (s.core c).loading ≠ none) →
          event (.loadPlane m) s (fun t => t.cores = s.cores ∧
            t.out = s.out ++ [record32 m 1 5 (bytesOf 0 4 ++ (bytesOf (rectCores m).length 4 ++ bytesOf low.toNat 2))]))) ∧
      (fieldAt m.bytes 24 1 = 1 → zeros m.bytes 28 4 = true → ∀ x, x = BitVec.ofNat 64 (fieldAt m.bytes 32 8) → x.toNat / 2 ^ 60 = 2 →
        (s.handleOkFor p (ptrHandle x) (offsetOf x) 98304 .src = true → hSpace (s.handle p (ptrHandle x)) = 1 →
          exec (.loadPlane m) s = .next { s with
            hostOps := s.hostOps ++ [⟨s.nextHost, m.vf, 1, p, ptrHandle x, hGen (s.handle p (ptrHandle x)), offsetOf x, false, [], 98304, 0, none, some m⟩],
            nextHost := s.nextHost + 1 }) ∧
        (hSpace (s.handle p (ptrHandle x)) ≠ 1 → ends32 (.loadPlane m) s m 2 0))) ∧
    (rectFits s m p → fieldAt m.bytes 24 1 ≤ 1 → zeros m.bytes 25 39 = true → (s.part p).state = .running →
      let which (k : Core) : Bool := if fieldAt m.bytes 24 1 = 1 then !k.act else k.act
      (hostSays s m 2 p → event (.armTide m) s (fun t => t.out = s.out ++ [record32 m 0 0 []] ∧ only t (fun _ k => k.modPlane (which k) Plane.arm))) ∧
      (hostSays s m 3 p → event (.disarmTide m) s (fun t => t.out = s.out ++ [record32 m 0 0 []] ∧
        only t (fun _ k => k.modPlane (which k) (fun q => { q with armed := false }))))) ∧
    (∀ code i, (code, i) ∈ [(1, .loadPlane m), (2, .armTide m), (3, .disarmTide m)] → hostSays s m code p → (s.part p).state = .running →
      (∃ c ∈ rectCores m, s.ownsCore p c = false) → ends32 i s m 3 0 ∨ ends32 i s m 2 0) ∧
    (hostSays s m 11 p → (s.part p).state = .running → fieldAt m.bytes 20 2 < 2048 → fieldAt m.bytes 22 1 < 64 → zeros m.bytes 23 1 = true → zeros m.bytes 28 36 = true →
      let c : CoreId := BitVec.ofNat 11 (fieldAt m.bytes 20 2)
      let a : Int := (fieldAt m.bytes 24 4 : Int).bmod (2 ^ 32)
      (s.ownsCore p c = true → exec (.semAdd m) s = .next { s.modCore c (fun k => k.modSem (BitVec.ofNat 6 (fieldAt m.bytes 22 1)) (fun v => addedTo v a)) with
        out := s.out ++ [record32 m 0 0 []] }) ∧
      (s.ownsCore p c = false → ends32 (.semAdd m) s m 2 0))

/-- BIND_HANDLE and SET_CAP (R307, R310, R332, R392): the entry is written with its GEN one higher and its GEN, and for a handle a new rkey,
are in the results; the copies of the handle in range registers go. An entry of another owner gives status 2; after LAUNCH a change of
SPACE, RIGHTS, OWNER or BOUND is refused with reason 7; a space-6 range over the snapshot set or buffer with reason 8. Choices of the model: log entries 24 and 98. -/
def Sys2Proof.Claim.HostTables : Prop :=
  ∀ (s : State) (m : HostMsg) (p : BitVec 5), m.bytes.length = 64 →
    (hostSays s m 4 p → fieldAt m.bytes 20 2 < 4096 → zeros m.bytes 22 2 = true → zeros m.bytes 56 8 = true → SMap.wf 0 s.handles = true →
      let e : BitVec 256 := BitVec.ofNat 256 (fieldAt m.bytes 24 32)
      let h : BitVec 12 := BitVec.ofNat 12 (fieldAt m.bytes 20 2)
      let old := s.handle p h
      let key := Config.rkey s.nextKey
      handleFormOk e = true →
      (hOwner e ≠ p → ends32 (.bindHandle m) s m 2 0) ∧
      (hOwner e = p → s.handleInside p e = true →
        (∀ d, (s.part p).measure = some d → fixedBits e ≠ fixedBits old → ends32 (.bindHandle m) s m 1 7) ∧
        ((s.part p).measure = none ∨ fixedBits e = fixedBits old → (s.part p).overSet e = true → ends32 (.bindHandle m) s m 1 8) ∧
        ((s.part p).measure = none ∨ fixedBits e = fixedBits old → (s.part p).overSet e = false →
          event (.bindHandle m) s (fun t =>
            hGen (t.handle p h) = hGen old + 1 ∧ (∀ i, (i < 32 ∨ 48 ≤ i) → (t.handle p h).getLsbD i = e.getLsbD i) ∧
            (∀ q g, (q, g) ≠ (p, h) → t.handle q g = s.handle q g) ∧ t.rkeyHandle m.vf key = some (p, h) ∧
            t.out = s.out ++ [record32 m 0 0 (bytesOf key.toNat 4 ++ bytesOf (hGen old + 1).toNat 2)] ∧
            ∀ c, ((t.core c).part = p → ∀ r ∈ (t.core c).ranges, r.1 ≠ h) ∧ (t.core c).regs = (s.core c).regs)))) ∧
    (hostSays s m 5 p → (s.part p).state = .running → fieldAt m.bytes 20 2 < 2048 → ∀ i : BitVec 6, fieldAt m.bytes 22 1 = i.toNat → zeros m.bytes 23 1 = true → zeros m.bytes 40 24 = true →
      let e : BitVec 128 := BitVec.ofNat 128 (fieldAt m.bytes 24 16)
      let c : CoreId := BitVec.ofNat 11 (fieldAt m.bytes 20 2)
      capFormOk e = true →
      (s.ownsCore p c = false ∨ e.toNat / 2 ^ 16 % 2 ^ 5 ≠ p.toNat → ends32 (.setCap m) s m 2 0) ∧
      (s.ownsCore p c = true → e.toNat / 2 ^ 16 % 2 ^ 5 = p.toNat → event (.setCap m) s (fun t =>
        let new := (t.core c).caps[i.toNat]'i.isLt
        let gen := (((s.core c).caps[i.toNat]'i.isLt).toNat / 2 ^ 112 + 1) % 2 ^ 16
        new.toNat = gen * 2 ^ 112 + e.toNat % 2 ^ 112 ∧ (∀ j : BitVec 6, j ≠ i → (t.core c).caps[j.toNat]'j.isLt = (s.core c).caps[j.toNat]'j.isLt) ∧
        t.out = s.out ++ [record32 m 0 0 (bytesOf gen 2)] ∧ ∀ d, d ≠ c → t.core d = s.core d)))

/-- SET_RING, SET_CLASS, SET_SNAPSET and CANCEL_CUT (R360, R363, R386, R387, R392): the ring table, the weights and the snapshot set are as the
message says, and the pending SNAPs complete with RECORD; a ring table while a COLL of the partition runs, and a set while a cut is
pending or draining, are refused with reason 1, a refused range with 2, a storage function of another partition with 3. Choices of the model: log entries 97 and 98. -/
def Sys2Proof.Claim.HostSettings : Prop :=
  ∀ (s : State) (m : HostMsg) (p : BitVec 5), (s.part p).state = .running →
    let n := fieldAt m.bytes 20 1
    let body := m.bytes.drop 64
    (hostSays s m 6 p → n ≤ 3 → zeros m.bytes 22 42 = true → body.length = 4 * (fieldAt m.bytes 21 1 + 1) → (n = 3 → s.basinRing (ringEntries body) = true) →
      SMap.wf [] s.ringTables = true →
      (s.collRuns p = true → ends32 (.setRing m) s m 1 1) ∧
      (s.collRuns p = false → event (.setRing m) s (fun t => t.out = s.out ++ [record32 m 0 0 []] ∧ t.cores = s.cores ∧
        (∀ q r, r < 4 → SMap.get [] t.ringTables (q * 4 + r) = if q = p.toNat ∧ r = n then ringEntries body else SMap.get [] s.ringTables (q * 4 + r)) ∧
        ∀ i, i ≤ fieldAt m.bytes 21 1 → (ringEntries body)[i]? = some (BitVec.ofNat 32 (fieldAt body (4 * i) 4))))) ∧
    (hostSays s m 7 p → m.bytes.length = 64 → zeros m.bytes 24 40 = true → (∀ i, i < 4 → fieldAt m.bytes (20 + i) 1 ≠ 0) →
      ((s.part p).flags.getLsbD 1 = false → ends32 (.setClass m) s m 2 0) ∧
      ((s.part p).flags.getLsbD 1 = true → event (.setClass m) s (fun t => t.out = s.out ++ [record32 m 0 0 []] ∧ t.cores = s.cores ∧
        ∀ i : Fin 4, (t.wgt[i]).toNat = fieldAt m.bytes (20 + i.val) 1))) ∧
    (hostSays s m 8 p → n ≤ 64 → fieldAt m.bytes 21 1 ≤ 191 → zeros m.bytes 22 2 = true → zeros m.bytes 28 4 = true → zeros m.bytes 56 8 = true →
      body.length = 24 * n → (∀ i, i < n → rangeFormOk body i = true) →
      let rs := (List.range n).map (rangeAt body)
      let free : Prop := (s.part p).cut = none ∧ s.waitingSnaps p = []
      let ia := fieldAt m.bytes 40 8
      let len := fieldAt m.bytes 48 8
      let target : BitVec 8 := BitVec.ofNat 8 (fieldAt m.bytes 21 1)
      (¬ free → ends32 (.setSnapset m) s m 1 1) ∧
      (free → s.setRefused p rs ia len = true → ends32 (.setSnapset m) s m 1 2) ∧
      (free → s.setRefused p rs ia len = false → s.vfPart target ≠ some p → ends32 (.setSnapset m) s m 1 3) ∧
      (free → s.setRefused p rs ia len = false → s.vfPart target = some p → event (.setSnapset m) s (fun t => t.out = s.out ++ [record32 m 0 0 []] ∧
        t.cores = s.cores ∧ t.pages = s.pages ∧ (∀ q, q ≠ p → t.part q = s.part q) ∧ (t.part p).snapset =
          some ⟨rs, ia, len, target, BitVec.ofNat 32 (fieldAt m.bytes 24 4), BitVec.ofNat 64 (fieldAt m.bytes 32 8)⟩))) ∧
    (hostSays s m 9 p → m.bytes.length = 64 → zeros m.bytes 20 44 = true → event (.cancelCut m) s (fun t => t.out = s.out ++ [record32 m 0 0 []] ∧
      (∀ q, q ≠ p → t.part q = s.part q) ∧ t.part p = { s.part p with confirmed := none } ∧ ∀ w ∈ s.waitingSnaps p, ∃ u, (t.core w.1).cmd w.2.id = some u ∧ u.finished = true ∧ .record ∈ u.met))

/-- RESTORE (R374, R392): of a STOPPED partition. A manifest that is none, or whose signatures do not verify, is refused with reason 1, another
measurement or no sealing secret with 2, a counter below the tenant's with 3, a segment that does not open with 4, another layout with 5;
a good image of one hold range is written, the counter kept and N of its cut remembered; while a cut of the partition still marks granules the
command waits for their copies (R367). READ_STATUS (R394): the block cut at the maximum, with its length in the results; that the length in the
block's heading counts the whole uncut block is the model's choice (log entry 101). Choices of the model: log entries 21 and 100. -/
def Sys2Proof.Claim.HostRestoreStatus : Prop :=
  ∀ (s : State) (m : HostMsg) (p : BitVec 5), m.bytes.length = 64 → zeros m.bytes 28 4 = true → zeros m.bytes 40 24 = true →
    let f := m.fetched
    (hostSays s m 10 p → fieldAt m.bytes 20 1 ≤ 191 → zeros m.bytes 21 3 = true → (s.part p).state = .stopped →
      s.vfPart (BitVec.ofNat 8 (fieldAt m.bytes 20 1)) = some p →
      let good : Prop := fieldAt f 0 4 = 0x4B445844 ∧ fieldAt f 4 2 = 1 ∧ manifestSigned f = true
      let fits : Prop := sameLayout f (s.part p).ranges = true ∧ s.setMapped p (s.part p).ranges = true
      let ten := s.tenantOf p
      let c := fieldAt f 24 8
      (¬ good → ends32 (.restore m) s m 1 1) ∧ (good → ¬ fits → ends32 (.restore m) s m 1 5) ∧
      (good → fits → ten.secret = none ∨ (s.part p).measure = none → ends32 (.restore m) s m 1 2) ∧
      (∀ sec d, good → fits → ten.secret = some sec → (s.part p).measure = some d →
        ((f.drop 32).take 48 ≠ bytesOf d.toNat 48 → ends32 (.restore m) s m 1 2) ∧
        ((f.drop 32).take 48 = bytesOf d.toNat 48 → c < max ten.committed.toNat ten.insession.toNat → ends32 (.restore m) s m 1 3) ∧
        (∀ r, (f.drop 32).take 48 = bytesOf d.toNat 48 → max ten.committed.toNat ten.insession.toNat ≤ c → (s.part p).ranges = [r] → r.hold = true → 0 < r.len →
          r.len ≤ 0x100000 → ∀ opened, opened = Config.gcmOpen (Config.hkdf sec (bytesOf d.toNat 48) (bytesBE c 8 ++ bytesBE (fieldAt f 8 8) 8) 32) (segmentIv 0)
            (f.take 64 ++ (manifestEntry f 0).take 32) ((f.drop (fieldAt (manifestEntry f 0) 16 8)).take r.len) ((manifestEntry f 0).drop 32) →
          ((s.part p).marksLeft ≠ [] → event (.restore m) s (fun t => t.out = s.out ∧ t.hostWait = (m, 0) :: s.hostWait ∧ t.cores = s.cores ∧ t.hbm = s.hbm)) ∧
          ((s.part p).marksLeft = [] → opened = none → event (.restore m) s (fun t => t.out = s.out ++ [record32 m 1 4 []] ∧ (t.part p).restoring = true ∧ t.cores = s.cores ∧ t.hbm = s.hbm)) ∧
          (∀ data, (s.part p).marksLeft = [] → opened = some data → data.length = r.len → (s.core r.core).hold.wf = true → event (.restore m) s (fun t => t.out = s.out ++ [record32 m 0 0 []] ∧
            (t.part p).restoring = false ∧ (t.part p).lastCut = some (BitVec.ofNat 32 (fieldAt f 16 4)) ∧ (t.tenantOf p).insession.toNat = max ten.insession.toNat c ∧
            ∀ b, (t.core r.core).hold.read b = if r.base ≤ b ∧ b < r.base + r.len then data.getD (b - r.base) 0 else (s.core r.core).hold.read b))))) ∧
    (hostSays s m 12 p → fieldAt m.bytes 24 4 ≤ 65536 → (s.part p).state = .running →
      let blk := s.statusBlock p
      let b := blk.take (fieldAt m.bytes 24 4)
      exec (.readStatus m) s = .next { s with out := s.out ++ [.status (BitVec.ofNat 64 (fieldAt m.bytes 32 8)) (BitVec.ofNat 32 (fieldAt m.bytes 20 4)) b,
        record32 m 0 0 (bytesOf b.length 8)] } ∧
      (let n := (s.coresOf p).length
       fieldAt blk 0 8 = blk.length ∧ blk.length = 64 + 32 * n + 32 + 192 + 8 ∧ fieldAt blk 8 2 = n ∧ fieldAt blk 10 2 = 6 ∧
       (∀ i c, (s.coresOf p)[i]? = some c → fieldAt blk (64 + 32 * i) 8 = (s.core c).missed.toNat ∧ fieldAt blk (72 + 32 * i) 8 = (s.core c).laneConf.toNat ∧
         ((s.core c).run ≠ .idle → fieldAt blk (80 + 32 * i) 8 = (s.core c).csr.slip.toNat) ∧ fieldAt blk (88 + 32 * i) 8 = (s.core c).faultRecs.toNat) ∧
       fieldAt blk (64 + 32 * n) 8 = (s.part p).migrSlip.toNat ∧ fieldAt blk (72 + 32 * n) 8 = (s.part p).cpylBytes.toNat ∧
       fieldAt blk (80 + 32 * n) 8 = (s.part p).collBytes.toNat ∧ fieldAt blk (88 + 32 * n) 8 = (s.part p).dryBytes.toNat ∧
       (∀ i : Fin 6, fieldAt blk (96 + 32 * n + 32 * i.val) 8 = (s.ports[i]).replays.toNat ∧ fieldAt blk (104 + 32 * n + 32 * i.val) 8 = (s.ports[i]).bad.toNat ∧
         fieldAt blk (112 + 32 * n + 32 * i.val) 8 = (s.ports[i]).downs.toNat ∧ fieldAt blk (120 + 32 * n + 32 * i.val) 8 = (s.ports[i]).resends.toNat)))


-- The harbourmaster ---------------------------------------------------------------------------------------------------

namespace Sys2Proof
open Sys2Proof.Machine

/-- A request with well-formed header bytes reaches the harbourmaster (R402, R412), which waits for nothing. -/
def asks (s : State) (m : ReqMsg) (code len : Nat) : Prop :=
  s.boot = .none ∧ s.harbour.busy = none ∧ m.bytes.length = len ∧ fieldAt m.bytes 0 2 = code ∧ zeros m.bytes 2 2 = true ∧ zeros m.bytes 8 56 = true

/-- An operator request with `n` field bytes that is authentic (R403). -/
def operatorAsks (s : State) (m : ReqMsg) (code n : Nat) : Prop :=
  asks s m code (120 + n + 96) ∧ Config.ecdsaOk s.harbour.operator (m.bytes.take (120 + n)) (m.bytes.drop (120 + n)) = true ∧
    (m.bytes.drop 64).take 48 = packageIdentity ∧ s.harbour.seq.toNat < fieldAt m.bytes 112 8

/-- The reply to a request (R412): tag, code, status, reason, zeros, body, and the alias key's signature over them. -/
def replies (m : ReqMsg) (status reason : Nat) (body : List Byte) : OutMsg :=
  let r := (m.bytes.drop 4).take 4 ++ (m.bytes.take 2 ++ ([BitVec.ofNat 8 status, BitVec.ofNat 8 reason] ++ (List.replicate 56 0 ++ body)))
  .reply m.vf (r ++ (aliasSign r ++ List.replicate (96 - (aliasSign r).length) 0))

/-- A request is turned away with its reply and nothing else. -/
def turnsAway (i : Instr) (s : State) (m : ReqMsg) (status reason : Nat) : Prop :=
  exec i s = .next { s with out := s.out ++ [replies m status reason []] }

/-- An operator request that may have sent more is done: its reply is the last thing sent. -/
def doneLast (t : State) (m : ReqMsg) : Prop :=
  t.out.getLast? = some (replies m 0 0 []) ∧ t.harbour.seq = BitVec.ofNat 64 (fieldAt m.bytes 112 8)

/-- An operator request is done: its reply, and its sequence number is the last accepted (R403). -/
def doneBy (s t : State) (m : ReqMsg) (body : List Byte) : Prop :=
  t.out = s.out ++ [replies m 0 0 body] ∧ t.harbour.seq = BitVec.ofNat 64 (fieldAt m.bytes 112 8)

end Sys2Proof

open Sys2Proof Sys2Proof.Machine

/-- What every request comes to before its effect (R402, R403, R412): a reserved code or a non-zero reserved byte is malformed; an operator
request whose signature, identity or sequence number is wrong is refused with status 2; nothing changes. Behind a CREATE or DESTROY that waits for
engine work a request is kept. Choices of the model: log entries 102, 103 and 146. -/
def Sys2Proof.Claim.RequestChecks : Prop :=
  ∀ (s : State) (m : ReqMsg) (code : Nat) (i : Instr), s.boot = .none → 64 ≤ m.bytes.length →
    (code, i) ∈ [(0x101, .create m), (0x102, .launch m), (0x103, .stop m), (0x104, .resume m), (0x105, .destroy m), (0x106, .inject m),
      (0x110, .attest m), (0x111, .release m), (0x112, .commit m), (0x113, .caps m)] →
    (s.harbour.busy ≠ none → fieldAt m.bytes 0 2 = code → exec i s = .next { s with harbour := { s.harbour with queue := s.harbour.queue ++ [m] } }) ∧
    (s.harbour.busy = none →
    (fieldAt m.bytes 0 2 ∉ [0x101, 0x102, 0x103, 0x104, 0x105, 0x106, 0x110, 0x111, 0x112, 0x113] → turnsAway i s m 3 0) ∧
    (fieldAt m.bytes 0 2 = code → zeros m.bytes 2 2 = false ∨ zeros m.bytes 8 56 = false → turnsAway i s m 3 0) ∧
    (code ≤ 0x106 → fieldAt m.bytes 0 2 = code → (∀ n, s.operatorOk m n = false) → turnsAway i s m 3 0 ∨ turnsAway i s m 2 0))

/-- CREATE (R404): where every field passes, the partition is OPEN with them, its cores and frames are cleared and its own, each core has
its context frames, the functions are bound and every injector of its cores, the stacks and the ports is off. Otherwise it is refused
and nothing changes. While engine work of a previous owner remains on a core it has cleared, it waits. Choices of the model: log entries 104, 105 and
146. -/
def Sys2Proof.Claim.PartitionMade : Prop :=
  ∀ (s : State) (m : ReqMsg) (p : BitVec 5) (nf ng : Nat), operatorAsks s m 0x101 (284 + 4 * nf) → fieldAt m.bytes 120 1 = p.toNat → fieldAt m.bytes 396 4 = nf →
    fieldAt m.bytes 121 1 < 4 → zeros m.bytes 122 2 = true → fieldAt m.bytes 264 1 = ng → ng ≤ 64 → zeros m.bytes 265 3 = true →
    zeros m.bytes (268 + 2 * ng) (128 - 2 * ng) = true → zeros m.bytes 400 4 = true →
    let q : BitVec 32 := BitVec.ofNat 32 (fieldAt m.bytes 124 4)
    let mine (c : CoreId) : Bool := q.getLsbD (coreQuay c)
    let vfs := (List.range 192).filter (fun f => (BitVec.ofNat 192 (fieldAt m.bytes 128 24)).getLsbD f)
    let fs := (List.range nf).map (fun i => fieldAt m.bytes (404 + 4 * i) 4)
    let passes : Prop := (s.part p).state = .none ∧ q ≠ 0 ∧ q &&& ~~~ s.quays = 0 ∧ (∀ r, (s.part r).state ≠ .none → (s.part r).quays &&& q = 0) ∧
      (∀ f ∈ vfs, SMap.get 0 s.vfs f = 0) ∧ (∀ f ∈ fs, f < 6291456 ∧ SMap.get 0 s.frames f = 0) ∧ fs.Nodup ∧
      704 * ((List.range 32).filter (fun i => q.getLsbD i)).length ≤ nf
    (¬ passes → turnsAway (.create m) s m 1 0) ∧
    (passes → (∃ c, mine c = true ∧ ((s.core c).queue ≠ [] ∨ (s.core c).sweep ≠ none)) → event (.create m) s (fun t =>
      t.out = s.out ∧ t.harbour.busy = some m ∧ t.part p = s.part p ∧ ∀ c, mine c = true → (t.core c).sp = .empty ∧ (t.core c).queue = (s.core c).queue)) ∧
    (passes → (∀ c, mine c = true → (s.core c).queue = [] ∧ (s.core c).sweep = none) → SMap.wf 0 s.vfs = true → SMap.wf 0 s.frames = true → s.hbm.wf = true → event (.create m) s (fun t =>
      doneBy s t m [] ∧
      (t.part p).state = .open_ ∧ (t.part p).quays = q ∧ (t.part p).flags.toNat = fieldAt m.bytes 121 1 ∧ (t.part p).tenant.toNat = fieldAt m.bytes 152 8 ∧
      (t.part p).faultmax.toNat = fieldAt m.bytes 160 8 ∧ (t.part p).kskey = (m.bytes.drop 168).take 96 ∧ (t.part p).measure = none ∧ (t.part p).snapset = none ∧
      (t.part p).groups = (List.range ng).map (fun i => BitVec.ofNat 16 (fieldAt m.bytes (268 + 2 * i) 2)) ∧ (∀ r, r ≠ p → t.part r = s.part r) ∧
      (∀ f ∈ vfs, t.vfPart (BitVec.ofNat 8 f) = some p) ∧ (∀ f ∈ fs, t.frameOwner f = some p) ∧ (∀ h, t.handle p h = 0) ∧
      (∀ f ∈ fs, ∀ b < 65536, t.hbm.read (65536 * f + b) = 0) ∧ (∀ b, (∀ f ∈ fs, b / 65536 ≠ f) → t.hbm.read b = s.hbm.read b) ∧
      (∀ c, mine c = false → t.core c = s.core c) ∧
      (∀ c, mine c = true → (t.core c).part = p ∧ (t.core c).inj = 0 ∧ (t.core c).sp = .empty ∧ (t.core c).hold = .empty ∧
        (t.core c).planes = Vector.replicate 2 .empty ∧ (t.core c).sems = Vector.replicate 64 .reset ∧ (t.core c).berths = Vector.replicate 32 .reset ∧
        (t.core c).spawnq = [] ∧ (t.core c).caps = Vector.replicate 64 0 ∧ (t.core c).mx.acc = [] ∧ (t.core c).mx.w0 = [] ∧ (t.core c).mx.w1 = [] ∧
        (t.core c).mx.gate = .isOpen ∧ (t.core c).mx.mcfg = 0 ∧ (t.core c).regs = (s.core c).regs) ∧
      (∀ i c, (maskCores q)[i]? = some c → (t.core c).context = ((sortFrames fs).drop (11 * i)).take 11) ∧
      (∀ e ∈ t.inj, 64 ≤ e.1 ∧ e ∈ s.inj)))

/-- LAUNCH, STOP and RESUME (R405, R406, R415): LAUNCH of an OPEN partition stores the catalogue in ascending order and the measurement, which
is the reply, and the partition is RUNNING, or STOPPED with HOLD; it is refused with reason 8 while the clock is not locked and with 9 in
another state. STOP leaves every core of the partition whose writes wait for no copy idle, with no suspended task, no spawn queue and no tide table armed; RESUME makes
a STOPPED partition RUNNING. Choices of the model: log entries 103, 106 and 145. -/
def Sys2Proof.Claim.PartitionStates : Prop :=
  ∀ (s : State) (m : ReqMsg) (p : BitVec 5) (n : Nat), fieldAt m.bytes 120 1 = p.toNat →
    (operatorAsks s m 0x102 (8 + 48 * n) → fieldAt m.bytes 124 4 = n → 1 ≤ n → n ≤ 64 → fieldAt m.bytes 121 1 ≤ 1 → zeros m.bytes 122 2 = true →
      (s.clock.flock = false → turnsAway (.launch m) s m 1 8) ∧
      (s.clock.flock = true → (s.part p).state ≠ .open_ → turnsAway (.launch m) s m 1 9) ∧
      (s.clock.flock = true → (s.part p).state = .open_ → ∃ (t : State) (ds : List (BitVec 384)) (d : BitVec 384), exec (.launch m) s = .next t ∧
        doneBy s t m (bytesOf d.toNat 48) ∧ (t.part p).measure = some d ∧ (t.part p).catalogue = ds ∧ t.clock.launched = true ∧ t.cores = s.cores ∧
        (t.part p).state = (if fieldAt m.bytes 121 1 = 1 then .stopped else .running) ∧
        d = Config.sha384 ([0x4E, 0x4D, 0x53, 0x52] ++ (bytesOf n 4 ++ (ds.flatMap (fun x => bytesOf x.toNat 48) ++
          (bytesOf (Config.sha384 (s.measuredHandles p)).toNat 48 ++ bytesOf ((List.range 32).filter (fun i => (s.part p).quays.getLsbD i)).length 4)))) ∧
        ds.length = n ∧ ds.Pairwise (fun a b => digestLe a b = true) ∧ ∀ x, x ∈ ds ↔ ∃ i < n, x = BitVec.ofNat 384 (fieldAt m.bytes (128 + 48 * i) 48))) ∧
    (zeros m.bytes 121 7 = true →
      (operatorAsks s m 0x103 8 →
        ((s.part p).state ≠ .running → turnsAway (.stop m) s m 1 9) ∧
        ((s.part p).state = .running → (∀ c ∈ s.coresOf p, s.landHeld c = false) → event (.stop m) s (fun t => doneLast t m ∧ (t.part p).state = .stopped ∧
          ∀ c ∈ s.coresOf p, (t.core c).run = .idle ∧ (t.core c).suspended = none ∧ (t.core c).spawnq = [] ∧ ∀ b, ((t.core c).plane b).armed = false))) ∧
      (operatorAsks s m 0x104 8 →
        ((s.part p).state ≠ .stopped → turnsAway (.resume m) s m 1 9) ∧
        ((s.part p).state = .stopped → (s.part p).restoring = true → turnsAway (.resume m) s m 1 0) ∧
        ((s.part p).state = .stopped → (s.part p).restoring = false →
          event (.resume m) s (fun t => doneBy s t m [] ∧ (t.part p).state = .running ∧ t.cores = s.cores ∧ ∀ r, r ≠ p → t.part r = s.part r)))) ∧
    (∀ h : BitVec 12, ((s.measuredHandles p).drop (32 * h.toNat)).take 32 =
      bytesOf (s.handle p h).toNat 8 ++ (List.replicate 8 0 ++ (bytesOf ((s.handle p h).toNat / 2 ^ 128) 12 ++ List.replicate 4 0)))

/-- DESTROY (R407): every core of the partition is idle with its scratchpad, hold, planes and queues clear, its frames are clear and free, its
functions unbound, its pages and handles gone, and the collective data for its cores with them (R411); no partition is left there. While a sweep runs on, or a command past its point of no return, it
waits with all cleared (R404). Choices of the model: log entries 107, 145 and 146. -/
def Sys2Proof.Claim.PartitionDestroyed : Prop :=
  ∀ (s : State) (m : ReqMsg) (p : BitVec 5), operatorAsks s m 0x105 8 → fieldAt m.bytes 120 1 = p.toNat → zeros m.bytes 121 7 = true →
    ((s.part p).state = .none → turnsAway (.destroy m) s m 1 9) ∧
    ((s.part p).state ≠ .none → (∃ c ∈ s.coresOf p, (s.core c).sweep ≠ none) → event (.destroy m) s (fun t =>
      t.harbour.busy = some m ∧ (t.part p).state = .stopped ∧ ∀ c ∈ s.coresOf p, (t.core c).sp = .empty ∧ (t.core c).hold = .empty)) ∧
    ((s.part p).state ≠ .none → (∀ c ∈ s.coresOf p, (s.core c).sweep = none ∧ ∀ q ∈ (s.core c).queue, q.noReturn = false ∧ s.inFlight c q = false ∧
        (isTrim q.ins = true → q.started = false)) → s.hbm.wf = true → SMap.wf 0 s.frames = true → SMap.wf 0 s.vfs = true →
      event (.destroy m) s (fun t => doneLast t m ∧ (t.part p).state = .none ∧ (t.part p).quays = 0 ∧
        (∀ h, t.handle p h = 0) ∧ (∀ f ∈ (s.part p).frames, t.frameOwner f = none ∧ ∀ b < 65536, t.hbm.read (65536 * f + b) = 0) ∧
        (∀ v ∈ (s.part p).vfs, SMap.get 0 t.vfs v = 0) ∧ (∀ e ∈ t.pages, pteOwner e.2 ≠ p) ∧
        (∀ f ∈ t.faults, f.part ≠ p) ∧ (∀ e ∈ t.chunks, e.1 ∉ s.coresOf p) ∧
        ∀ c ∈ s.coresOf p, (t.core c).run = .idle ∧ (t.core c).sp = .empty ∧ (t.core c).hold = .empty ∧ (t.core c).planes = Vector.replicate 2 .empty ∧
          (t.core c).spawnq = [] ∧ (t.core c).mx.acc = [] ∧ (t.core c).sems = Vector.replicate 64 .reset))

/-- INJECT (R326, R327): of a partition with TEST that owns the target, and for a link only where every partition has TEST: the injector of a
stack, of a port's direction or of a core takes RATE, KIND, EN and its seed, where 0 is read as 1, works for the partition, and keeps COUNT. Choices of the model: log entry 109. -/
def Sys2Proof.Claim.InjectorsSet : Prop :=
  ∀ (s : State) (m : ReqMsg) (p : BitVec 5), operatorAsks s m 0x106 24 → fieldAt m.bytes 120 1 = p.toNat → injectFormOk m = true →
    SMap.wf ⟨0, 0, 0⟩ s.inj = true →
    let kind := fieldAt m.bytes 121 1
    let dir := fieldAt m.bytes 122 1
    let ix := fieldAt m.bytes 124 2
    let port := fieldAt m.bytes 126 1
    let seed : Word := BitVec.ofNat 64 (if fieldAt m.bytes 136 8 = 0 then 1 else fieldAt m.bytes 136 8)
    let cfg (old : Word) (targets : Nat) : Word := BitVec.ofNat 64 (fieldAt m.bytes 128 4 * 2 ^ 32 + old.toNat / 2 ^ 16 % 2 ^ 16 * 2 ^ 16 +
      fieldAt m.bytes 123 1 % 4 * 2 ^ 6 + targets * 2 + fieldAt m.bytes 123 1 / 4 % 2)
    let tests : Prop := ∀ r, (s.part r).state = .none ∨ (s.part r).flags.getLsbD 0 = true
    let set (t : State) (key : Nat) : Prop := t.injector key = ⟨cfg (s.injector key).cfg 0, seed, p⟩
    let kept (t : State) (key : Nat) : Prop := t.injector key = s.injector key
    ((s.part p).state = .none ∨ (s.part p).flags.getLsbD 0 = false → turnsAway (.inject m) s m 1 0) ∧
    ((s.part p).state ≠ .none → (s.part p).flags.getLsbD 0 = true →
      (kind = 0 → s.ownsCore p (BitVec.ofNat 11 ix) = false → turnsAway (.inject m) s m 1 0) ∧
      (2 ≤ kind → ¬ tests → turnsAway (.inject m) s m 1 0) ∧
      (kind = 0 → fieldAt m.bytes 127 1 < 16 → s.ownsCore p (BitVec.ofNat 11 ix) = true → event (.inject m) s (fun t => doneBy s t m [] ∧ t.inj = s.inj ∧
        ∀ c, t.core c = if c = BitVec.ofNat 11 ix then { s.core c with inj := cfg (s.core c).inj (fieldAt m.bytes 127 1), gen := seed } else s.core c)) ∧
      (kind = 1 → event (.inject m) s (fun t => doneBy s t m [] ∧ t.cores = s.cores ∧ ∀ key, if key = 16 + ix then set t key else kept t key)) ∧
      (kind = 2 → tests → event (.inject m) s (fun t => doneBy s t m [] ∧ t.cores = s.cores ∧
        ∀ key, if (key = 32 + 2 * ix ∧ dir ≠ 1) ∨ (key = 33 + 2 * ix ∧ dir ≠ 0) then set t key else kept t key)) ∧
      (kind = 3 → tests → s.ownsCore p (BitVec.ofNat 11 ix) = true → event (.inject m) s (fun t => doneBy s t m [] ∧ t.cores = s.cores ∧
        ∀ key, if (key = 64 + 2 * (4 * ix + port) ∧ dir ≠ 1) ∨ (key = 65 + 2 * (4 * ix + port) ∧ dir ≠ 0) then set t key else kept t key)))

/-- ATTEST, RELEASE, COMMIT and CAPS (R408 to R410, R419): the report with its fields, its signature and a new ephemeral key; the secret of a
signed release for a report of the partition whose key is unused and which is at most 2^32 ticks old, the in-session counter raised and
the key destroyed; the committed counter raised to C, never lowered; and the capability window. Choices of the model: log entries 25, 26, 108 and 110. -/
def Sys2Proof.Claim.ServiceRequests : Prop :=
  ∀ (s : State) (m : ReqMsg) (p : BitVec 5),
    let key := (s.part p).kskey
    (asks s m 0x110 120 → fieldAt m.bytes 64 1 = p.toNat → zeros m.bytes 65 7 = true →
      ((s.part p).state = .none → turnsAway (.attest m) s m 1 0) ∧
      ((s.part p).state ≠ .none →
        ∃ t body rest, exec (.attest m) s = .next t ∧ t.out = s.out ++ [replies m 0 0 (body ++ (aliasSign body ++
            List.replicate (96 - (aliasSign body).length) 0 ++ rest))] ∧ t.cores = s.cores ∧ t.parts = s.parts ∧
          t.harbour.reports = s.harbour.reports ++ [⟨(m.bytes.drop 72).take 48, p, s.harbour.keys, s.tnow⟩] ∧ t.harbour.keys = s.harbour.keys + 1 ∧
          fieldAt body 0 4 = 0x41545354 ∧ fieldAt body 4 4 = 1 ∧ (body.drop 8).take 48 = (m.bytes.drop 72).take 48 ∧
          fieldAt body 56 48 = ((s.part p).measure.getD 0).toNat ∧ (body.drop 104).take 48 = packageIdentity ∧
          (body.drop 152).take 96 = imageDigests.1 ++ imageDigests.2 ∧
          fieldAt body 304 8 = (s.part p).tenant.toNat ∧ fieldAt body 312 8 = (s.tenantOf p).insession.toNat ∧ fieldAt body 320 1 = p.toNat ∧
          fieldAt body 321 1 = (match (s.part p).state with | .running => 2 | .stopped => 1 | _ => 0) ∧ fieldAt body 322 1 = (s.part p).flags.toNat)) ∧
    (asks s m 0x111 384 → fieldAt m.bytes 64 1 = p.toNat → zeros m.bytes 65 7 = true →
      let nonce := (m.bytes.drop 72).take 48
      let signed : Prop := (s.part p).state ≠ .none ∧ Config.ecdsaOk key (m.bytes.take 288) ((m.bytes.drop 288).take 96) = true
      (¬ signed → turnsAway (.release m) s m 2 0) ∧
      (signed → (∀ r ∈ s.harbour.reports, ¬ (r.nonce = nonce ∧ r.part = p)) → turnsAway (.release m) s m 1 0) ∧
      (∀ r, signed → s.harbour.reports.find? (fun r => r.nonce == nonce && r.part == p) = some r →
        (2 ^ 32 < (s.tnow - r.made).toNat → turnsAway (.release m) s m 1 0) ∧
        ((s.tnow - r.made).toNat ≤ 2 ^ 32 → ∀ data, Config.gcmOpen (Config.hkdf (Config.ecdhShared r.key ((m.bytes.drop 120).take 96)) nonce [0x53, 0x45, 0x41, 0x4C] 32)
            Config.releaseIv.1 Config.releaseIv.2 ((m.bytes.drop 216).take 56) ((m.bytes.drop 272).take 16) = some data → 48 ≤ data.length →
          event (.release m) s (fun t => t.out = s.out ++ [replies m 0 0 []] ∧ (t.tenantOf p).secret = some (data.take 48) ∧
            (t.tenantOf p).insession.toNat = max (s.tenantOf p).insession.toNat (fieldAt data 48 8) ∧ (t.tenantOf p).committed = (s.tenantOf p).committed ∧
            (∀ x ∈ t.harbour.reports, x.key ≠ r.key) ∧ t.cores = s.cores)))) ∧
    (asks s m 0x112 176 → ∀ id : Word, fieldAt m.bytes 64 8 = id.toNat →
      let signed : Prop := ∃ q, (s.part q).state ≠ .none ∧ (s.part q).tenant = id ∧ Config.ecdsaOk (s.part q).kskey (m.bytes.take 80) ((m.bytes.drop 80).take 96) = true
      (¬ signed → turnsAway (.commit m) s m 2 0) ∧
      (∀ t0, signed → s.harbour.tenants.find? (fun t => t.id == id) = some t0 → event (.commit m) s (fun t => t.out = s.out ++ [replies m 0 0 []] ∧ t.cores = s.cores ∧
        ∃ t1, t.harbour.tenants.find? (fun t => t.id == id) = some t1 ∧ t1.secret = t0.secret ∧ t1.insession = t0.insession ∧
          t1.committed.toNat = max t0.committed.toNat (fieldAt m.bytes 72 8)))) ∧
    (asks s m 0x113 64 → exec (.caps m) s = .next { s with out := s.out ++ [replies m 0 0 (s.window ++ List.replicate (4096 - s.window.length) 0)] })


-- Fetching and decoding -----------------------------------------------------------------------------------------------

/-- A step runs what is decoded (R7, R62, R82 to R87, R335): with nothing due before it, a running core whose program counter stands at a
header with the whole bundle inside the code region runs the slots of that bundle, one to six, one after another, and the turn passes on; a
bundle of one slot is exec of its instruction. Off a header, past the code, at an illegal bundle or with two slots that name one destination it
takes cause 0x02, in the first cycle the bundle could issue for the last (R81), and a slot that is no instruction comes to cause 0x01. A trimmer thread whose turn it is runs its program's word. An
event that is due comes first; an expiry of LATEMAX takes the cycle of the bundle it traps (R133). Choices of the model: log entries 28, 29, 139
and 154, a bundle past the code before its other faults. -/
def Obligations.StepRunsDecodedBundle : Prop :=
  ∀ (s : State) (c : CoreId), s.orders = [] → s.agenda = [] → s.alive = true →
    let u := s.settle c
    let k := u.core c
    let off := k.pc.toNat
    let done (t : State) (turn : Turn) : State := { t.flushNotes c with turn := turn }
    let then' (o : Host.Outcome State Fault Refusal) (turn : Turn) : Host.Outcome State Fault Refusal :=
      match o with | .next t => .next (done t turn) | o => o
    let seen : Prop := ∃ f, k.first = some f ∧ f.pc = k.pc
    (∀ i, s.turn = .core c → (s.core c).entering = none → s.coreEvent c = some i → (∀ d, i ≠ .latemaxExpiry d) → step s = exec i s) ∧
    (∀ d, s.turn = .core c → (s.core c).entering = none → s.coreEvent c = some (.latemaxExpiry d) →
      step s = (match exec (.latemaxExpiry d) s with | .next t => .next (done (t.settle c) (.trim c)) | o => o)) ∧
    (s.turn = .core c → (s.core c).entering = none → (s.core c).landing = none → s.coreEvent c = none → s.stolen c = false →
      (s.core c).preemptor = none → k.entering = none → k.run = .running → u.cowLanding c = none →
      k.rowWait = none → k.freeze = none → k.bubble = false → k.flipsHere = false →
      let traps (faddr : Word) : Prop := step s = .next (done (u.fetchTrap c k.pc faddr) (.trim c))
      (k.active.marked off = false → traps (k.via.getD k.pc)) ∧
      (k.active.marked off = true →
        (k.active.codelen < off + 4 * bundleWords (k.active.word off) → traps k.pc) ∧
        (off + 4 * bundleWords (k.active.word off) ≤ k.active.codelen →
          (decodeBytes (k.active.bytes.readRun off 32) = none → traps 0) ∧
          ∀ b rest, decodeBytes (k.active.bytes.readRun off 32) = some (b, rest) →
            (b.conflict (k.countByte b) = true → ¬ seen → traps 0) ∧
            (b.conflict (k.countByte b) = false ∨ seen →
              (b.slots = [] → step s = then' (exec (.headerOnlyBundle b.dp) u) (.trim c)) ∧
              (b.slots ≠ [] → step s = then' (b.slots.foldl (fun o p => match o with
                | .next t => (match p.2 with | some i => exec i t | none => .next (t.badSlot p.1))
                | o => o) (.next (u.openBundle c b))) (.trim c)) ∧
              (∀ sl i, b.slots = [(sl, some i)] → step s = then' (exec i (u.openBundle c b)) (.trim c)) ∧
              (∀ sl, b.slots = [(sl, none)] → step s = .next (done ((u.openBundle c b).badSlot sl) (.trim c))) ∧
              (∀ sl sm i j, b.slots = [(sl, some i), (sm, some j)] → step s =
                (match exec i (u.openBundle c b) with | .next t => then' (exec j t) (.trim c) | o => o)))))) ∧
    (∀ w i, s.turn = .trim c → (s.core c).sweep = some w → w.checked = true → w.delay = 0 → w.stop = none → w.thread.live = true → (s.core c).cmd w.cmd = none →
      decodeTrim (w.prog.getD w.thread.ip 0) = some i → step s = then' (exec i s) (.eng c))

/-- The decoder reads the words the manual works out: R85's bundle of SC, AD and VA with the AR-less guard P2, MOVL and MOVK, TAGSET,
LOOP, LD, a vector load beside a multiply-add, MTBL and MSTRM, CPYT and FFLG, SEMWAIT and TRAP, SNAP with SEAL, and trimmer words. -/
def Obligations.DecodeWords : Prop :=
  let sc : Ctl := ⟨.sc, 0, false⟩
  let ad : Ctl := ⟨.ad, 0, false⟩
  let mx : Ctl := ⟨.mx, 0, false⟩
  let cp : Ctl := ⟨.cp, 0, false⟩
  let reads (ws : List (BitVec 32)) (dp : Bool) (sl : List (Slot × Option Instr)) : Prop :=
    decodeBytes (ws.flatMap (fun w => bytesOf w.toNat 4)) = some (⟨dp, ws.length, sl⟩, [])
  reads [0xE0000600, 0x050A6380, 0x10108040, 0x04202218] false [(.sc, some (.alu ⟨.sc, 2, false⟩ .add 5 6 7)), (.ad, some (.addi ad 8 8 64)),
    (.va, some (.vadd ⟨⟨.va, 0, false⟩, .full, .f32, 1, 2, 3, 0⟩))] ∧
  reads [0x803F0000, 0x10063448] false [(.sc, some (.addi sc 3 3 (BitVec.ofInt 18 (-3000))))] ∧
  reads [0x81000000, 0x400A03E9, 0x77D2B4F0] false [(.sc, some (.movl sc 5 0x03E977D2B4F0))] ∧
  reads [0x80050000, 0x3C0A3A1C] false [(.sc, some (.movk sc 5 0x5A1C 3))] ∧
  reads [0xC0000000, 0x6C042003, 0x38140000] false [(.sc, some (.tagset sc 2 2 3)), (.ad, some (.movi ad 10 0))] ∧
  reads [0x80000000, 0x9C00300A] false [(.sc, some (.loop sc false 3 10))] ∧
  reads [0xC0000000, 0x540820C0, 0x10042008] false [(.sc, some (.ld sc .d 4 2 0 0)), (.ad, some (.addi ad 2 2 8))] ∧
  reads [0x300002C0, 0xE0100200, 0x10188532] false [(.va, some (.vld ⟨⟨.va, 0, false⟩, .h0, 2, 0, 2, 0, 0⟩)),
    (.vb, some (.vfma ⟨⟨.vb, 0, false⟩, .h2, .f32, 4, 5, 6, 2⟩))] ∧
  reads [0x08000008, 0x08000A00] false [(.mx, some (.mtbl ⟨mx, 0, 5, 0⟩ true))] ∧
  reads [0x08000000, 0x18040861] false [(.mx, some (.mstrm ⟨mx, 16, 4, 6⟩ true))] ∧
  reads [0x04000000, 0x040C80C4] false [(.cp, some (.cpyt ⟨cp, 6, 8, 3, 1, 0⟩))] ∧
  reads [0x04000005, 0x28146040] false [(.cp, some (.fflgAdd ⟨cp, 10, 6, 1, 0, 2⟩))] ∧
  reads [0x80000000, 0x840050C3] false [(.sc, some (.semwait sc 3 5 true true))] ∧
  reads [0x80050000, 0xAC000123] false [(.sc, some (.trap sc 0x5123))] ∧
  reads [0x04000001, 0x38086083] false [(.cp, some (.snapSeal ⟨cp, 4, 6, 2, 0, 0⟩ .l3))] ∧
  reads [0x00000000] false [] ∧ reads [0x02000000] true [] ∧
  decodeTrim 0xA9881000 = some (.tmmovBc16 3 1) ∧ decodeTrim 0x08800800 = some (.tmld 1 0 0x800) ∧ decodeTrim 0x70881000 = some (.tmsgnXor 1 1 0) ∧
  decodeTrim 0x28898000 = some (.tmaddl 1 1 3) ∧ decodeTrim 0x78102000 = some (.tmrnd true false 0 2) ∧ decodeTrim 0xA0000000 = some .tmend

/-- Decoding and encoding agree (R62, R66 to R77): a well-formed slot instruction, at every value of its operands, is what the decoder reads from
its slot word, lend bits and literal, and its bundle of two words, or three with a literal, is read whole with the bytes after it left;
a header-only bundle is read as itself. -/
def Obligations.SlotRoundTrip : Prop :=
  ∀ (i : Instr) (sl : Slot) (e : SlotEnc) (rest : List Byte), i.wf = true → i.slot? = some sl → encodeSlot i = some e →
    decodeSlot sl e.lend e.word e.lit = some i ∧
    decodeBytes ((encode i).flatMap (fun w => bytesOf w.toNat 4) ++ rest) = some (⟨false, if e.lit = none then 2 else 3, [(sl, some i)]⟩, rest) ∧
    ∀ dp, decodeBytes ((encode (.headerOnlyBundle dp)).flatMap (fun w => bytesOf w.toNat 4) ++ rest) = some (⟨dp, 1, []⟩, rest)

/-- Decoding and encoding agree for the trimmer (R338, R339): a well-formed trimmer instruction, at every value of its operands, is what the
decoder reads from its word, and no other word is read as it. -/
def Obligations.TrimmerRoundTrip : Prop :=
  ∀ (i : Instr) (w : BitVec 32), i.wf = true → encodeTrim i = some w → decodeTrim w = some i ∧ ∀ v, decodeTrim v = some i → v = w

-- Guards and reset ----------------------------------------------------------------------------------------------------

/-- The guard and the arrival of a slot that is alone in its bundle (R69, R70): a LOOP whose exit is no header makes the bundle illegal whatever
its guard (R129), with cause 0x02; of every other slot a poisoned guard raises cause 0x08; under a false guard the
bundle retires with nothing done and no arrival, and it is as a bundle without the slot; with AR and no domain at the level of ARDOM
cause 0x01 names the DOM register, and with no level ARDOM itself. Choices of the model: log entry 30. -/
def Sys2Proof.Claim.GuardedSlots : Prop :=
  ∀ (s : State) (i : Instr) (c : Ctl), i.ctl? = some c → s.me.bundle = none →
    let exitless : Prop := ∃ n xa d, i = .loop c n xa d ∧ s.me.active.marked (s.me.pc + BitVec.ofInt 64 (4 * d.toInt)).toNat = false
    (exitless → exec i s = .next (s.trapped c ⟨0x02, 0, s.me.pc⟩)) ∧
    (¬ exitless →
      (s.me.poisonP c.g = true → exec i s = .next (s.trapped c ⟨0x08, 0, 0⟩)) ∧
      (s.me.poisonP c.g = false → s.me.readP c.g = false → exec i s = .next (s.retired { c with ar := false } (match i with | .movl .. => 3 | _ => 2) 1 id)) ∧
      (s.me.poisonP c.g = false → s.me.readP c.g = true → c.ar = true →
        (s.me.csr.ardom = 0 → exec i s = .next (s.trapped c ⟨0x01, 0, 0x020⟩)) ∧
        (∀ n : Fin 3, s.me.csr.ardom.toNat = n.val + 1 → (s.me.csr.dom[n]).getLsbD 31 = false →
          exec i s = .next (s.trapped c ⟨0x01, 0, 0x021 + BitVec.ofNat 64 n.val⟩))))

/-- Reset (R15, R19, R23, R25, R27, R46, R414): every core is idle with no command, no pending result and no task; every byte of its memories, of
HBM and of the planes reads zero and is clean; its registers, handler bank, semaphores and status words are zero, its berths unarmed with
both tags zero, its array's rows and weights zero, its tables those of R46 and its gate open; TNOW is zero, every frame free, every
table of handles and pages empty, and no partition exists. Choices of the model: log entry 3. -/
def Sys2Proof.Claim.ResetValues : Prop :=
  let s := State.reset
  s.tnow = 0 ∧ (∀ f, s.frameOwner f = none) ∧ (∀ p h, s.handle p h = 0) ∧ (∀ ia, s.pageEntry ia = 0) ∧ (∀ p, (s.part p).state = .none) ∧
    (∀ a, s.hbm.read a = 0 ∧ s.hbm.poisoned a = false) ∧ s.memWf ∧
    ∀ c : CoreId, let k := s.core c
      k.run = .idle ∧ k.queue = [] ∧ k.pend = [] ∧ k.spawnq = [] ∧ k.suspended = none ∧ k.loading = none ∧ k.sweep = none ∧ k.csr.hm = false ∧
      (∀ n, k.readX n = ⟨0, false⟩) ∧ (∀ n, k.readV n = 0) ∧ k.regs.p = 0 ∧ k.bank.x = Vector.replicate 8 0 ∧ k.bank.xp = 0 ∧ k.bank.save = Vector.replicate 4 0 ∧
      (∀ a, k.sp.read a = 0 ∧ k.hold.read a = 0 ∧ k.sp.poisoned a = false ∧ k.hold.poisoned a = false) ∧ (∀ b o, (k.plane b).bytes.read o = 0 ∧ (k.plane b).armed = false) ∧
      (∀ n, k.sem n = ⟨0, false, 0, false⟩) ∧ (∀ n, (k.berth n).arm = false ∧ (k.berth n).atag = 0 ∧ (k.berth n).etag = 0) ∧
      k.mx.acc = [] ∧ k.mx.w0 = [] ∧ k.mx.w1 = [] ∧ k.mx.t0 = defaultTable ∧ k.mx.t1 = defaultTable ∧ k.mx.gate = .isOpen ∧ (∀ i : BitVec 6, k.caps[i.toNat]'i.isLt = 0)

/-- Every step keeps the canonical form of every memory, scratchpads, weight holds, configuration planes, HBM, host memory and the memories of
peers, and of every sparse map, accumulator stores, weight planes, pages, frames, handles, filters and the others: keys strictly rising, nothing listed
that reads as what is not listed. The form of the bytes of holds, planes, host memory and peers is kept by itself, and so is that every table of an
array has its 16 entries. -/
def Obligations.StepKeepsMemories : Prop :=
  ∀ (s t : State), step s = .next t → (s.keptForm → t.keptForm) ∧ (s.memWf → s.mapsWf → t.memWf ∧ t.mapsWf) ∧ (s.tablesForm → t.tablesForm)

/-- The same forms hold after reset. -/
def Sys2Proof.Claim.ResetKeepsForm : Prop := State.reset.keptForm ∧ State.reset.mapsWf ∧ State.reset.tablesForm

-- The statements that gather the parts above ---------------------------------------------------------------------------

/-- The machine after reset: the values reset leaves, and every memory in canonical form. -/
def Obligations.ResetState : Prop :=
  Claim.ResetMemWf ∧ Claim.ResetValues ∧ Claim.ResetKeepsForm

/-- The results of the immediate forms, the shifts, the bit fields and the constants (R105 to R109). -/
def Obligations.ConstantAndFieldResults : Prop :=
  Claim.ImmediateResults ∧ Claim.FieldAndConstantResults

/-- The results of the instructions on predicate and mask registers (R112, R113, R115 to R117). -/
def Obligations.PredicateAndMaskResults : Prop :=
  Claim.PredicateResults ∧ Claim.MaskResults

/-- The results of the loads of both address forms and of the hold load (R120 to R122). -/
def Obligations.LoadedValues : Prop :=
  Claim.LoadResults ∧ Claim.HldResult

/-- Where the transfers of control and LOOP go (R126, R127). -/
def Obligations.ControlTransfers : Prop :=
  Claim.TransferResults ∧ Claim.LoopResult

/-- NOP, the empty bundle, and a slot whose guard is false or poisoned or which has nowhere to arrive. Where execution goes on after a flip at a drain
point is the model's choice: log entry 120. -/
def Obligations.EmptyAndGuardedBundles : Prop :=
  Claim.NopAndEmptyBundle ∧ Claim.GuardedSlots

/-- The results of TICK, WAITT, DOMARV and DOMWAIT. -/
def Obligations.TimeAndBarrierResults : Prop :=
  Claim.TimeResults ∧ Claim.BarrierResults

/-- Taking a trap, and a fault in the handler, which abandons the task. -/
def Obligations.TrapTaking : Prop :=
  Claim.TrapEntry ∧ Claim.TrapInHandlerAbandons

/-- The results of SPAWN and EXIT. -/
def Obligations.SpawnAndExit : Prop :=
  Claim.SpawnResult ∧ Claim.ExitResults

/-- The results of the plane swap and of the phase instructions. -/
def Obligations.PlaneAndPhaseResults : Prop :=
  Claim.PlaneSwapResults ∧ Claim.PhaseResults

/-- The results of the vector moves and of VSHUF. -/
def Obligations.VectorMovesAndShuffle : Prop :=
  Claim.VectorMoveResults ∧ Claim.VshufResult

/-- The results of VCMP and VRED. -/
def Obligations.VectorCompareAndReduce : Prop :=
  Claim.VcmpResult ∧ Claim.VredResult

/-- The results of the transcendental functions: the special cases, and the values given exactly. -/
def Obligations.VectorTranscendentals : Prop :=
  Claim.TranscendentalResults ∧ Claim.TranscendentalExact

/-- The checks of every vector slot, and that a slot which passes them completes. -/
def Obligations.VectorTraps : Prop :=
  Claim.VectorChecks ∧ Claim.VectorCompletion

/-- The results of VCLMP, VACR and VACW. -/
def Obligations.ClampAndAccumulatorAccess : Prop :=
  Claim.VclmpResult ∧ Claim.AccumulatorAccess

/-- Writing a scalar, predicate or mask register, and when a result lands. -/
def Obligations.ScalarRegisterWrite : Prop :=
  Claim.RegisterWrite ∧ Claim.ResultLanding

/-- What the array instructions that act on its control, its weights and its state do. -/
def Obligations.MatrixOperation : Prop :=
  Claim.MatrixControl ∧ Claim.MatrixWake ∧ Claim.WeightLoads ∧ Claim.MatrixSaveRestore

/-- The array as it works: its events, the start of an item and the entry of a row. -/
def Obligations.ArrayProgress : Prop :=
  Claim.ArrayEvents ∧ Claim.MatrixStarts ∧ Claim.RowEntry

/-- The engine commands at issue: taken into the queue, or trapped. -/
def Obligations.CommandIssue : Prop :=
  Claim.LinearCommands ∧ Claim.RecordCommands ∧ Claim.CommandTraps

/-- The engine commands as they run: start, granules, deliveries, flits, chunks, pages, dredging and completion. -/
def Obligations.CommandEvents : Prop :=
  Claim.CommandStarts ∧ Claim.CommandCompletes ∧ Claim.CopyGranule ∧ Claim.DeliveryAccepted ∧ Claim.FlitInjected ∧
    Claim.CollectiveChunks ∧ Claim.PageExchange ∧ Claim.DredgeEvents

/-- How the waits end, in time or late, and that the system instructions complete. -/
def Obligations.WaitEvents : Prop :=
  Claim.WaitsEnd ∧ Claim.LateWaits ∧ Claim.SystemCompletion

/-- The sequencer: tides, selection, saving and restoring a task, loading a plane. -/
def Obligations.SequencerEvents : Prop :=
  Claim.TideDue ∧ Claim.Selection ∧ Claim.ContextEvents ∧ Claim.PlaneLoaded

/-- The answers to a page fault, and the fault filter. -/
def Obligations.FaultEvents : Prop :=
  Claim.FaultAnswers ∧ Claim.FilterCleared

/-- A consistent cut: made, drained, and ended. -/
def Obligations.CutEvents : Prop :=
  Claim.CutMade ∧ Claim.CutDrained ∧ Claim.CutEnds

/-- The results of the trimmer instructions. -/
def Obligations.TrimmerResults : Prop :=
  Claim.TrimmerLanes ∧ Claim.TrimmerRounding ∧ Claim.TrimmerScalars ∧ Claim.TrimmerMemory

/-- The ports of the fabric: flits received, timers, and pause frames. -/
def Obligations.LinkEvents : Prop :=
  Claim.FlitReceived ∧ Claim.PortTimers ∧ Claim.PauseFrame

/-- The fabric operations: arriving at their home, answered, and counted. -/
def Obligations.FabricEvents : Prop :=
  Claim.OperationArrives ∧ Claim.OperationAnswered ∧ Claim.PackageCounts

/-- The clocks, the power levels and reset. -/
def Obligations.ClockAndPowerEvents : Prop :=
  Claim.ClockEvents ∧ Claim.PowerEvents ∧ Claim.ResetEvent

/-- The requests of the host: its accesses and its commands. -/
def Obligations.HostRequests : Prop :=
  Claim.HostAccesses ∧ Claim.HostCommandChecks ∧ Claim.HostToCores ∧ Claim.HostTables ∧ Claim.HostSettings ∧ Claim.HostRestoreStatus

/-- The requests of the operator and of the service console. -/
def Obligations.OperatorRequests : Prop :=
  Claim.RequestChecks ∧ Claim.PartitionMade ∧ Claim.PartitionStates ∧ Claim.PartitionDestroyed ∧ Claim.InjectorsSet ∧
    Claim.ServiceRequests
end

