-- ==== Sys2Proof/Laws/Decode.lean ====
section
/-! SUPPORT. The bits of an encoded instruction are read back as they were written, one lemma for each constructor of Instr. -/
namespace Sys2Proof
set_option Elab.async false

-- Fields of concatenations --------------------------------------------------------------------------------------------

theorem fld_append_left {a b lo n : Nat} (x : BitVec a) (y : BitVec b) (h : b ≤ lo) : fld (x ++ y) lo n = fld x (lo - b) n := by
  apply BitVec.eq_of_getLsbD_eq
  intro i hi
  simp only [fld, BitVec.getLsbD_append, BitVec.getLsbD_extractLsb', hi, decide_true, Bool.true_and]
  rw [if_neg (by omega)]; congr 1; omega

theorem fld_append_right {a b lo n : Nat} (x : BitVec a) (y : BitVec b) (h : lo + n ≤ b) : fld (x ++ y) lo n = fld y lo n := by
  apply BitVec.eq_of_getLsbD_eq
  intro i hi
  simp only [fld, BitVec.getLsbD_append, BitVec.getLsbD_extractLsb', hi, decide_true, Bool.true_and]
  rw [if_pos (by omega)]

theorem fld_self {a lo : Nat} (x : BitVec a) (h : lo = 0) : fld x lo a = x := by
  subst h; simp [fld]

theorem fld_split {a b n : Nat} (x : BitVec a) (h : a = n + b) : (fld x b n ++ fld x 0 b : BitVec (n + b)) = x.cast h := by
  apply BitVec.eq_of_getLsbD_eq
  intro i hi
  simp only [fld, BitVec.getLsbD_append, BitVec.getLsbD_extractLsb', BitVec.getLsbD_cast]
  split
  · rename_i hb; simp [hb]
  · rename_i hb; simp only [show i - b < n by omega, decide_true, Bool.true_and]; congr 1; omega

theorem bit_append_left {a b lo : Nat} (x : BitVec a) (y : BitVec b) (h : b ≤ lo) : bit (x ++ y) lo = bit x (lo - b) := by
  simp only [bit, BitVec.getLsbD_append]; rw [if_neg (by omega)]

theorem bit_append_right {a b lo : Nat} (x : BitVec a) (y : BitVec b) (h : lo < b) : bit (x ++ y) lo = bit y lo := by
  simp only [bit, BitVec.getLsbD_append]; rw [if_pos (by omega)]

theorem bit_bitOf {lo : Nat} (b : Bool) (h : lo = 0) : bit (bitOf 1 b) lo = b := by
  subst h; cases b <;> rfl

theorem bit_bitOf_wide {n : Nat} (b : Bool) (h : 0 < n) : bit (bitOf n b) 0 = b := by
  cases b <;> simp [bit, bitOf, h]

-- Slot words ----------------------------------------------------------------------------------------------------------

theorem slotWord_op (op : Nat) (c : Ctl) (body : BitVec 22) : fld (slotWord op c body) 26 6 = BitVec.ofNat 6 op := by
  unfold slotWord; simp (disch := decide) only [fld_append_left, fld_self]

theorem slotWord_g (op : Nat) (c : Ctl) (body : BitVec 22) : fld (slotWord op c body) 23 3 = c.g := by
  unfold slotWord; simp (disch := decide) only [fld_append_left, fld_append_right, fld_self]

theorem slotWord_ar (op : Nat) (c : Ctl) (body : BitVec 22) : bit (slotWord op c body) 22 = c.ar := by
  unfold slotWord; simp (disch := decide) only [bit_append_left, bit_append_right, bit_bitOf]

theorem slotWord_fld (op : Nat) (c : Ctl) (body : BitVec 22) (lo n : Nat) (h : lo + n ≤ 22) :
    fld (slotWord op c body) lo n = fld body lo n := by
  unfold slotWord; rw [fld_append_right _ _ h]

theorem slotWord_bit (op : Nat) (c : Ctl) (body : BitVec 22) (lo : Nat) (h : lo < 22) : bit (slotWord op c body) lo = bit body lo := by
  unfold slotWord; rw [bit_append_right _ _ h]

/-- The lend bits of a slot word come back from the header. -/
def lendKept (s : Slot) (l : BitVec 6) : Prop := lendOf (lendBits s l) s = l

theorem lendKept_sc : ∀ l, lendKept .sc l := by unfold lendKept; decide
theorem lendKept_zero (s : Slot) : lendKept s 0 := by cases s <;> rfl
theorem lendKept_ad5 : ∀ h : BitVec 6, lendKept .ad (0#1 ++ fld h 0 5) := by unfold lendKept; decide
theorem lendKept_ad4 : ∀ h : BitVec 4, lendKept .ad (0#2 ++ h) := by unfold lendKept; decide
theorem lendKept_va : ∀ h : BitVec 3, lendKept .va (0#3 ++ h) := by unfold lendKept; decide
theorem lendKept_vb : ∀ h : BitVec 3, lendKept .vb (0#3 ++ h) := by unfold lendKept; decide
theorem lendKept_mx : ∀ h : BitVec 2, lendKept .mx (0#4 ++ h) := by unfold lendKept; decide
theorem lendKept_cp : ∀ (h : BitVec 2) (b : Bool), lendKept .cp (0#3 ++ h ++ bitOf 1 b) := by unfold lendKept; decide

theorem isA_slot {c : Ctl} (h : c.isA = true) : c.slot = .sc ∨ c.slot = .ad := by
  unfold Ctl.isA at h
  cases hs : c.slot <;> simp_all
theorem isC_isA {c : Ctl} (h : c.isC = true) : c.isA = true := by simp_all [Ctl.isA, Ctl.isC]

theorem isA_lend {c : Ctl} (h : c.isA = true) (v : BitVec 6) : lendKept c.slot (immLend c v) := by
  unfold immLend
  rcases isA_slot h with e | e <;> simp only [e]
  · exact lendKept_sc _
  · exact lendKept_ad5 _
theorem isA_lend4 {c : Ctl} (h : c.isA = true) (v : BitVec 4) : lendKept c.slot (0#2 ++ v) := by
  rcases isA_slot h with e | e <;> rw [e]
  · exact lendKept_sc _
  · exact lendKept_ad4 _
theorem isC_lend {c : Ctl} (h : c.isC = true) (v : BitVec 6) : lendKept c.slot v := by
  unfold Ctl.isC at h
  rw [eq_of_beq h]; exact lendKept_sc _
theorem isV_lend {c : Ctl} (h : c.isV = true) (v : BitVec 3) : lendKept c.slot (0#3 ++ v) := by
  unfold Ctl.isV at h
  cases hs : c.slot <;> simp_all
  · exact lendKept_va _
  · exact lendKept_vb _
theorem isM_lend {c : Ctl} (h : c.isM = true) (v : BitVec 2) : lendKept c.slot (0#4 ++ v) := by
  unfold Ctl.isM at h
  rw [eq_of_beq h]; exact lendKept_mx _
theorem isE_lend {c : Ctl} (h : c.isE = true) (v : BitVec 2) (b : Bool) : lendKept c.slot (0#3 ++ v ++ bitOf 1 b) := by
  unfold Ctl.isE at h
  rw [eq_of_beq h]; exact lendKept_cp _ _

/-- Whether a slot word is MOVL's (R65). -/
def isMovl (s : Slot) (w : BitVec 32) : Bool := (s == .sc || s == .ad) && (fld w 26 6).toNat == 16

theorem isMovl_slot {s : Slot} (op : Nat) (c : Ctl) (body : BitVec 22) (h : op % 64 ≠ 16) : isMovl s (slotWord op c body) = false := by
  simp [isMovl, slotWord_op, h]
theorem isMovl_not {s : Slot} (w : BitVec 32) (h : (s == .sc || s == .ad) = false) : isMovl s w = false := by simp [isMovl, h]

/-- An instruction is read back from its slot word. -/
def slotBack (i : Instr) : Prop := ∀ e sl, i.slot? = some sl → encodeSlot i = some e →
  decodeSlot sl e.lend e.word e.lit = some i ∧ lendKept sl e.lend ∧ isMovl sl e.word = e.lit.isSome

theorem slot_gives {i : Instr} {c : Ctl} {e : SlotEnc} (hw : i.wf = true) (he : encodeSlot i = some e) (hc : i.ctl? = some c)
    (hg : fld e.word 23 3 = c.g) (ha : bit e.word 22 = c.ar) (hl : isMovl c.slot e.word = e.lit.isSome) (hk : lendKept c.slot e.lend)
    (hr : readSlot c e.lend e.word e.lit = some i) : slotBack i := by
  intro f sl hs hf
  obtain rfl : e = f := by simpa [he] using hf
  obtain rfl : sl = c.slot := by simpa [Instr.slot?, hc] using hs.symm
  refine ⟨?_, hk, hl⟩
  have hlit : (if (c.slot == .sc || c.slot == .ad) && (fld e.word 26 6).toNat == 16 then e.lit else none) = e.lit := by
    have : ((c.slot == .sc || c.slot == .ad) && (fld e.word 26 6).toNat == 16) = e.lit.isSome := hl
    rw [this]; cases e.lit <;> rfl
  unfold decodeSlot
  rw [hg, ha]
  dsimp only
  rw [hlit, show (⟨c.slot, c.g, c.ar⟩ : Ctl) = c from rfl, hr]
  simp [acceptSlot, hw, he]

theorem isA_read {c : Ctl} (h : c.isA = true) (lend : BitVec 6) (w : BitVec 32) (lit : Option (BitVec 32)) :
    readSlot c lend w lit = readS c lend w lit := by
  unfold readSlot
  rcases isA_slot h with e | e <;> rw [e]
theorem isV_read {c : Ctl} (h : c.isV = true) (lend : BitVec 6) (w : BitVec 32) (lit : Option (BitVec 32)) :
    readSlot c lend w lit = readV c lend w := by
  unfold readSlot; unfold Ctl.isV at h
  cases hs : c.slot <;> simp_all
theorem isM_read {c : Ctl} (h : c.isM = true) (lend : BitVec 6) (w : BitVec 32) (lit : Option (BitVec 32)) :
    readSlot c lend w lit = readM c lend w := by
  unfold readSlot; unfold Ctl.isM at h
  rw [eq_of_beq h]
theorem isE_read {c : Ctl} (h : c.isE = true) (lend : BitVec 6) (w : BitVec 32) (lit : Option (BitVec 32)) :
    readSlot c lend w lit = readE c lend w := by
  unfold readSlot; unfold Ctl.isE at h
  rw [eq_of_beq h]

/-- An immediate comes back from its lend bits and its field (R67). -/
theorem extImm_back {n : Nat} {c : Ctl} {v : BitVec (6 + n)} (h : fitsAd c v = true) (lend : BitVec 6) (f : BitVec n)
    (hl : lend = immLend c (fld v n 6)) (hf : f = fld v 0 n) : extImm c lend f = v := by
  subst hl hf
  unfold extImm immLend
  by_cases hs : c.slot = .ad
  · simp only [hs, if_true]
    simp only [fitsAd, hs, bne_self_eq_false, Bool.false_or] at h
    have h' : v.getLsbD (n + 5) = v.getLsbD (n + 4) := by
      have := eq_of_beq h
      rw [show 6 + n - 1 = n + 5 by omega, show 6 + n - 2 = n + 4 by omega] at this
      exact this
    rw [show fld (0#1 ++ fld (fld v n 6) 0 5) 0 5 = fld v n 5 by
      apply BitVec.eq_of_getLsbD_eq
      intro i hi
      simp only [fld, BitVec.getLsbD_append, BitVec.getLsbD_extractLsb', hi, decide_true, Bool.true_and, Nat.zero_add, if_true]
      simp only [show i < 6 by omega, decide_true, Bool.true_and]]
    apply BitVec.eq_of_getLsbD_eq
    intro i hi
    rw [BitVec.getLsbD_signExtend]
    simp only [hi, decide_true, Bool.true_and, BitVec.msb_eq_getLsbD_last, BitVec.getLsbD_append, fld, BitVec.getLsbD_extractLsb', Nat.zero_add]
    split
    · split
      · rename_i hb; simp [hb]
      · rename_i h1 h2
        simp only [show i - n < 5 by omega, decide_true, Bool.true_and]
        congr 1; omega
    · rw [if_neg (by omega)]
      simp only [show 5 + n - 1 - n < 5 by omega, decide_true, Bool.true_and]
      rw [show n + (5 + n - 1 - n) = n + 4 by omega, ← h']
      congr 1; omega
  · simp only [hs, if_false]
    rw [fld_split v rfl]; rfl

-- Codes ---------------------------------------------------------------------------------------------------------------

theorem aluFn_code (f : AluFn) : AluFn.ofCode f.code = some f := by cases f <;> rfl
theorem mulFn_code (f : MulFn) : MulFn.ofCode f.code = some f := by cases f <;> rfl
theorem cond_code (f : Cond) : Cond.ofCode f.code = some f := by cases f <;> rfl
theorem cmpSize_code (f : CmpSize) : CmpSize.ofCode f.code = some f := by cases f <;> rfl
theorem memSize_code (f : MemSize) : MemSize.ofCode f.code = some f := by cases f <;> rfl
theorem kpopFn_code (f : KpopFn) : KpopFn.ofCode f.code = some f := by cases f <;> rfl
theorem tickFn_code (f : TickFn) : TickFn.ofCode f.code = some f := by cases f <;> rfl
theorem level_code (f : Level) : Level.ofCode f.code = some f := by cases f <;> rfl
theorem tmCond_code (f : TmCond) : TmCond.ofCode f.code = some f := by cases f <;> rfl
theorem tmBrCond_code (f : TmBrCond) : TmBrCond.ofCode f.code = some f := by cases f <;> rfl
theorem eTy_code (f : ETy) : ETy.ofCode f.code = f := by cases f <;> rfl
theorem slice_code (f : Slice) : Slice.ofCode f.code = some f := by
  cases f with
  | q n => revert n; decide
  | _ => rfl
theorem tmTy_code (t : TmTy) {lo : Nat} (h : lo = 0) : (if bit t.code lo then TmTy.x else TmTy.l) = t := by
  subst h; cases t <;> rfl

theorem decV3_back (op : Nat) (o : V3) : decV3 o.ctl (encV3 op o).lend (encV3 op o).word = some o := by
  simp (disch := decide) only [decV3, encV3, slotWord_fld, fld_append_left, fld_append_right, fld_self, slice_code, eTy_code, Option.map_some]
theorem decVM_back (op : Nat) (o : VM) : decVM o.ctl (encVM op o).lend (encVM op o).word = some o := by
  simp (disch := decide) only [decVM, encVM, slotWord_fld, fld_append_left, fld_append_right, fld_self, slice_code, Option.map_some]
theorem decMX_back (op : Nat) (o : MX) (fl : BitVec 4) (l : BitVec 2) : decMX o.ctl (encMX op o fl l).word = o := by
  simp (disch := decide) only [decMX, encMX, slotWord_fld, fld_append_left, fld_append_right, fld_self]
theorem decCP_back (op : Nat) (o : CP) (fl : BitVec 2) (b : Bool) : decCP o.ctl (encCP op o fl b).lend (encCP op o fl b).word = o := by
  simp (disch := decide) only [decCP, encCP, slotWord_fld, fld_append_left, fld_append_right, fld_self]
theorem encMX_bit (op : Nat) (o : MX) (fl : BitVec 4) (l : BitVec 2) (k : Nat) (h : k < 4) : bit (encMX op o fl l).word k = bit fl k := by
  simp only [encMX]
  rw [slotWord_bit _ _ _ _ (by omega), bit_append_right _ _ h]
theorem encCP_flag (op : Nat) (o : CP) (fl : BitVec 2) (b : Bool) : bit (encCP op o fl b).lend 0 = b := by
  simp (disch := decide) only [encCP, bit_append_right, bit_bitOf]
theorem encCP_bit (op : Nat) (o : CP) (fl : BitVec 2) (b : Bool) : bit (encCP op o fl b).word 0 = bit fl 0 := by
  simp (disch := decide) only [encCP, slotWord_bit, bit_append_right]
theorem encCP_fl (op : Nat) (o : CP) (fl : BitVec 2) (b : Bool) : fld (encCP op o fl b).word 0 2 = fl := by
  simp (disch := decide) only [encCP, slotWord_fld, fld_append_right, fld_self]
theorem encV3_op (op : Nat) (o : V3) : fld (encV3 op o).word 26 6 = BitVec.ofNat 6 op := slotWord_op ..
theorem encVM_op (op : Nat) (o : VM) : fld (encVM op o).word 26 6 = BitVec.ofNat 6 op := slotWord_op ..
theorem encMX_op (op : Nat) (o : MX) (fl : BitVec 4) (l : BitVec 2) : fld (encMX op o fl l).word 26 6 = BitVec.ofNat 6 op := slotWord_op ..
theorem encCP_op (op : Nat) (o : CP) (fl : BitVec 2) (b : Bool) : fld (encCP op o fl b).word 26 6 = BitVec.ofNat 6 op := slotWord_op ..

theorem v3_gives {i : Instr} {o : V3} {op : Nat} (hw : i.wf = true) (he : encodeSlot i = some (encV3 op o)) (hc : i.ctl? = some o.ctl)
    (hv : o.ctl.isV = true) (hr : readV o.ctl (encV3 op o).lend (encV3 op o).word = some i) : slotBack i := by
  have hn : (o.ctl.slot == .sc || o.ctl.slot == .ad) = false := by unfold Ctl.isV at hv; cases hs : o.ctl.slot <;> simp_all
  exact slot_gives hw he hc (slotWord_g ..) (slotWord_ar ..) (isMovl_not _ hn) (isV_lend hv _) (by rw [isV_read hv]; exact hr)
theorem vm_gives {i : Instr} {o : VM} {op : Nat} (hw : i.wf = true) (he : encodeSlot i = some (encVM op o)) (hc : i.ctl? = some o.ctl)
    (hv : o.ctl.isV = true) (hr : readV o.ctl (encVM op o).lend (encVM op o).word = some i) : slotBack i := by
  have hn : (o.ctl.slot == .sc || o.ctl.slot == .ad) = false := by unfold Ctl.isV at hv; cases hs : o.ctl.slot <;> simp_all
  exact slot_gives hw he hc (slotWord_g ..) (slotWord_ar ..) (isMovl_not _ hn) (isV_lend hv _) (by rw [isV_read hv]; exact hr)
theorem mx_gives {i : Instr} {o : MX} {op : Nat} {fl : BitVec 4} {l : BitVec 2} (hw : i.wf = true) (he : encodeSlot i = some (encMX op o fl l))
    (hc : i.ctl? = some o.ctl) (hm : o.ctl.isM = true) (hr : readM o.ctl (encMX op o fl l).lend (encMX op o fl l).word = some i) : slotBack i := by
  have hn : (o.ctl.slot == .sc || o.ctl.slot == .ad) = false := by unfold Ctl.isM at hm; rw [eq_of_beq hm]; rfl
  exact slot_gives hw he hc (slotWord_g ..) (slotWord_ar ..) (isMovl_not _ hn) (isM_lend hm _) (by rw [isM_read hm]; exact hr)
theorem cp_gives {i : Instr} {o : CP} {op : Nat} {fl : BitVec 2} {b : Bool} (hw : i.wf = true) (he : encodeSlot i = some (encCP op o fl b))
    (hc : i.ctl? = some o.ctl) (hm : o.ctl.isE = true) (hr : readE o.ctl (encCP op o fl b).lend (encCP op o fl b).word = some i) : slotBack i := by
  have hn : (o.ctl.slot == .sc || o.ctl.slot == .ad) = false := by unfold Ctl.isE at hm; rw [eq_of_beq hm]; rfl
  exact slot_gives hw he hc (slotWord_g ..) (slotWord_ar ..) (isMovl_not _ hn) (isE_lend hm _ _) (by rw [isE_read hm]; exact hr)

theorem trim_gives {i : Instr} {w : BitVec 32} (hw : i.wf = true) (he : encodeTrim i = some w) (hr : readTrim w = some i) :
    ∀ v, encodeTrim i = some v → decodeTrim v = some i := by
  intro v hv
  obtain rfl : w = v := by simpa [he] using hv
  simp [decodeTrim, hr, acceptTrim, hw, he]

end Sys2Proof
end

