-- ==== Sys2Proof/Laws/Memory.lean ====
section
/-! SUPPORT. The laws of sparse maps and memories: a read after a write, and the canonical form that every operation keeps. -/
namespace Sys2Proof.Machine
open Sys2Proof
set_option Elab.async false

section maps
variable {α : Type} [DecidableEq α] (d : α)

theorem SMap.get_below {m : SMap α} {lo k : Nat} (h : SMap.wfFrom d lo m = true) (hk : k < lo) : SMap.get d m k = d := by
  cases m with
  | nil => rfl
  | cons p rest =>
    obtain ⟨a, v⟩ := p
    simp only [SMap.wfFrom, Bool.and_eq_true, decide_eq_true_eq] at h
    have h1 : a ≠ k := by omega
    have h2 : k < a := by omega
    simp [SMap.get, h1, h2]

theorem SMap.wfFrom_mono {m : SMap α} {lo lo' : Nat} (h : SMap.wfFrom d lo m = true) (hl : lo' ≤ lo) : SMap.wfFrom d lo' m = true := by
  cases m with
  | nil => rfl
  | cons p rest =>
    simp only [SMap.wfFrom, Bool.and_eq_true, decide_eq_true_eq] at h ⊢
    exact ⟨⟨by omega, h.1.2⟩, h.2⟩

theorem SMap.wfFrom_tail {a : Nat} {v : α} {rest : SMap α} {lo : Nat} (h : SMap.wfFrom d lo ((a, v) :: rest) = true) :
    lo ≤ a ∧ v ≠ d ∧ SMap.wfFrom d (a + 1) rest = true := by
  simpa [SMap.wfFrom, and_assoc] using h

/-- Writing keeps the canonical form. -/
theorem SMap.set_wfFrom {m : SMap α} {lo k : Nat} (v : α) (h : SMap.wfFrom d lo m = true) (hk : lo ≤ k) :
    SMap.wfFrom d lo (SMap.set d m k v) = true := by
  induction m generalizing lo with
  | nil =>
    unfold SMap.set
    split
    · rfl
    · simp [SMap.wfFrom, *]
  | cons p rest ih =>
    obtain ⟨a, w⟩ := p
    obtain ⟨h1, h2, h3⟩ := SMap.wfFrom_tail d h
    unfold SMap.set
    split
    · split
      · exact h
      · simp [SMap.wfFrom, *]
    · split
      · split
        · exact SMap.wfFrom_mono d h3 (by omega)
        · subst_vars
          simp [SMap.wfFrom, *]
      · simp [SMap.wfFrom, *]
        exact ih h3 (by omega)

/-- Writing keeps the canonical form of a whole map. -/
theorem SMap.set_wf {m : SMap α} (k : Nat) (v : α) (h : SMap.wf d m = true) : SMap.wf d (SMap.set d m k v) = true :=
  SMap.set_wfFrom d v h (Nat.zero_le k)

/-- A read after a write to the same key gives the value written. -/
theorem SMap.get_set_same {m : SMap α} {lo : Nat} (k : Nat) (v : α) (h : SMap.wfFrom d lo m = true) :
    SMap.get d (SMap.set d m k v) k = v := by
  induction m generalizing lo with
  | nil =>
    unfold SMap.set
    split <;> simp [SMap.get, *]
  | cons p rest ih =>
    obtain ⟨a, w⟩ := p
    obtain ⟨h1, h2, h3⟩ := SMap.wfFrom_tail d h
    unfold SMap.set
    split
    · split
      · have : a ≠ k := by omega
        simp [SMap.get, *]
      · simp [SMap.get]
    · split
      · split
        · subst_vars
          exact SMap.get_below _ h3 (Nat.lt_succ_self _)
        · simp [SMap.get]
      · have : ¬ k < a := by assumption
        simp [SMap.get, *, ih h3]

/-- A write leaves every other key alone. -/
theorem SMap.get_set_other {m : SMap α} {lo j : Nat} (k : Nat) (v : α) (h : SMap.wfFrom d lo m = true) (hj : j ≠ k) :
    SMap.get d (SMap.set d m k v) j = SMap.get d m j := by
  induction m generalizing lo with
  | nil =>
    unfold SMap.set
    split <;> simp [SMap.get, Ne.symm hj]
  | cons p rest ih =>
    obtain ⟨a, w⟩ := p
    obtain ⟨h1, h2, h3⟩ := SMap.wfFrom_tail d h
    unfold SMap.set
    split
    · split
      · rfl
      · have hkj : k ≠ j := Ne.symm hj
        by_cases hlt : j < k
        · have : a ≠ j := by omega
          have : j < a := by omega
          simp [SMap.get, *]
        · simp [SMap.get, hkj, hlt]
    · split
      · subst_vars
        split
        · by_cases hlt : j < a
          · simp [SMap.get, Ne.symm hj, hlt, SMap.get_below d h3 (show j < a + 1 by omega)]
          · simp [SMap.get, Ne.symm hj, hlt]
        · simp [SMap.get, Ne.symm hj]
      · simp only [SMap.get]
        split
        · rfl
        · split
          · rfl
          · exact ih h3

end maps

-- Runs of bytes -------------------------------------------------------------------------------------------------------

/-- The cells of a run are canonical. -/
theorem Memory.cells_wfFrom (a : Nat) (bs : List Byte) : SMap.wfFrom Memory.unlisted a (Memory.cells a bs) = true := by
  induction bs generalizing a with
  | nil => rfl
  | cons b rest ih =>
    unfold Memory.cells
    split
    · exact SMap.wfFrom_mono _ (ih (a + 1)) (by omega)
    · simp [SMap.wfFrom, *]

/-- What is left from an address on is canonical from there. -/
theorem Memory.from_wfFrom {m : Memory} {lo a : Nat} (h : SMap.wfFrom Memory.unlisted lo m = true) :
    SMap.wfFrom Memory.unlisted a (Memory.from m a) = true := by
  induction m generalizing lo with
  | nil => rfl
  | cons p rest ih =>
    obtain ⟨k, v⟩ := p
    obtain ⟨h1, h2, h3⟩ := SMap.wfFrom_tail _ h
    unfold Memory.from
    split
    · exact ih h3
    · simp [SMap.wfFrom, *]
      omega

theorem Memory.takeWhile_append_wfFrom {m rest : Memory} {lo a : Nat} (h : SMap.wfFrom Memory.unlisted lo m = true)
    (hr : SMap.wfFrom Memory.unlisted (max lo a) rest = true) :
    SMap.wfFrom Memory.unlisted lo (m.takeWhile (fun c => c.1 < a) ++ rest) = true := by
  induction m generalizing lo with
  | nil => exact SMap.wfFrom_mono _ hr (by omega)
  | cons p ps ih =>
    obtain ⟨k, v⟩ := p
    obtain ⟨h1, h2, h3⟩ := SMap.wfFrom_tail _ h
    by_cases hk : k < a
    · have := ih h3 (SMap.wfFrom_mono _ hr (by omega))
      simp [List.takeWhile, SMap.wfFrom, *]
    · simpa [List.takeWhile, hk] using SMap.wfFrom_mono _ hr (by omega)

theorem Memory.cells_append_wfFrom {a : Nat} {bs : List Byte} {rest : Memory}
    (hr : SMap.wfFrom Memory.unlisted (a + bs.length) rest = true) :
    SMap.wfFrom Memory.unlisted a (Memory.cells a bs ++ rest) = true := by
  induction bs generalizing a with
  | nil => simpa [Memory.cells] using hr
  | cons b bs ih =>
    have hr' : SMap.wfFrom Memory.unlisted (a + 1 + bs.length) rest = true := by
      have e : a + 1 + bs.length = a + (b :: bs).length := by simp only [List.length_cons]; omega
      rw [e]; exact hr
    unfold Memory.cells
    split
    · exact SMap.wfFrom_mono _ (ih hr') (by omega)
    · simp [SMap.wfFrom, ih hr', *]

/-- Writing one byte keeps a memory canonical. -/
theorem Memory.write_wf {m : Memory} (a : Nat) (b : Byte) (h : m.wf = true) : (m.write a b).wf = true := SMap.set_wf _ a b h

/-- Writing a run of bytes keeps a memory canonical. -/
theorem Memory.writeRun_wf {m : Memory} (a : Nat) (bs : List Byte) (h : m.wf = true) : (m.writeRun a bs).wf = true := by
  unfold Memory.wf SMap.wf at h ⊢
  unfold Memory.writeRun
  refine Memory.takeWhile_append_wfFrom h ?_
  rw [Nat.zero_max]
  exact Memory.cells_append_wfFrom (Memory.from_wfFrom h)

/-- A byte written is the byte read. -/
theorem Memory.read_write_same {m : Memory} (a : Nat) (b : Byte) (h : m.wf = true) : (m.write a b).read a = b :=
  SMap.get_set_same _ a b h

/-- Writing a byte leaves the others alone. -/
theorem Memory.read_write_other {m : Memory} {a c : Nat} (b : Byte) (h : m.wf = true) (hc : c ≠ a) : (m.write a b).read c = m.read c :=
  SMap.get_set_other _ a b h hc

theorem Memory.read_from {m : Memory} {lo a k : Nat} (h : SMap.wfFrom Memory.unlisted lo m = true) (hk : a ≤ k) :
    SMap.get Memory.unlisted (Memory.from m a) k = SMap.get Memory.unlisted m k := by
  induction m generalizing lo with
  | nil => rfl
  | cons p rest ih =>
    obtain ⟨x, v⟩ := p
    obtain ⟨h1, h2, h3⟩ := SMap.wfFrom_tail _ h
    unfold Memory.from
    split
    · have hx : x ≠ k := by omega
      have hlt : ¬ k < x := by omega
      simp [SMap.get, hx, hlt, ih h3]
    · rfl

theorem Memory.get_cells {a : Nat} {bs : List Byte} {rest : Memory} {k : Nat}
    (hr : SMap.wfFrom Memory.unlisted (a + bs.length) rest = true) (hk : a ≤ k) :
    SMap.get Memory.unlisted (Memory.cells a bs ++ rest) k
      = if k < a + bs.length then bs.getD (k - a) Memory.unlisted else SMap.get Memory.unlisted rest k := by
  induction bs generalizing a with
  | nil =>
    have : ¬ k < a := by omega
    simp [Memory.cells, this]
  | cons b bs ih =>
    have hl : a + (b :: bs).length = a + 1 + bs.length := by simp only [List.length_cons]; omega
    rw [hl] at hr ⊢
    unfold Memory.cells
    by_cases hka : a = k
    · subst hka
      split
      · rename_i hb
        rw [SMap.get_below _ (Memory.cells_append_wfFrom hr) (by omega)]
        simp only [Nat.sub_self, List.getD_cons_zero, hb]
        rw [if_pos (by omega)]
      · simp only [List.cons_append, SMap.get, if_pos, Nat.sub_self, List.getD_cons_zero]
        rw [if_pos (by omega)]
    · have h1 : a + 1 ≤ k := by omega
      have h2 : k - a = (k - (a + 1)) + 1 := by omega
      have h3 : ¬ k < a := by omega
      split
      · rw [ih hr h1, h2]; simp
      · simp only [List.cons_append, SMap.get, hka, h3, if_false]
        rw [ih hr h1, h2]; simp

theorem Memory.get_takeWhile {m rest : Memory} {lo a k : Nat} (h : SMap.wfFrom Memory.unlisted lo m = true)
    (hr : SMap.wfFrom Memory.unlisted a rest = true) :
    SMap.get Memory.unlisted (m.takeWhile (fun c => c.1 < a) ++ rest) k
      = if k < a then SMap.get Memory.unlisted m k else SMap.get Memory.unlisted rest k := by
  induction m generalizing lo with
  | nil =>
    by_cases hk : k < a
    · simp [SMap.get, hk, SMap.get_below _ hr hk]
    · simp [hk]
  | cons p ps ih =>
    obtain ⟨x, v⟩ := p
    obtain ⟨h1, h2, h3⟩ := SMap.wfFrom_tail _ h
    by_cases hx : x < a
    · simp only [List.takeWhile, hx, decide_true, List.cons_append, SMap.get]
      rw [ih h3]
      by_cases hk : k < a <;> simp [hk]
      have e1 : x ≠ k := by omega
      have e2 : ¬ k < x := by omega
      simp [e1, e2]
    · simp only [List.takeWhile, hx, decide_false, List.nil_append]
      by_cases hk : k < a
      · have e1 : x ≠ k := by omega
        have e2 : k < x := by omega
        simp [hk, SMap.get, e1, e2, SMap.get_below _ hr hk]
      · simp [hk]

/-- Reading a byte after a run was written: the run's byte inside it, and what stood there outside. -/
theorem Memory.read_writeRun {m : Memory} (a : Nat) (bs : List Byte) (k : Nat) (h : m.wf = true) :
    (m.writeRun a bs).read k = if a ≤ k ∧ k < a + bs.length then bs.getD (k - a) Memory.unlisted else m.read k := by
  have hf : SMap.wfFrom Memory.unlisted (a + bs.length) (Memory.from m (a + bs.length)) = true := Memory.from_wfFrom h
  unfold Memory.read Memory.writeRun
  rw [Memory.get_takeWhile h (Memory.cells_append_wfFrom hf)]
  by_cases h1 : k < a
  · have : ¬ a ≤ k := by omega
    simp [h1, this]
  · have h2 : a ≤ k := by omega
    rw [if_neg h1, Memory.get_cells hf h2]
    by_cases h3 : k < a + bs.length
    · simp [h2, h3]
    · rw [if_neg h3, Memory.read_from h (by omega)]
      simp [h3]

-- Poison --------------------------------------------------------------------------------------------------------------

theorem insertNat_head {g b : Nat} {l : List Nat} (h : List.Pairwise (· < ·) (b :: l)) (hb : b < g) :
    ∀ x ∈ insertNat g l, b < x := by
  induction l with
  | nil => simp [insertNat, hb]
  | cons c rest ih =>
    have hc : b < c := (List.pairwise_cons.mp h).1 c (by simp)
    have hr : ∀ x ∈ rest, b < x := fun x hx => (List.pairwise_cons.mp h).1 x (by simp [hx])
    unfold insertNat
    split
    · simp [hb, hc]; exact hr
    · split
      · simp [hc]; exact hr
      · have h' : List.Pairwise (· < ·) (b :: rest) := by
          have := (List.pairwise_cons.mp (List.pairwise_cons.mp h).2).2
          exact List.pairwise_cons.mpr ⟨hr, this⟩
        simp [hc]; exact ih h'

/-- Inserting into a rising list gives a rising list. -/
theorem insertNat_sorted (g : Nat) {l : List Nat} (h : List.Pairwise (· < ·) l) : List.Pairwise (· < ·) (insertNat g l) := by
  induction l with
  | nil => simp [insertNat]
  | cons c rest ih =>
    obtain ⟨h1, h2⟩ := List.pairwise_cons.mp h
    unfold insertNat
    split
    · rename_i hg
      refine List.pairwise_cons.mpr ⟨?_, h⟩
      intro x hx
      rcases List.mem_cons.mp hx with rfl | hx
      · exact hg
      · exact Nat.lt_trans hg (h1 x hx)
    · split
      · exact h
      · refine List.pairwise_cons.mpr ⟨insertNat_head h (by omega), ih h2⟩

/-- Setting the poison of a granule keeps the form. -/
theorem PMem.setPoison_wf {m : PMem} (g : Nat) (b : Bool) (h : m.wf = true) : (m.setPoison g b).wf = true := by
  simp only [PMem.wf, PMem.setPoison, Bool.and_eq_true, decide_eq_true_eq] at h ⊢
  refine ⟨h.1, ?_⟩
  split
  · exact decide_eq_true (insertNat_sorted g h.2)
  · exact decide_eq_true (h.2.filter _)

/-- Writing bytes keeps the form. -/
theorem PMem.writeBytes_wf {m : PMem} (a : Nat) (bs : List Byte) (h : m.wf = true) : (m.writeBytes a bs).wf = true := by
  simp only [PMem.wf, PMem.writeBytes, Bool.and_eq_true, decide_eq_true_eq] at h ⊢
  exact ⟨Memory.writeRun_wf a bs h.1, decide_eq_true h.2⟩

/-- Writing a granule keeps the form. -/
theorem PMem.writeGran_wf {m : PMem} (g : Nat) (v : Gran) (bad : Bool) (h : m.wf = true) : (m.writeGran g v bad).wf = true :=
  PMem.setPoison_wf g bad (PMem.writeBytes_wf _ _ h)

/-- A cleared memory has the form. -/
theorem PMem.empty_wf : PMem.empty.wf = true := by decide

end Sys2Proof.Machine
end

