-- ==== Sys2Proof/Laws/State.lean ====
section
/-! SUPPORT. One lemma per field per update of the state and of a core: what an update sets, and what it leaves. -/
namespace Sys2Proof.Machine
open Sys2Proof

-- Cores of the package

@[simp] theorem State.core_setCore (s : State) (c : CoreId) (k : Core) : (s.setCore c k).core c = k := by
  simp [State.core, State.setCore]

theorem State.core_setCore_ne (s : State) {c d : CoreId} (k : Core) (h : d ≠ c) : (s.setCore c k).core d = s.core d := by
  have : c.toNat ≠ d.toNat := fun e => h (BitVec.eq_of_toNat_eq e.symm)
  simp [State.core, State.setCore, Vector.getElem_set_ne, this]

@[simp] theorem State.setCore_setCore (s : State) (c : CoreId) (k l : Core) : (s.setCore c k).setCore c l = s.setCore c l := by
  simp [State.setCore]

@[simp] theorem State.setCore_core (s : State) (c : CoreId) : s.setCore c (s.core c) = s := by
  simp [State.setCore, State.core]

@[simp] theorem State.core_modCore (s : State) (c : CoreId) (f : Core → Core) : (s.modCore c f).core c = f (s.core c) := by
  simp [State.modCore]

theorem State.core_modCore_ne (s : State) {c d : CoreId} (f : Core → Core) (h : d ≠ c) : (s.modCore c f).core d = s.core d :=
  State.core_setCore_ne s _ h

@[simp] theorem State.modCore_setCore (s : State) (c : CoreId) (k : Core) (f : Core → Core) :
    (s.setCore c k).modCore c f = s.setCore c (f k) := by simp [State.modCore]

theorem State.modCore_modCore (s : State) (c : CoreId) (f g : Core → Core) :
    (s.modCore c f).modCore c g = s.modCore c (fun k => g (f k)) := by simp [State.modCore]

-- setCore

@[simp] theorem State.tnow_setCore (s : State) (c : CoreId) (k : Core) : (s.setCore c k).tnow = s.tnow := rfl
@[simp] theorem State.turn_setCore (s : State) (c : CoreId) (k : Core) : (s.setCore c k).turn = s.turn := rfl
@[simp] theorem State.agenda_setCore (s : State) (c : CoreId) (k : Core) : (s.setCore c k).agenda = s.agenda := rfl
@[simp] theorem State.choices_setCore (s : State) (c : CoreId) (k : Core) : (s.setCore c k).choices = s.choices := rfl
@[simp] theorem State.hbm_setCore (s : State) (c : CoreId) (k : Core) : (s.setCore c k).hbm = s.hbm := rfl
@[simp] theorem State.fw_setCore (s : State) (c : CoreId) (k : Core) : (s.setCore c k).fw = s.fw := rfl
@[simp] theorem State.bars_setCore (s : State) (c : CoreId) (k : Core) : (s.setCore c k).bars = s.bars := rfl
@[simp] theorem State.l3_setCore (s : State) (c : CoreId) (k : Core) : (s.setCore c k).l3 = s.l3 := rfl
@[simp] theorem State.parts_setCore (s : State) (c : CoreId) (k : Core) : (s.setCore c k).parts = s.parts := rfl
@[simp] theorem State.capbase_setCore (s : State) (c : CoreId) (k : Core) : (s.setCore c k).capbase = s.capbase := rfl
@[simp] theorem State.window_setCore (s : State) (c : CoreId) (k : Core) : (s.setCore c k).window = s.window := rfl
@[simp] theorem State.chip_setCore (s : State) (c : CoreId) (k : Core) : (s.setCore c k).chip = s.chip := rfl
@[simp] theorem State.orders_setCore (s : State) (c : CoreId) (k : Core) : (s.setCore c k).orders = s.orders := rfl
@[simp] theorem State.groups_setCore (s : State) (c : CoreId) (k : Core) : (s.setCore c k).groups = s.groups := rfl
@[simp] theorem State.farDown_setCore (s : State) (c : CoreId) (k : Core) : (s.setCore c k).farDown = s.farDown := rfl
@[simp] theorem State.lanes_setCore (s : State) (c : CoreId) (k : Core) : (s.setCore c k).lanes = s.lanes := rfl
@[simp] theorem State.nextHost_setCore (s : State) (c : CoreId) (k : Core) : (s.setCore c k).nextHost = s.nextHost := rfl
@[simp] theorem State.hostWait_setCore (s : State) (c : CoreId) (k : Core) : (s.setCore c k).hostWait = s.hostWait := rfl
@[simp] theorem State.nets_setCore (s : State) (c : CoreId) (k : Core) : (s.setCore c k).nets = s.nets := rfl
@[simp] theorem State.pfcPrio_setCore (s : State) (c : CoreId) (k : Core) : (s.setCore c k).pfcPrio = s.pfcPrio := rfl
@[simp] theorem State.gone_setCore (s : State) (c : CoreId) (k : Core) : (s.setCore c k).gone = s.gone := rfl
@[simp] theorem State.rings_setCore (s : State) (c : CoreId) (k : Core) : (s.setCore c k).rings = s.rings := rfl
@[simp] theorem State.pages_setCore (s : State) (c : CoreId) (k : Core) : (s.setCore c k).pages = s.pages := rfl
@[simp] theorem State.frames_setCore (s : State) (c : CoreId) (k : Core) : (s.setCore c k).frames = s.frames := rfl
@[simp] theorem State.handles_setCore (s : State) (c : CoreId) (k : Core) : (s.setCore c k).handles = s.handles := rfl
@[simp] theorem State.rkeys_setCore (s : State) (c : CoreId) (k : Core) : (s.setCore c k).rkeys = s.rkeys := rfl
@[simp] theorem State.nextKey_setCore (s : State) (c : CoreId) (k : Core) : (s.setCore c k).nextKey = s.nextKey := rfl
@[simp] theorem State.faults_setCore (s : State) (c : CoreId) (k : Core) : (s.setCore c k).faults = s.faults := rfl
@[simp] theorem State.nextFault_setCore (s : State) (c : CoreId) (k : Core) : (s.setCore c k).nextFault = s.nextFault := rfl
@[simp] theorem State.ringTables_setCore (s : State) (c : CoreId) (k : Core) : (s.setCore c k).ringTables = s.ringTables := rfl
@[simp] theorem State.wgt_setCore (s : State) (c : CoreId) (k : Core) : (s.setCore c k).wgt = s.wgt := rfl
@[simp] theorem State.ports_setCore (s : State) (c : CoreId) (k : Core) : (s.setCore c k).ports = s.ports := rfl
@[simp] theorem State.sent_setCore (s : State) (c : CoreId) (k : Core) : (s.setCore c k).sent = s.sent := rfl
@[simp] theorem State.dups_setCore (s : State) (c : CoreId) (k : Core) : (s.setCore c k).dups = s.dups := rfl
@[simp] theorem State.heldOps_setCore (s : State) (c : CoreId) (k : Core) : (s.setCore c k).heldOps = s.heldOps := rfl
@[simp] theorem State.flying_setCore (s : State) (c : CoreId) (k : Core) : (s.setCore c k).flying = s.flying := rfl
@[simp] theorem State.chunks_setCore (s : State) (c : CoreId) (k : Core) : (s.setCore c k).chunks = s.chunks := rfl
@[simp] theorem State.strays_setCore (s : State) (c : CoreId) (k : Core) : (s.setCore c k).strays = s.strays := rfl
@[simp] theorem State.bulks_setCore (s : State) (c : CoreId) (k : Core) : (s.setCore c k).bulks = s.bulks := rfl
@[simp] theorem State.missed_setCore (s : State) (c : CoreId) (k : Core) : (s.setCore c k).missed = s.missed := rfl
@[simp] theorem State.hostOps_setCore (s : State) (c : CoreId) (k : Core) : (s.setCore c k).hostOps = s.hostOps := rfl
@[simp] theorem State.loads_setCore (s : State) (c : CoreId) (k : Core) : (s.setCore c k).loads = s.loads := rfl
@[simp] theorem State.nextLoad_setCore (s : State) (c : CoreId) (k : Core) : (s.setCore c k).nextLoad = s.nextLoad := rfl
@[simp] theorem State.vfs_setCore (s : State) (c : CoreId) (k : Core) : (s.setCore c k).vfs = s.vfs := rfl
@[simp] theorem State.paused_setCore (s : State) (c : CoreId) (k : Core) : (s.setCore c k).paused = s.paused := rfl
@[simp] theorem State.hostMem_setCore (s : State) (c : CoreId) (k : Core) : (s.setCore c k).hostMem = s.hostMem := rfl
@[simp] theorem State.peerMem_setCore (s : State) (c : CoreId) (k : Core) : (s.setCore c k).peerMem = s.peerMem := rfl
@[simp] theorem State.out_setCore (s : State) (c : CoreId) (k : Core) : (s.setCore c k).out = s.out := rfl
@[simp] theorem State.inj_setCore (s : State) (c : CoreId) (k : Core) : (s.setCore c k).inj = s.inj := rfl
@[simp] theorem State.tele_setCore (s : State) (c : CoreId) (k : Core) : (s.setCore c k).tele = s.tele := rfl
@[simp] theorem State.clock_setCore (s : State) (c : CoreId) (k : Core) : (s.setCore c k).clock = s.clock := rfl
@[simp] theorem State.power_setCore (s : State) (c : CoreId) (k : Core) : (s.setCore c k).power = s.power := rfl
@[simp] theorem State.harbour_setCore (s : State) (c : CoreId) (k : Core) : (s.setCore c k).harbour = s.harbour := rfl
@[simp] theorem State.boot_setCore (s : State) (c : CoreId) (k : Core) : (s.setCore c k).boot = s.boot := rfl
@[simp] theorem State.quays_setCore (s : State) (c : CoreId) (k : Core) : (s.setCore c k).quays = s.quays := rfl
@[simp] theorem State.hbmStacks_setCore (s : State) (c : CoreId) (k : Core) : (s.setCore c k).hbmStacks = s.hbmStacks := rfl

-- modCore

@[simp] theorem State.tnow_modCore (s : State) (c : CoreId) (f : Core → Core) : (s.modCore c f).tnow = s.tnow := rfl
@[simp] theorem State.turn_modCore (s : State) (c : CoreId) (f : Core → Core) : (s.modCore c f).turn = s.turn := rfl
@[simp] theorem State.agenda_modCore (s : State) (c : CoreId) (f : Core → Core) : (s.modCore c f).agenda = s.agenda := rfl
@[simp] theorem State.choices_modCore (s : State) (c : CoreId) (f : Core → Core) : (s.modCore c f).choices = s.choices := rfl
@[simp] theorem State.hbm_modCore (s : State) (c : CoreId) (f : Core → Core) : (s.modCore c f).hbm = s.hbm := rfl
@[simp] theorem State.fw_modCore (s : State) (c : CoreId) (f : Core → Core) : (s.modCore c f).fw = s.fw := rfl
@[simp] theorem State.bars_modCore (s : State) (c : CoreId) (f : Core → Core) : (s.modCore c f).bars = s.bars := rfl
@[simp] theorem State.l3_modCore (s : State) (c : CoreId) (f : Core → Core) : (s.modCore c f).l3 = s.l3 := rfl
@[simp] theorem State.parts_modCore (s : State) (c : CoreId) (f : Core → Core) : (s.modCore c f).parts = s.parts := rfl
@[simp] theorem State.capbase_modCore (s : State) (c : CoreId) (f : Core → Core) : (s.modCore c f).capbase = s.capbase := rfl
@[simp] theorem State.window_modCore (s : State) (c : CoreId) (f : Core → Core) : (s.modCore c f).window = s.window := rfl
@[simp] theorem State.chip_modCore (s : State) (c : CoreId) (f : Core → Core) : (s.modCore c f).chip = s.chip := rfl
@[simp] theorem State.orders_modCore (s : State) (c : CoreId) (f : Core → Core) : (s.modCore c f).orders = s.orders := rfl
@[simp] theorem State.groups_modCore (s : State) (c : CoreId) (f : Core → Core) : (s.modCore c f).groups = s.groups := rfl
@[simp] theorem State.farDown_modCore (s : State) (c : CoreId) (f : Core → Core) : (s.modCore c f).farDown = s.farDown := rfl
@[simp] theorem State.lanes_modCore (s : State) (c : CoreId) (f : Core → Core) : (s.modCore c f).lanes = s.lanes := rfl
@[simp] theorem State.nextHost_modCore (s : State) (c : CoreId) (f : Core → Core) : (s.modCore c f).nextHost = s.nextHost := rfl
@[simp] theorem State.hostWait_modCore (s : State) (c : CoreId) (f : Core → Core) : (s.modCore c f).hostWait = s.hostWait := rfl
@[simp] theorem State.nets_modCore (s : State) (c : CoreId) (f : Core → Core) : (s.modCore c f).nets = s.nets := rfl
@[simp] theorem State.pfcPrio_modCore (s : State) (c : CoreId) (f : Core → Core) : (s.modCore c f).pfcPrio = s.pfcPrio := rfl
@[simp] theorem State.gone_modCore (s : State) (c : CoreId) (f : Core → Core) : (s.modCore c f).gone = s.gone := rfl
@[simp] theorem State.rings_modCore (s : State) (c : CoreId) (f : Core → Core) : (s.modCore c f).rings = s.rings := rfl
@[simp] theorem State.pages_modCore (s : State) (c : CoreId) (f : Core → Core) : (s.modCore c f).pages = s.pages := rfl
@[simp] theorem State.frames_modCore (s : State) (c : CoreId) (f : Core → Core) : (s.modCore c f).frames = s.frames := rfl
@[simp] theorem State.handles_modCore (s : State) (c : CoreId) (f : Core → Core) : (s.modCore c f).handles = s.handles := rfl
@[simp] theorem State.rkeys_modCore (s : State) (c : CoreId) (f : Core → Core) : (s.modCore c f).rkeys = s.rkeys := rfl
@[simp] theorem State.nextKey_modCore (s : State) (c : CoreId) (f : Core → Core) : (s.modCore c f).nextKey = s.nextKey := rfl
@[simp] theorem State.faults_modCore (s : State) (c : CoreId) (f : Core → Core) : (s.modCore c f).faults = s.faults := rfl
@[simp] theorem State.nextFault_modCore (s : State) (c : CoreId) (f : Core → Core) : (s.modCore c f).nextFault = s.nextFault := rfl
@[simp] theorem State.ringTables_modCore (s : State) (c : CoreId) (f : Core → Core) : (s.modCore c f).ringTables = s.ringTables := rfl
@[simp] theorem State.wgt_modCore (s : State) (c : CoreId) (f : Core → Core) : (s.modCore c f).wgt = s.wgt := rfl
@[simp] theorem State.ports_modCore (s : State) (c : CoreId) (f : Core → Core) : (s.modCore c f).ports = s.ports := rfl
@[simp] theorem State.sent_modCore (s : State) (c : CoreId) (f : Core → Core) : (s.modCore c f).sent = s.sent := rfl
@[simp] theorem State.dups_modCore (s : State) (c : CoreId) (f : Core → Core) : (s.modCore c f).dups = s.dups := rfl
@[simp] theorem State.heldOps_modCore (s : State) (c : CoreId) (f : Core → Core) : (s.modCore c f).heldOps = s.heldOps := rfl
@[simp] theorem State.flying_modCore (s : State) (c : CoreId) (f : Core → Core) : (s.modCore c f).flying = s.flying := rfl
@[simp] theorem State.chunks_modCore (s : State) (c : CoreId) (f : Core → Core) : (s.modCore c f).chunks = s.chunks := rfl
@[simp] theorem State.strays_modCore (s : State) (c : CoreId) (f : Core → Core) : (s.modCore c f).strays = s.strays := rfl
@[simp] theorem State.bulks_modCore (s : State) (c : CoreId) (f : Core → Core) : (s.modCore c f).bulks = s.bulks := rfl
@[simp] theorem State.missed_modCore (s : State) (c : CoreId) (f : Core → Core) : (s.modCore c f).missed = s.missed := rfl
@[simp] theorem State.hostOps_modCore (s : State) (c : CoreId) (f : Core → Core) : (s.modCore c f).hostOps = s.hostOps := rfl
@[simp] theorem State.loads_modCore (s : State) (c : CoreId) (f : Core → Core) : (s.modCore c f).loads = s.loads := rfl
@[simp] theorem State.nextLoad_modCore (s : State) (c : CoreId) (f : Core → Core) : (s.modCore c f).nextLoad = s.nextLoad := rfl
@[simp] theorem State.vfs_modCore (s : State) (c : CoreId) (f : Core → Core) : (s.modCore c f).vfs = s.vfs := rfl
@[simp] theorem State.paused_modCore (s : State) (c : CoreId) (f : Core → Core) : (s.modCore c f).paused = s.paused := rfl
@[simp] theorem State.hostMem_modCore (s : State) (c : CoreId) (f : Core → Core) : (s.modCore c f).hostMem = s.hostMem := rfl
@[simp] theorem State.peerMem_modCore (s : State) (c : CoreId) (f : Core → Core) : (s.modCore c f).peerMem = s.peerMem := rfl
@[simp] theorem State.out_modCore (s : State) (c : CoreId) (f : Core → Core) : (s.modCore c f).out = s.out := rfl
@[simp] theorem State.inj_modCore (s : State) (c : CoreId) (f : Core → Core) : (s.modCore c f).inj = s.inj := rfl
@[simp] theorem State.tele_modCore (s : State) (c : CoreId) (f : Core → Core) : (s.modCore c f).tele = s.tele := rfl
@[simp] theorem State.clock_modCore (s : State) (c : CoreId) (f : Core → Core) : (s.modCore c f).clock = s.clock := rfl
@[simp] theorem State.power_modCore (s : State) (c : CoreId) (f : Core → Core) : (s.modCore c f).power = s.power := rfl
@[simp] theorem State.harbour_modCore (s : State) (c : CoreId) (f : Core → Core) : (s.modCore c f).harbour = s.harbour := rfl
@[simp] theorem State.boot_modCore (s : State) (c : CoreId) (f : Core → Core) : (s.modCore c f).boot = s.boot := rfl
@[simp] theorem State.quays_modCore (s : State) (c : CoreId) (f : Core → Core) : (s.modCore c f).quays = s.quays := rfl
@[simp] theorem State.hbmStacks_modCore (s : State) (c : CoreId) (f : Core → Core) : (s.modCore c f).hbmStacks = s.hbmStacks := rfl

-- chosen

@[simp] theorem State.tnow_chosen (s : State) : (s.chosen).tnow = s.tnow := rfl
@[simp] theorem State.turn_chosen (s : State) : (s.chosen).turn = s.turn := rfl
@[simp] theorem State.agenda_chosen (s : State) : (s.chosen).agenda = s.agenda := rfl
@[simp] theorem State.cores_chosen (s : State) : (s.chosen).cores = s.cores := rfl
@[simp] theorem State.hbm_chosen (s : State) : (s.chosen).hbm = s.hbm := rfl
@[simp] theorem State.fw_chosen (s : State) : (s.chosen).fw = s.fw := rfl
@[simp] theorem State.bars_chosen (s : State) : (s.chosen).bars = s.bars := rfl
@[simp] theorem State.l3_chosen (s : State) : (s.chosen).l3 = s.l3 := rfl
@[simp] theorem State.parts_chosen (s : State) : (s.chosen).parts = s.parts := rfl
@[simp] theorem State.capbase_chosen (s : State) : (s.chosen).capbase = s.capbase := rfl
@[simp] theorem State.window_chosen (s : State) : (s.chosen).window = s.window := rfl
@[simp] theorem State.chip_chosen (s : State) : (s.chosen).chip = s.chip := rfl
@[simp] theorem State.orders_chosen (s : State) : (s.chosen).orders = s.orders := rfl
@[simp] theorem State.groups_chosen (s : State) : (s.chosen).groups = s.groups := rfl
@[simp] theorem State.farDown_chosen (s : State) : (s.chosen).farDown = s.farDown := rfl
@[simp] theorem State.lanes_chosen (s : State) : (s.chosen).lanes = s.lanes := rfl
@[simp] theorem State.nextHost_chosen (s : State) : (s.chosen).nextHost = s.nextHost := rfl
@[simp] theorem State.hostWait_chosen (s : State) : (s.chosen).hostWait = s.hostWait := rfl
@[simp] theorem State.nets_chosen (s : State) : (s.chosen).nets = s.nets := rfl
@[simp] theorem State.pfcPrio_chosen (s : State) : (s.chosen).pfcPrio = s.pfcPrio := rfl
@[simp] theorem State.gone_chosen (s : State) : (s.chosen).gone = s.gone := rfl
@[simp] theorem State.rings_chosen (s : State) : (s.chosen).rings = s.rings := rfl
@[simp] theorem State.pages_chosen (s : State) : (s.chosen).pages = s.pages := rfl
@[simp] theorem State.frames_chosen (s : State) : (s.chosen).frames = s.frames := rfl
@[simp] theorem State.handles_chosen (s : State) : (s.chosen).handles = s.handles := rfl
@[simp] theorem State.rkeys_chosen (s : State) : (s.chosen).rkeys = s.rkeys := rfl
@[simp] theorem State.nextKey_chosen (s : State) : (s.chosen).nextKey = s.nextKey := rfl
@[simp] theorem State.faults_chosen (s : State) : (s.chosen).faults = s.faults := rfl
@[simp] theorem State.nextFault_chosen (s : State) : (s.chosen).nextFault = s.nextFault := rfl
@[simp] theorem State.ringTables_chosen (s : State) : (s.chosen).ringTables = s.ringTables := rfl
@[simp] theorem State.wgt_chosen (s : State) : (s.chosen).wgt = s.wgt := rfl
@[simp] theorem State.ports_chosen (s : State) : (s.chosen).ports = s.ports := rfl
@[simp] theorem State.sent_chosen (s : State) : (s.chosen).sent = s.sent := rfl
@[simp] theorem State.dups_chosen (s : State) : (s.chosen).dups = s.dups := rfl
@[simp] theorem State.heldOps_chosen (s : State) : (s.chosen).heldOps = s.heldOps := rfl
@[simp] theorem State.flying_chosen (s : State) : (s.chosen).flying = s.flying := rfl
@[simp] theorem State.chunks_chosen (s : State) : (s.chosen).chunks = s.chunks := rfl
@[simp] theorem State.strays_chosen (s : State) : (s.chosen).strays = s.strays := rfl
@[simp] theorem State.bulks_chosen (s : State) : (s.chosen).bulks = s.bulks := rfl
@[simp] theorem State.missed_chosen (s : State) : (s.chosen).missed = s.missed := rfl
@[simp] theorem State.hostOps_chosen (s : State) : (s.chosen).hostOps = s.hostOps := rfl
@[simp] theorem State.loads_chosen (s : State) : (s.chosen).loads = s.loads := rfl
@[simp] theorem State.nextLoad_chosen (s : State) : (s.chosen).nextLoad = s.nextLoad := rfl
@[simp] theorem State.vfs_chosen (s : State) : (s.chosen).vfs = s.vfs := rfl
@[simp] theorem State.paused_chosen (s : State) : (s.chosen).paused = s.paused := rfl
@[simp] theorem State.hostMem_chosen (s : State) : (s.chosen).hostMem = s.hostMem := rfl
@[simp] theorem State.peerMem_chosen (s : State) : (s.chosen).peerMem = s.peerMem := rfl
@[simp] theorem State.out_chosen (s : State) : (s.chosen).out = s.out := rfl
@[simp] theorem State.inj_chosen (s : State) : (s.chosen).inj = s.inj := rfl
@[simp] theorem State.tele_chosen (s : State) : (s.chosen).tele = s.tele := rfl
@[simp] theorem State.clock_chosen (s : State) : (s.chosen).clock = s.clock := rfl
@[simp] theorem State.power_chosen (s : State) : (s.chosen).power = s.power := rfl
@[simp] theorem State.harbour_chosen (s : State) : (s.chosen).harbour = s.harbour := rfl
@[simp] theorem State.boot_chosen (s : State) : (s.chosen).boot = s.boot := rfl
@[simp] theorem State.quays_chosen (s : State) : (s.chosen).quays = s.quays := rfl
@[simp] theorem State.hbmStacks_chosen (s : State) : (s.chosen).hbmStacks = s.hbmStacks := rfl

@[simp] theorem State.choices_chosen (s : State) : s.chosen.choices = s.choices.tail := rfl
@[simp] theorem State.core_chosen (s : State) (c : CoreId) : s.chosen.core c = s.core c := rfl
@[simp] theorem State.cur_setCore (s : State) (c : CoreId) (k : Core) : (s.setCore c k).cur = s.cur := rfl
@[simp] theorem State.cur_modCore (s : State) (c : CoreId) (f : Core → Core) : (s.modCore c f).cur = s.cur := rfl
@[simp] theorem State.choice_setCore (s : State) (c : CoreId) (k : Core) : (s.setCore c k).choice = s.choice := rfl

-- postRecord

@[simp] theorem State.tnow_postRecord (s : State) (c : CoreId) (r : FwRecord) : (s.postRecord c r).tnow = s.tnow := rfl
@[simp] theorem State.turn_postRecord (s : State) (c : CoreId) (r : FwRecord) : (s.postRecord c r).turn = s.turn := rfl
@[simp] theorem State.agenda_postRecord (s : State) (c : CoreId) (r : FwRecord) : (s.postRecord c r).agenda = s.agenda := rfl
@[simp] theorem State.choices_postRecord (s : State) (c : CoreId) (r : FwRecord) : (s.postRecord c r).choices = s.choices := rfl
@[simp] theorem State.hbm_postRecord (s : State) (c : CoreId) (r : FwRecord) : (s.postRecord c r).hbm = s.hbm := rfl
@[simp] theorem State.bars_postRecord (s : State) (c : CoreId) (r : FwRecord) : (s.postRecord c r).bars = s.bars := rfl
@[simp] theorem State.l3_postRecord (s : State) (c : CoreId) (r : FwRecord) : (s.postRecord c r).l3 = s.l3 := rfl
@[simp] theorem State.parts_postRecord (s : State) (c : CoreId) (r : FwRecord) : (s.postRecord c r).parts = s.parts := rfl
@[simp] theorem State.capbase_postRecord (s : State) (c : CoreId) (r : FwRecord) : (s.postRecord c r).capbase = s.capbase := rfl
@[simp] theorem State.window_postRecord (s : State) (c : CoreId) (r : FwRecord) : (s.postRecord c r).window = s.window := rfl
@[simp] theorem State.chip_postRecord (s : State) (c : CoreId) (r : FwRecord) : (s.postRecord c r).chip = s.chip := rfl
@[simp] theorem State.orders_postRecord (s : State) (c : CoreId) (r : FwRecord) : (s.postRecord c r).orders = s.orders := rfl
@[simp] theorem State.groups_postRecord (s : State) (c : CoreId) (r : FwRecord) : (s.postRecord c r).groups = s.groups := rfl
@[simp] theorem State.farDown_postRecord (s : State) (c : CoreId) (r : FwRecord) : (s.postRecord c r).farDown = s.farDown := rfl
@[simp] theorem State.lanes_postRecord (s : State) (c : CoreId) (r : FwRecord) : (s.postRecord c r).lanes = s.lanes := rfl
@[simp] theorem State.nextHost_postRecord (s : State) (c : CoreId) (r : FwRecord) : (s.postRecord c r).nextHost = s.nextHost := rfl
@[simp] theorem State.hostWait_postRecord (s : State) (c : CoreId) (r : FwRecord) : (s.postRecord c r).hostWait = s.hostWait := rfl
@[simp] theorem State.nets_postRecord (s : State) (c : CoreId) (r : FwRecord) : (s.postRecord c r).nets = s.nets := rfl
@[simp] theorem State.pfcPrio_postRecord (s : State) (c : CoreId) (r : FwRecord) : (s.postRecord c r).pfcPrio = s.pfcPrio := rfl
@[simp] theorem State.gone_postRecord (s : State) (c : CoreId) (r : FwRecord) : (s.postRecord c r).gone = s.gone := rfl
@[simp] theorem State.rings_postRecord (s : State) (c : CoreId) (r : FwRecord) : (s.postRecord c r).rings = s.rings := rfl
@[simp] theorem State.pages_postRecord (s : State) (c : CoreId) (r : FwRecord) : (s.postRecord c r).pages = s.pages := rfl
@[simp] theorem State.frames_postRecord (s : State) (c : CoreId) (r : FwRecord) : (s.postRecord c r).frames = s.frames := rfl
@[simp] theorem State.handles_postRecord (s : State) (c : CoreId) (r : FwRecord) : (s.postRecord c r).handles = s.handles := rfl
@[simp] theorem State.rkeys_postRecord (s : State) (c : CoreId) (r : FwRecord) : (s.postRecord c r).rkeys = s.rkeys := rfl
@[simp] theorem State.nextKey_postRecord (s : State) (c : CoreId) (r : FwRecord) : (s.postRecord c r).nextKey = s.nextKey := rfl
@[simp] theorem State.faults_postRecord (s : State) (c : CoreId) (r : FwRecord) : (s.postRecord c r).faults = s.faults := rfl
@[simp] theorem State.nextFault_postRecord (s : State) (c : CoreId) (r : FwRecord) : (s.postRecord c r).nextFault = s.nextFault := rfl
@[simp] theorem State.ringTables_postRecord (s : State) (c : CoreId) (r : FwRecord) : (s.postRecord c r).ringTables = s.ringTables := rfl
@[simp] theorem State.wgt_postRecord (s : State) (c : CoreId) (r : FwRecord) : (s.postRecord c r).wgt = s.wgt := rfl
@[simp] theorem State.ports_postRecord (s : State) (c : CoreId) (r : FwRecord) : (s.postRecord c r).ports = s.ports := rfl
@[simp] theorem State.sent_postRecord (s : State) (c : CoreId) (r : FwRecord) : (s.postRecord c r).sent = s.sent := rfl
@[simp] theorem State.dups_postRecord (s : State) (c : CoreId) (r : FwRecord) : (s.postRecord c r).dups = s.dups := rfl
@[simp] theorem State.heldOps_postRecord (s : State) (c : CoreId) (r : FwRecord) : (s.postRecord c r).heldOps = s.heldOps := rfl
@[simp] theorem State.flying_postRecord (s : State) (c : CoreId) (r : FwRecord) : (s.postRecord c r).flying = s.flying := rfl
@[simp] theorem State.chunks_postRecord (s : State) (c : CoreId) (r : FwRecord) : (s.postRecord c r).chunks = s.chunks := rfl
@[simp] theorem State.strays_postRecord (s : State) (c : CoreId) (r : FwRecord) : (s.postRecord c r).strays = s.strays := rfl
@[simp] theorem State.bulks_postRecord (s : State) (c : CoreId) (r : FwRecord) : (s.postRecord c r).bulks = s.bulks := rfl
@[simp] theorem State.missed_postRecord (s : State) (c : CoreId) (r : FwRecord) : (s.postRecord c r).missed = s.missed := rfl
@[simp] theorem State.hostOps_postRecord (s : State) (c : CoreId) (r : FwRecord) : (s.postRecord c r).hostOps = s.hostOps := rfl
@[simp] theorem State.loads_postRecord (s : State) (c : CoreId) (r : FwRecord) : (s.postRecord c r).loads = s.loads := rfl
@[simp] theorem State.nextLoad_postRecord (s : State) (c : CoreId) (r : FwRecord) : (s.postRecord c r).nextLoad = s.nextLoad := rfl
@[simp] theorem State.vfs_postRecord (s : State) (c : CoreId) (r : FwRecord) : (s.postRecord c r).vfs = s.vfs := rfl
@[simp] theorem State.paused_postRecord (s : State) (c : CoreId) (r : FwRecord) : (s.postRecord c r).paused = s.paused := rfl
@[simp] theorem State.hostMem_postRecord (s : State) (c : CoreId) (r : FwRecord) : (s.postRecord c r).hostMem = s.hostMem := rfl
@[simp] theorem State.peerMem_postRecord (s : State) (c : CoreId) (r : FwRecord) : (s.postRecord c r).peerMem = s.peerMem := rfl
@[simp] theorem State.out_postRecord (s : State) (c : CoreId) (r : FwRecord) : (s.postRecord c r).out = s.out := rfl
@[simp] theorem State.inj_postRecord (s : State) (c : CoreId) (r : FwRecord) : (s.postRecord c r).inj = s.inj := rfl
@[simp] theorem State.tele_postRecord (s : State) (c : CoreId) (r : FwRecord) : (s.postRecord c r).tele = s.tele := rfl
@[simp] theorem State.clock_postRecord (s : State) (c : CoreId) (r : FwRecord) : (s.postRecord c r).clock = s.clock := rfl
@[simp] theorem State.power_postRecord (s : State) (c : CoreId) (r : FwRecord) : (s.postRecord c r).power = s.power := rfl
@[simp] theorem State.harbour_postRecord (s : State) (c : CoreId) (r : FwRecord) : (s.postRecord c r).harbour = s.harbour := rfl
@[simp] theorem State.boot_postRecord (s : State) (c : CoreId) (r : FwRecord) : (s.postRecord c r).boot = s.boot := rfl
@[simp] theorem State.quays_postRecord (s : State) (c : CoreId) (r : FwRecord) : (s.postRecord c r).quays = s.quays := rfl
@[simp] theorem State.hbmStacks_postRecord (s : State) (c : CoreId) (r : FwRecord) : (s.postRecord c r).hbmStacks = s.hbmStacks := rfl

@[simp] theorem State.fw_postRecord (s : State) (c : CoreId) (r : FwRecord) : (s.postRecord c r).fw = s.fw ++ [r] := rfl

-- A task cycle

@[simp] theorem Core.regs_taskCycle (k : Core) : (k.taskCycle).regs = k.regs := rfl
@[simp] theorem Core.bank_taskCycle (k : Core) : (k.taskCycle).bank = k.bank := rfl
@[simp] theorem Core.pc_taskCycle (k : Core) : (k.taskCycle).pc = k.pc := rfl
@[simp] theorem Core.via_taskCycle (k : Core) : (k.taskCycle).via = k.via := rfl
@[simp] theorem Core.run_taskCycle (k : Core) : (k.taskCycle).run = k.run := rfl
@[simp] theorem Core.origin_taskCycle (k : Core) : (k.taskCycle).origin = k.origin := rfl
@[simp] theorem Core.task_taskCycle (k : Core) : (k.taskCycle).task = k.task := rfl
@[simp] theorem Core.bubble_taskCycle (k : Core) : (k.taskCycle).bubble = k.bubble := rfl
@[simp] theorem Core.bundle_taskCycle (k : Core) : (k.taskCycle).bundle = k.bundle := rfl
@[simp] theorem Core.freeze_taskCycle (k : Core) : (k.taskCycle).freeze = k.freeze := rfl
@[simp] theorem Core.pend_taskCycle (k : Core) : (k.taskCycle).pend = k.pend := rfl
@[simp] theorem Core.buf_taskCycle (k : Core) : (k.taskCycle).buf = k.buf := rfl
@[simp] theorem Core.arrivals_taskCycle (k : Core) : (k.taskCycle).arrivals = k.arrivals := rfl
@[simp] theorem Core.lastArr_taskCycle (k : Core) : (k.taskCycle).lastArr = k.lastArr := rfl
@[simp] theorem Core.phase_taskCycle (k : Core) : (k.taskCycle).phase = k.phase := rfl
@[simp] theorem Core.part_taskCycle (k : Core) : (k.taskCycle).part = k.part := rfl
@[simp] theorem Core.first_taskCycle (k : Core) : (k.taskCycle).first = k.first := rfl
@[simp] theorem Core.relT_taskCycle (k : Core) : (k.taskCycle).relT = k.relT := rfl
@[simp] theorem Core.entering_taskCycle (k : Core) : (k.taskCycle).entering = k.entering := rfl
@[simp] theorem Core.landing_taskCycle (k : Core) : (k.taskCycle).landing = k.landing := rfl
@[simp] theorem Core.ct_taskCycle (k : Core) : (k.taskCycle).ct = k.ct + 1 := rfl
@[simp] theorem Core.releases_taskCycle (k : Core) : (k.taskCycle).releases = k.releases := rfl
@[simp] theorem Core.notes_taskCycle (k : Core) : (k.taskCycle).notes = k.notes := rfl
@[simp] theorem Core.inj_taskCycle (k : Core) : (k.taskCycle).inj = k.inj := rfl
@[simp] theorem Core.sems_taskCycle (k : Core) : (k.taskCycle).sems = k.sems := rfl
@[simp] theorem Core.berths_taskCycle (k : Core) : (k.taskCycle).berths = k.berths := rfl
@[simp] theorem Core.sp_taskCycle (k : Core) : (k.taskCycle).sp = k.sp := rfl
@[simp] theorem Core.hold_taskCycle (k : Core) : (k.taskCycle).hold = k.hold := rfl
@[simp] theorem Core.holdErr_taskCycle (k : Core) : (k.taskCycle).holdErr = k.holdErr := rfl
@[simp] theorem Core.planes_taskCycle (k : Core) : (k.taskCycle).planes = k.planes := rfl
@[simp] theorem Core.act_taskCycle (k : Core) : (k.taskCycle).act = k.act := rfl
@[simp] theorem Core.shrdy_taskCycle (k : Core) : (k.taskCycle).shrdy = k.shrdy := rfl
@[simp] theorem Core.swreq_taskCycle (k : Core) : (k.taskCycle).swreq = k.swreq := rfl
@[simp] theorem Core.loading_taskCycle (k : Core) : (k.taskCycle).loading = k.loading := rfl
@[simp] theorem Core.spawnq_taskCycle (k : Core) : (k.taskCycle).spawnq = k.spawnq := rfl
@[simp] theorem Core.spawnAt_taskCycle (k : Core) : (k.taskCycle).spawnAt = k.spawnAt := rfl
@[simp] theorem Core.spawnSeq_taskCycle (k : Core) : (k.taskCycle).spawnSeq = k.spawnSeq := rfl
@[simp] theorem Core.missed_taskCycle (k : Core) : (k.taskCycle).missed = k.missed := rfl
@[simp] theorem Core.suspended_taskCycle (k : Core) : (k.taskCycle).suspended = k.suspended := rfl
@[simp] theorem Core.resumeWait_taskCycle (k : Core) : (k.taskCycle).resumeWait = k.resumeWait := rfl
@[simp] theorem Core.exits_taskCycle (k : Core) : (k.taskCycle).exits = k.exits := rfl
@[simp] theorem Core.mx_taskCycle (k : Core) : (k.taskCycle).mx = k.mx.age := rfl
@[simp] theorem Core.queue_taskCycle (k : Core) : (k.taskCycle).queue = k.queue := rfl
@[simp] theorem Core.nextCmd_taskCycle (k : Core) : (k.taskCycle).nextCmd = k.nextCmd := rfl
@[simp] theorem Core.nextTask_taskCycle (k : Core) : (k.taskCycle).nextTask = k.nextTask := rfl
@[simp] theorem Core.fences_taskCycle (k : Core) : (k.taskCycle).fences = k.fences := rfl
@[simp] theorem Core.cache_taskCycle (k : Core) : (k.taskCycle).cache = k.cache := rfl
@[simp] theorem Core.caps_taskCycle (k : Core) : (k.taskCycle).caps = k.caps := rfl
@[simp] theorem Core.sweep_taskCycle (k : Core) : (k.taskCycle).sweep = k.sweep := rfl
@[simp] theorem Core.context_taskCycle (k : Core) : (k.taskCycle).context = k.context := rfl
@[simp] theorem Core.fabSeq_taskCycle (k : Core) : (k.taskCycle).fabSeq = k.fabSeq := rfl
@[simp] theorem Core.ranges_taskCycle (k : Core) : (k.taskCycle).ranges = k.ranges := rfl
@[simp] theorem Core.laneConf_taskCycle (k : Core) : (k.taskCycle).laneConf = k.laneConf := rfl
@[simp] theorem Core.faultRecs_taskCycle (k : Core) : (k.taskCycle).faultRecs = k.faultRecs := rfl
@[simp] theorem Core.spCorr_taskCycle (k : Core) : (k.taskCycle).spCorr = k.spCorr := rfl
@[simp] theorem Core.accCorr_taskCycle (k : Core) : (k.taskCycle).accCorr = k.accCorr := rfl
@[simp] theorem Core.gen_taskCycle (k : Core) : (k.taskCycle).gen = k.gen := rfl

@[simp] theorem Core.mt_taskCycle (k : Core) : k.taskCycle.mt = k.mt + 1 := rfl
@[simp] theorem Core.tcyc_taskCycle (k : Core) : k.taskCycle.csr.tcyc = k.csr.tcyc + 1 := rfl

-- A frozen cycle

@[simp] theorem Core.regs_slipCycle (k : Core) : (k.slipCycle).regs = k.regs := rfl
@[simp] theorem Core.bank_slipCycle (k : Core) : (k.slipCycle).bank = k.bank := rfl
@[simp] theorem Core.pc_slipCycle (k : Core) : (k.slipCycle).pc = k.pc := rfl
@[simp] theorem Core.via_slipCycle (k : Core) : (k.slipCycle).via = k.via := rfl
@[simp] theorem Core.run_slipCycle (k : Core) : (k.slipCycle).run = k.run := rfl
@[simp] theorem Core.origin_slipCycle (k : Core) : (k.slipCycle).origin = k.origin := rfl
@[simp] theorem Core.task_slipCycle (k : Core) : (k.slipCycle).task = k.task := rfl
@[simp] theorem Core.bubble_slipCycle (k : Core) : (k.slipCycle).bubble = k.bubble := rfl
@[simp] theorem Core.bundle_slipCycle (k : Core) : (k.slipCycle).bundle = k.bundle := rfl
@[simp] theorem Core.freeze_slipCycle (k : Core) : (k.slipCycle).freeze = k.freeze := rfl
@[simp] theorem Core.mt_slipCycle (k : Core) : (k.slipCycle).mt = k.mt := rfl
@[simp] theorem Core.pend_slipCycle (k : Core) : (k.slipCycle).pend = k.pend := rfl
@[simp] theorem Core.buf_slipCycle (k : Core) : (k.slipCycle).buf = k.buf := rfl
@[simp] theorem Core.arrivals_slipCycle (k : Core) : (k.slipCycle).arrivals = k.arrivals := rfl
@[simp] theorem Core.lastArr_slipCycle (k : Core) : (k.slipCycle).lastArr = k.lastArr := rfl
@[simp] theorem Core.phase_slipCycle (k : Core) : (k.slipCycle).phase = k.phase := rfl
@[simp] theorem Core.part_slipCycle (k : Core) : (k.slipCycle).part = k.part := rfl
@[simp] theorem Core.first_slipCycle (k : Core) : (k.slipCycle).first = k.first := rfl
@[simp] theorem Core.relT_slipCycle (k : Core) : (k.slipCycle).relT = k.relT := rfl
@[simp] theorem Core.entering_slipCycle (k : Core) : (k.slipCycle).entering = k.entering := rfl
@[simp] theorem Core.landing_slipCycle (k : Core) : (k.slipCycle).landing = k.landing := rfl
@[simp] theorem Core.ct_slipCycle (k : Core) : (k.slipCycle).ct = k.ct := rfl
@[simp] theorem Core.releases_slipCycle (k : Core) : (k.slipCycle).releases = k.releases := rfl
@[simp] theorem Core.notes_slipCycle (k : Core) : (k.slipCycle).notes = k.notes := rfl
@[simp] theorem Core.inj_slipCycle (k : Core) : (k.slipCycle).inj = k.inj := rfl
@[simp] theorem Core.sems_slipCycle (k : Core) : (k.slipCycle).sems = k.sems := rfl
@[simp] theorem Core.berths_slipCycle (k : Core) : (k.slipCycle).berths = k.berths := rfl
@[simp] theorem Core.sp_slipCycle (k : Core) : (k.slipCycle).sp = k.sp := rfl
@[simp] theorem Core.hold_slipCycle (k : Core) : (k.slipCycle).hold = k.hold := rfl
@[simp] theorem Core.holdErr_slipCycle (k : Core) : (k.slipCycle).holdErr = k.holdErr := rfl
@[simp] theorem Core.planes_slipCycle (k : Core) : (k.slipCycle).planes = k.planes := rfl
@[simp] theorem Core.act_slipCycle (k : Core) : (k.slipCycle).act = k.act := rfl
@[simp] theorem Core.shrdy_slipCycle (k : Core) : (k.slipCycle).shrdy = k.shrdy := rfl
@[simp] theorem Core.swreq_slipCycle (k : Core) : (k.slipCycle).swreq = k.swreq := rfl
@[simp] theorem Core.loading_slipCycle (k : Core) : (k.slipCycle).loading = k.loading := rfl
@[simp] theorem Core.spawnq_slipCycle (k : Core) : (k.slipCycle).spawnq = k.spawnq := rfl
@[simp] theorem Core.spawnAt_slipCycle (k : Core) : (k.slipCycle).spawnAt = k.spawnAt := rfl
@[simp] theorem Core.spawnSeq_slipCycle (k : Core) : (k.slipCycle).spawnSeq = k.spawnSeq := rfl
@[simp] theorem Core.missed_slipCycle (k : Core) : (k.slipCycle).missed = k.missed := rfl
@[simp] theorem Core.suspended_slipCycle (k : Core) : (k.slipCycle).suspended = k.suspended := rfl
@[simp] theorem Core.resumeWait_slipCycle (k : Core) : (k.slipCycle).resumeWait = k.resumeWait := rfl
@[simp] theorem Core.exits_slipCycle (k : Core) : (k.slipCycle).exits = k.exits := rfl
@[simp] theorem Core.mx_slipCycle (k : Core) : (k.slipCycle).mx = k.mx.age := rfl
@[simp] theorem Core.queue_slipCycle (k : Core) : (k.slipCycle).queue = k.queue := rfl
@[simp] theorem Core.nextCmd_slipCycle (k : Core) : (k.slipCycle).nextCmd = k.nextCmd := rfl
@[simp] theorem Core.nextTask_slipCycle (k : Core) : (k.slipCycle).nextTask = k.nextTask := rfl
@[simp] theorem Core.fences_slipCycle (k : Core) : (k.slipCycle).fences = k.fences := rfl
@[simp] theorem Core.cache_slipCycle (k : Core) : (k.slipCycle).cache = k.cache := rfl
@[simp] theorem Core.caps_slipCycle (k : Core) : (k.slipCycle).caps = k.caps := rfl
@[simp] theorem Core.sweep_slipCycle (k : Core) : (k.slipCycle).sweep = k.sweep := rfl
@[simp] theorem Core.context_slipCycle (k : Core) : (k.slipCycle).context = k.context := rfl
@[simp] theorem Core.fabSeq_slipCycle (k : Core) : (k.slipCycle).fabSeq = k.fabSeq := rfl
@[simp] theorem Core.ranges_slipCycle (k : Core) : (k.slipCycle).ranges = k.ranges := rfl
@[simp] theorem Core.laneConf_slipCycle (k : Core) : (k.slipCycle).laneConf = k.laneConf := rfl
@[simp] theorem Core.faultRecs_slipCycle (k : Core) : (k.slipCycle).faultRecs = k.faultRecs := rfl
@[simp] theorem Core.spCorr_slipCycle (k : Core) : (k.slipCycle).spCorr = k.spCorr := rfl
@[simp] theorem Core.accCorr_slipCycle (k : Core) : (k.slipCycle).accCorr = k.accCorr := rfl
@[simp] theorem Core.gen_slipCycle (k : Core) : (k.slipCycle).gen = k.gen := rfl

@[simp] theorem Core.slip_slipCycle (k : Core) : k.slipCycle.csr.slip = satAdd k.csr.slip 1 := rfl

-- A semaphore

@[simp] theorem Core.regs_modSem (k : Core) (n : BitVec 6) (f : Sem → Sem) : (k.modSem n f).regs = k.regs := rfl
@[simp] theorem Core.csr_modSem (k : Core) (n : BitVec 6) (f : Sem → Sem) : (k.modSem n f).csr = k.csr := rfl
@[simp] theorem Core.bank_modSem (k : Core) (n : BitVec 6) (f : Sem → Sem) : (k.modSem n f).bank = k.bank := rfl
@[simp] theorem Core.pc_modSem (k : Core) (n : BitVec 6) (f : Sem → Sem) : (k.modSem n f).pc = k.pc := rfl
@[simp] theorem Core.via_modSem (k : Core) (n : BitVec 6) (f : Sem → Sem) : (k.modSem n f).via = k.via := rfl
@[simp] theorem Core.run_modSem (k : Core) (n : BitVec 6) (f : Sem → Sem) : (k.modSem n f).run = k.run := rfl
@[simp] theorem Core.origin_modSem (k : Core) (n : BitVec 6) (f : Sem → Sem) : (k.modSem n f).origin = k.origin := rfl
@[simp] theorem Core.task_modSem (k : Core) (n : BitVec 6) (f : Sem → Sem) : (k.modSem n f).task = k.task := rfl
@[simp] theorem Core.bubble_modSem (k : Core) (n : BitVec 6) (f : Sem → Sem) : (k.modSem n f).bubble = k.bubble := rfl
@[simp] theorem Core.bundle_modSem (k : Core) (n : BitVec 6) (f : Sem → Sem) : (k.modSem n f).bundle = k.bundle := rfl
@[simp] theorem Core.freeze_modSem (k : Core) (n : BitVec 6) (f : Sem → Sem) : (k.modSem n f).freeze = k.freeze := rfl
@[simp] theorem Core.mt_modSem (k : Core) (n : BitVec 6) (f : Sem → Sem) : (k.modSem n f).mt = k.mt := rfl
@[simp] theorem Core.pend_modSem (k : Core) (n : BitVec 6) (f : Sem → Sem) : (k.modSem n f).pend = k.pend := rfl
@[simp] theorem Core.buf_modSem (k : Core) (n : BitVec 6) (f : Sem → Sem) : (k.modSem n f).buf = k.buf := rfl
@[simp] theorem Core.arrivals_modSem (k : Core) (n : BitVec 6) (f : Sem → Sem) : (k.modSem n f).arrivals = k.arrivals := rfl
@[simp] theorem Core.lastArr_modSem (k : Core) (n : BitVec 6) (f : Sem → Sem) : (k.modSem n f).lastArr = k.lastArr := rfl
@[simp] theorem Core.phase_modSem (k : Core) (n : BitVec 6) (f : Sem → Sem) : (k.modSem n f).phase = k.phase := rfl
@[simp] theorem Core.part_modSem (k : Core) (n : BitVec 6) (f : Sem → Sem) : (k.modSem n f).part = k.part := rfl
@[simp] theorem Core.first_modSem (k : Core) (n : BitVec 6) (f : Sem → Sem) : (k.modSem n f).first = k.first := rfl
@[simp] theorem Core.relT_modSem (k : Core) (n : BitVec 6) (f : Sem → Sem) : (k.modSem n f).relT = k.relT := rfl
@[simp] theorem Core.entering_modSem (k : Core) (n : BitVec 6) (f : Sem → Sem) : (k.modSem n f).entering = k.entering := rfl
@[simp] theorem Core.landing_modSem (k : Core) (n : BitVec 6) (f : Sem → Sem) : (k.modSem n f).landing = k.landing := rfl
@[simp] theorem Core.ct_modSem (k : Core) (n : BitVec 6) (f : Sem → Sem) : (k.modSem n f).ct = k.ct := rfl
@[simp] theorem Core.releases_modSem (k : Core) (n : BitVec 6) (f : Sem → Sem) : (k.modSem n f).releases = k.releases := rfl
@[simp] theorem Core.notes_modSem (k : Core) (n : BitVec 6) (f : Sem → Sem) : (k.modSem n f).notes = k.notes := rfl
@[simp] theorem Core.inj_modSem (k : Core) (n : BitVec 6) (f : Sem → Sem) : (k.modSem n f).inj = k.inj := rfl
@[simp] theorem Core.berths_modSem (k : Core) (n : BitVec 6) (f : Sem → Sem) : (k.modSem n f).berths = k.berths := rfl
@[simp] theorem Core.sp_modSem (k : Core) (n : BitVec 6) (f : Sem → Sem) : (k.modSem n f).sp = k.sp := rfl
@[simp] theorem Core.hold_modSem (k : Core) (n : BitVec 6) (f : Sem → Sem) : (k.modSem n f).hold = k.hold := rfl
@[simp] theorem Core.holdErr_modSem (k : Core) (n : BitVec 6) (f : Sem → Sem) : (k.modSem n f).holdErr = k.holdErr := rfl
@[simp] theorem Core.planes_modSem (k : Core) (n : BitVec 6) (f : Sem → Sem) : (k.modSem n f).planes = k.planes := rfl
@[simp] theorem Core.act_modSem (k : Core) (n : BitVec 6) (f : Sem → Sem) : (k.modSem n f).act = k.act := rfl
@[simp] theorem Core.shrdy_modSem (k : Core) (n : BitVec 6) (f : Sem → Sem) : (k.modSem n f).shrdy = k.shrdy := rfl
@[simp] theorem Core.swreq_modSem (k : Core) (n : BitVec 6) (f : Sem → Sem) : (k.modSem n f).swreq = k.swreq := rfl
@[simp] theorem Core.loading_modSem (k : Core) (n : BitVec 6) (f : Sem → Sem) : (k.modSem n f).loading = k.loading := rfl
@[simp] theorem Core.spawnq_modSem (k : Core) (n : BitVec 6) (f : Sem → Sem) : (k.modSem n f).spawnq = k.spawnq := rfl
@[simp] theorem Core.spawnAt_modSem (k : Core) (n : BitVec 6) (f : Sem → Sem) : (k.modSem n f).spawnAt = k.spawnAt := rfl
@[simp] theorem Core.spawnSeq_modSem (k : Core) (n : BitVec 6) (f : Sem → Sem) : (k.modSem n f).spawnSeq = k.spawnSeq := rfl
@[simp] theorem Core.missed_modSem (k : Core) (n : BitVec 6) (f : Sem → Sem) : (k.modSem n f).missed = k.missed := rfl
@[simp] theorem Core.suspended_modSem (k : Core) (n : BitVec 6) (f : Sem → Sem) : (k.modSem n f).suspended = k.suspended := rfl
@[simp] theorem Core.resumeWait_modSem (k : Core) (n : BitVec 6) (f : Sem → Sem) : (k.modSem n f).resumeWait = k.resumeWait := rfl
@[simp] theorem Core.exits_modSem (k : Core) (n : BitVec 6) (f : Sem → Sem) : (k.modSem n f).exits = k.exits := rfl
@[simp] theorem Core.mx_modSem (k : Core) (n : BitVec 6) (f : Sem → Sem) : (k.modSem n f).mx = k.mx := rfl
@[simp] theorem Core.queue_modSem (k : Core) (n : BitVec 6) (f : Sem → Sem) : (k.modSem n f).queue = k.queue := rfl
@[simp] theorem Core.nextCmd_modSem (k : Core) (n : BitVec 6) (f : Sem → Sem) : (k.modSem n f).nextCmd = k.nextCmd := rfl
@[simp] theorem Core.nextTask_modSem (k : Core) (n : BitVec 6) (f : Sem → Sem) : (k.modSem n f).nextTask = k.nextTask := rfl
@[simp] theorem Core.fences_modSem (k : Core) (n : BitVec 6) (f : Sem → Sem) : (k.modSem n f).fences = k.fences := rfl
@[simp] theorem Core.cache_modSem (k : Core) (n : BitVec 6) (f : Sem → Sem) : (k.modSem n f).cache = k.cache := rfl
@[simp] theorem Core.caps_modSem (k : Core) (n : BitVec 6) (f : Sem → Sem) : (k.modSem n f).caps = k.caps := rfl
@[simp] theorem Core.sweep_modSem (k : Core) (n : BitVec 6) (f : Sem → Sem) : (k.modSem n f).sweep = k.sweep := rfl
@[simp] theorem Core.context_modSem (k : Core) (n : BitVec 6) (f : Sem → Sem) : (k.modSem n f).context = k.context := rfl
@[simp] theorem Core.fabSeq_modSem (k : Core) (n : BitVec 6) (f : Sem → Sem) : (k.modSem n f).fabSeq = k.fabSeq := rfl
@[simp] theorem Core.ranges_modSem (k : Core) (n : BitVec 6) (f : Sem → Sem) : (k.modSem n f).ranges = k.ranges := rfl
@[simp] theorem Core.laneConf_modSem (k : Core) (n : BitVec 6) (f : Sem → Sem) : (k.modSem n f).laneConf = k.laneConf := rfl
@[simp] theorem Core.faultRecs_modSem (k : Core) (n : BitVec 6) (f : Sem → Sem) : (k.modSem n f).faultRecs = k.faultRecs := rfl
@[simp] theorem Core.spCorr_modSem (k : Core) (n : BitVec 6) (f : Sem → Sem) : (k.modSem n f).spCorr = k.spCorr := rfl
@[simp] theorem Core.accCorr_modSem (k : Core) (n : BitVec 6) (f : Sem → Sem) : (k.modSem n f).accCorr = k.accCorr := rfl
@[simp] theorem Core.gen_modSem (k : Core) (n : BitVec 6) (f : Sem → Sem) : (k.modSem n f).gen = k.gen := rfl

@[simp] theorem Core.sem_modSem (k : Core) (n : BitVec 6) (f : Sem → Sem) : (k.modSem n f).sem n = f (k.sem n) := by
  simp [Core.sem, Core.modSem]
theorem Core.sem_modSem_ne (k : Core) {m n : BitVec 6} (f : Sem → Sem) (h : m ≠ n) : (k.modSem n f).sem m = k.sem m := by
  have : n.toNat ≠ m.toNat := fun e => h (BitVec.eq_of_toNat_eq e.symm)
  simp [Core.sem, Core.modSem, Vector.getElem_set_ne, this]

-- A berth

@[simp] theorem Core.regs_modBerth (k : Core) (n : BitVec 5) (f : Berth → Berth) : (k.modBerth n f).regs = k.regs := rfl
@[simp] theorem Core.csr_modBerth (k : Core) (n : BitVec 5) (f : Berth → Berth) : (k.modBerth n f).csr = k.csr := rfl
@[simp] theorem Core.bank_modBerth (k : Core) (n : BitVec 5) (f : Berth → Berth) : (k.modBerth n f).bank = k.bank := rfl
@[simp] theorem Core.pc_modBerth (k : Core) (n : BitVec 5) (f : Berth → Berth) : (k.modBerth n f).pc = k.pc := rfl
@[simp] theorem Core.via_modBerth (k : Core) (n : BitVec 5) (f : Berth → Berth) : (k.modBerth n f).via = k.via := rfl
@[simp] theorem Core.run_modBerth (k : Core) (n : BitVec 5) (f : Berth → Berth) : (k.modBerth n f).run = k.run := rfl
@[simp] theorem Core.origin_modBerth (k : Core) (n : BitVec 5) (f : Berth → Berth) : (k.modBerth n f).origin = k.origin := rfl
@[simp] theorem Core.task_modBerth (k : Core) (n : BitVec 5) (f : Berth → Berth) : (k.modBerth n f).task = k.task := rfl
@[simp] theorem Core.bubble_modBerth (k : Core) (n : BitVec 5) (f : Berth → Berth) : (k.modBerth n f).bubble = k.bubble := rfl
@[simp] theorem Core.bundle_modBerth (k : Core) (n : BitVec 5) (f : Berth → Berth) : (k.modBerth n f).bundle = k.bundle := rfl
@[simp] theorem Core.freeze_modBerth (k : Core) (n : BitVec 5) (f : Berth → Berth) : (k.modBerth n f).freeze = k.freeze := rfl
@[simp] theorem Core.mt_modBerth (k : Core) (n : BitVec 5) (f : Berth → Berth) : (k.modBerth n f).mt = k.mt := rfl
@[simp] theorem Core.pend_modBerth (k : Core) (n : BitVec 5) (f : Berth → Berth) : (k.modBerth n f).pend = k.pend := rfl
@[simp] theorem Core.buf_modBerth (k : Core) (n : BitVec 5) (f : Berth → Berth) : (k.modBerth n f).buf = k.buf := rfl
@[simp] theorem Core.arrivals_modBerth (k : Core) (n : BitVec 5) (f : Berth → Berth) : (k.modBerth n f).arrivals = k.arrivals := rfl
@[simp] theorem Core.lastArr_modBerth (k : Core) (n : BitVec 5) (f : Berth → Berth) : (k.modBerth n f).lastArr = k.lastArr := rfl
@[simp] theorem Core.phase_modBerth (k : Core) (n : BitVec 5) (f : Berth → Berth) : (k.modBerth n f).phase = k.phase := rfl
@[simp] theorem Core.part_modBerth (k : Core) (n : BitVec 5) (f : Berth → Berth) : (k.modBerth n f).part = k.part := rfl
@[simp] theorem Core.first_modBerth (k : Core) (n : BitVec 5) (f : Berth → Berth) : (k.modBerth n f).first = k.first := rfl
@[simp] theorem Core.relT_modBerth (k : Core) (n : BitVec 5) (f : Berth → Berth) : (k.modBerth n f).relT = k.relT := rfl
@[simp] theorem Core.entering_modBerth (k : Core) (n : BitVec 5) (f : Berth → Berth) : (k.modBerth n f).entering = k.entering := rfl
@[simp] theorem Core.landing_modBerth (k : Core) (n : BitVec 5) (f : Berth → Berth) : (k.modBerth n f).landing = k.landing := rfl
@[simp] theorem Core.ct_modBerth (k : Core) (n : BitVec 5) (f : Berth → Berth) : (k.modBerth n f).ct = k.ct := rfl
@[simp] theorem Core.releases_modBerth (k : Core) (n : BitVec 5) (f : Berth → Berth) : (k.modBerth n f).releases = k.releases := rfl
@[simp] theorem Core.notes_modBerth (k : Core) (n : BitVec 5) (f : Berth → Berth) : (k.modBerth n f).notes = k.notes := rfl
@[simp] theorem Core.inj_modBerth (k : Core) (n : BitVec 5) (f : Berth → Berth) : (k.modBerth n f).inj = k.inj := rfl
@[simp] theorem Core.sems_modBerth (k : Core) (n : BitVec 5) (f : Berth → Berth) : (k.modBerth n f).sems = k.sems := rfl
@[simp] theorem Core.sp_modBerth (k : Core) (n : BitVec 5) (f : Berth → Berth) : (k.modBerth n f).sp = k.sp := rfl
@[simp] theorem Core.hold_modBerth (k : Core) (n : BitVec 5) (f : Berth → Berth) : (k.modBerth n f).hold = k.hold := rfl
@[simp] theorem Core.holdErr_modBerth (k : Core) (n : BitVec 5) (f : Berth → Berth) : (k.modBerth n f).holdErr = k.holdErr := rfl
@[simp] theorem Core.planes_modBerth (k : Core) (n : BitVec 5) (f : Berth → Berth) : (k.modBerth n f).planes = k.planes := rfl
@[simp] theorem Core.act_modBerth (k : Core) (n : BitVec 5) (f : Berth → Berth) : (k.modBerth n f).act = k.act := rfl
@[simp] theorem Core.shrdy_modBerth (k : Core) (n : BitVec 5) (f : Berth → Berth) : (k.modBerth n f).shrdy = k.shrdy := rfl
@[simp] theorem Core.swreq_modBerth (k : Core) (n : BitVec 5) (f : Berth → Berth) : (k.modBerth n f).swreq = k.swreq := rfl
@[simp] theorem Core.loading_modBerth (k : Core) (n : BitVec 5) (f : Berth → Berth) : (k.modBerth n f).loading = k.loading := rfl
@[simp] theorem Core.spawnq_modBerth (k : Core) (n : BitVec 5) (f : Berth → Berth) : (k.modBerth n f).spawnq = k.spawnq := rfl
@[simp] theorem Core.spawnAt_modBerth (k : Core) (n : BitVec 5) (f : Berth → Berth) : (k.modBerth n f).spawnAt = k.spawnAt := rfl
@[simp] theorem Core.spawnSeq_modBerth (k : Core) (n : BitVec 5) (f : Berth → Berth) : (k.modBerth n f).spawnSeq = k.spawnSeq := rfl
@[simp] theorem Core.missed_modBerth (k : Core) (n : BitVec 5) (f : Berth → Berth) : (k.modBerth n f).missed = k.missed := rfl
@[simp] theorem Core.suspended_modBerth (k : Core) (n : BitVec 5) (f : Berth → Berth) : (k.modBerth n f).suspended = k.suspended := rfl
@[simp] theorem Core.resumeWait_modBerth (k : Core) (n : BitVec 5) (f : Berth → Berth) : (k.modBerth n f).resumeWait = k.resumeWait := rfl
@[simp] theorem Core.exits_modBerth (k : Core) (n : BitVec 5) (f : Berth → Berth) : (k.modBerth n f).exits = k.exits := rfl
@[simp] theorem Core.mx_modBerth (k : Core) (n : BitVec 5) (f : Berth → Berth) : (k.modBerth n f).mx = k.mx := rfl
@[simp] theorem Core.queue_modBerth (k : Core) (n : BitVec 5) (f : Berth → Berth) : (k.modBerth n f).queue = k.queue := rfl
@[simp] theorem Core.nextCmd_modBerth (k : Core) (n : BitVec 5) (f : Berth → Berth) : (k.modBerth n f).nextCmd = k.nextCmd := rfl
@[simp] theorem Core.nextTask_modBerth (k : Core) (n : BitVec 5) (f : Berth → Berth) : (k.modBerth n f).nextTask = k.nextTask := rfl
@[simp] theorem Core.fences_modBerth (k : Core) (n : BitVec 5) (f : Berth → Berth) : (k.modBerth n f).fences = k.fences := rfl
@[simp] theorem Core.cache_modBerth (k : Core) (n : BitVec 5) (f : Berth → Berth) : (k.modBerth n f).cache = k.cache := rfl
@[simp] theorem Core.caps_modBerth (k : Core) (n : BitVec 5) (f : Berth → Berth) : (k.modBerth n f).caps = k.caps := rfl
@[simp] theorem Core.sweep_modBerth (k : Core) (n : BitVec 5) (f : Berth → Berth) : (k.modBerth n f).sweep = k.sweep := rfl
@[simp] theorem Core.context_modBerth (k : Core) (n : BitVec 5) (f : Berth → Berth) : (k.modBerth n f).context = k.context := rfl
@[simp] theorem Core.fabSeq_modBerth (k : Core) (n : BitVec 5) (f : Berth → Berth) : (k.modBerth n f).fabSeq = k.fabSeq := rfl
@[simp] theorem Core.ranges_modBerth (k : Core) (n : BitVec 5) (f : Berth → Berth) : (k.modBerth n f).ranges = k.ranges := rfl
@[simp] theorem Core.laneConf_modBerth (k : Core) (n : BitVec 5) (f : Berth → Berth) : (k.modBerth n f).laneConf = k.laneConf := rfl
@[simp] theorem Core.faultRecs_modBerth (k : Core) (n : BitVec 5) (f : Berth → Berth) : (k.modBerth n f).faultRecs = k.faultRecs := rfl
@[simp] theorem Core.spCorr_modBerth (k : Core) (n : BitVec 5) (f : Berth → Berth) : (k.modBerth n f).spCorr = k.spCorr := rfl
@[simp] theorem Core.accCorr_modBerth (k : Core) (n : BitVec 5) (f : Berth → Berth) : (k.modBerth n f).accCorr = k.accCorr := rfl
@[simp] theorem Core.gen_modBerth (k : Core) (n : BitVec 5) (f : Berth → Berth) : (k.modBerth n f).gen = k.gen := rfl

@[simp] theorem Core.berth_modBerth (k : Core) (n : BitVec 5) (f : Berth → Berth) : (k.modBerth n f).berth n = f (k.berth n) := by
  simp [Core.berth, Core.modBerth]
theorem Core.berth_modBerth_ne (k : Core) {m n : BitVec 5} (f : Berth → Berth) (h : m ≠ n) : (k.modBerth n f).berth m = k.berth m := by
  have : n.toNat ≠ m.toNat := fun e => h (BitVec.eq_of_toNat_eq e.symm)
  simp [Core.berth, Core.modBerth, Vector.getElem_set_ne, this]

-- Counting a record

@[simp] theorem Core.regs_countRecord (k : Core) : (k.countRecord).regs = k.regs := rfl
@[simp] theorem Core.csr_countRecord (k : Core) : (k.countRecord).csr = k.csr := rfl
@[simp] theorem Core.bank_countRecord (k : Core) : (k.countRecord).bank = k.bank := rfl
@[simp] theorem Core.pc_countRecord (k : Core) : (k.countRecord).pc = k.pc := rfl
@[simp] theorem Core.via_countRecord (k : Core) : (k.countRecord).via = k.via := rfl
@[simp] theorem Core.run_countRecord (k : Core) : (k.countRecord).run = k.run := rfl
@[simp] theorem Core.origin_countRecord (k : Core) : (k.countRecord).origin = k.origin := rfl
@[simp] theorem Core.task_countRecord (k : Core) : (k.countRecord).task = k.task := rfl
@[simp] theorem Core.bubble_countRecord (k : Core) : (k.countRecord).bubble = k.bubble := rfl
@[simp] theorem Core.bundle_countRecord (k : Core) : (k.countRecord).bundle = k.bundle := rfl
@[simp] theorem Core.freeze_countRecord (k : Core) : (k.countRecord).freeze = k.freeze := rfl
@[simp] theorem Core.mt_countRecord (k : Core) : (k.countRecord).mt = k.mt := rfl
@[simp] theorem Core.pend_countRecord (k : Core) : (k.countRecord).pend = k.pend := rfl
@[simp] theorem Core.buf_countRecord (k : Core) : (k.countRecord).buf = k.buf := rfl
@[simp] theorem Core.arrivals_countRecord (k : Core) : (k.countRecord).arrivals = k.arrivals := rfl
@[simp] theorem Core.lastArr_countRecord (k : Core) : (k.countRecord).lastArr = k.lastArr := rfl
@[simp] theorem Core.phase_countRecord (k : Core) : (k.countRecord).phase = k.phase := rfl
@[simp] theorem Core.part_countRecord (k : Core) : (k.countRecord).part = k.part := rfl
@[simp] theorem Core.first_countRecord (k : Core) : (k.countRecord).first = k.first := rfl
@[simp] theorem Core.relT_countRecord (k : Core) : (k.countRecord).relT = k.relT := rfl
@[simp] theorem Core.entering_countRecord (k : Core) : (k.countRecord).entering = k.entering := rfl
@[simp] theorem Core.landing_countRecord (k : Core) : (k.countRecord).landing = k.landing := rfl
@[simp] theorem Core.ct_countRecord (k : Core) : (k.countRecord).ct = k.ct := rfl
@[simp] theorem Core.releases_countRecord (k : Core) : (k.countRecord).releases = k.releases := rfl
@[simp] theorem Core.notes_countRecord (k : Core) : (k.countRecord).notes = k.notes := rfl
@[simp] theorem Core.inj_countRecord (k : Core) : (k.countRecord).inj = k.inj := rfl
@[simp] theorem Core.sems_countRecord (k : Core) : (k.countRecord).sems = k.sems := rfl
@[simp] theorem Core.berths_countRecord (k : Core) : (k.countRecord).berths = k.berths := rfl
@[simp] theorem Core.sp_countRecord (k : Core) : (k.countRecord).sp = k.sp := rfl
@[simp] theorem Core.hold_countRecord (k : Core) : (k.countRecord).hold = k.hold := rfl
@[simp] theorem Core.holdErr_countRecord (k : Core) : (k.countRecord).holdErr = k.holdErr := rfl
@[simp] theorem Core.planes_countRecord (k : Core) : (k.countRecord).planes = k.planes := rfl
@[simp] theorem Core.act_countRecord (k : Core) : (k.countRecord).act = k.act := rfl
@[simp] theorem Core.shrdy_countRecord (k : Core) : (k.countRecord).shrdy = k.shrdy := rfl
@[simp] theorem Core.swreq_countRecord (k : Core) : (k.countRecord).swreq = k.swreq := rfl
@[simp] theorem Core.loading_countRecord (k : Core) : (k.countRecord).loading = k.loading := rfl
@[simp] theorem Core.spawnq_countRecord (k : Core) : (k.countRecord).spawnq = k.spawnq := rfl
@[simp] theorem Core.spawnAt_countRecord (k : Core) : (k.countRecord).spawnAt = k.spawnAt := rfl
@[simp] theorem Core.spawnSeq_countRecord (k : Core) : (k.countRecord).spawnSeq = k.spawnSeq := rfl
@[simp] theorem Core.missed_countRecord (k : Core) : (k.countRecord).missed = k.missed := rfl
@[simp] theorem Core.suspended_countRecord (k : Core) : (k.countRecord).suspended = k.suspended := rfl
@[simp] theorem Core.resumeWait_countRecord (k : Core) : (k.countRecord).resumeWait = k.resumeWait := rfl
@[simp] theorem Core.exits_countRecord (k : Core) : (k.countRecord).exits = k.exits := rfl
@[simp] theorem Core.mx_countRecord (k : Core) : (k.countRecord).mx = k.mx := rfl
@[simp] theorem Core.queue_countRecord (k : Core) : (k.countRecord).queue = k.queue := rfl
@[simp] theorem Core.nextCmd_countRecord (k : Core) : (k.countRecord).nextCmd = k.nextCmd := rfl
@[simp] theorem Core.nextTask_countRecord (k : Core) : (k.countRecord).nextTask = k.nextTask := rfl
@[simp] theorem Core.fences_countRecord (k : Core) : (k.countRecord).fences = k.fences := rfl
@[simp] theorem Core.cache_countRecord (k : Core) : (k.countRecord).cache = k.cache := rfl
@[simp] theorem Core.caps_countRecord (k : Core) : (k.countRecord).caps = k.caps := rfl
@[simp] theorem Core.sweep_countRecord (k : Core) : (k.countRecord).sweep = k.sweep := rfl
@[simp] theorem Core.context_countRecord (k : Core) : (k.countRecord).context = k.context := rfl
@[simp] theorem Core.fabSeq_countRecord (k : Core) : (k.countRecord).fabSeq = k.fabSeq := rfl
@[simp] theorem Core.ranges_countRecord (k : Core) : (k.countRecord).ranges = k.ranges := rfl
@[simp] theorem Core.laneConf_countRecord (k : Core) : (k.countRecord).laneConf = k.laneConf := rfl
@[simp] theorem Core.spCorr_countRecord (k : Core) : (k.countRecord).spCorr = k.spCorr := rfl
@[simp] theorem Core.accCorr_countRecord (k : Core) : (k.countRecord).accCorr = k.accCorr := rfl
@[simp] theorem Core.gen_countRecord (k : Core) : (k.countRecord).gen = k.gen := rfl

end Sys2Proof.Machine
end

