-- ==== Sys2Proof/Laws/Ops.lean ====
section
/-! SUPPORT. What a slot alone in its bundle does, said once: it retires with its effects, transfers control, traps, or waits. -/
namespace Sys2Proof.Machine
open Sys2Proof
set_option Elab.async false

/-- An effect that neither belongs to the matrix queue or to a read at issue nor says where control goes. -/
def Action.plain (a : Action) : Bool :=
  !isMxAct a && !isReadAct a && (match a with | .transfer _ => false | .trapAfter _ => false | .eret => false | .exit => false | _ => true)

theorem Action.plain_mx {a : Action} (h : a.plain = true) : isMxAct a = false := by
  unfold Action.plain at h
  rw [Bool.and_eq_true, Bool.and_eq_true] at h
  exact (Bool.not_eq_true' _).mp h.1.1

theorem Action.plain_read {a : Action} (h : a.plain = true) : isReadAct a = false := by
  unfold Action.plain at h
  rw [Bool.and_eq_true, Bool.and_eq_true] at h
  exact (Bool.not_eq_true' _).mp h.1.2

theorem plain_mem {as : List Action} (h : as.all Action.plain = true) : ∀ a ∈ as, Action.plain a = true := List.all_eq_true.mp h

theorem plain_not_mx {as : List Action} (h : as.all Action.plain = true) : as.filter isMxAct = [] := by
  rw [List.filter_eq_nil_iff]
  intro a ha
  rw [Action.plain_mx (plain_mem h a ha)]
  exact Bool.false_ne_true

theorem plain_not_read {as : List Action} (h : as.all Action.plain = true) : as.filter isReadAct = [] := by
  rw [List.filter_eq_nil_iff]
  intro a ha
  rw [Action.plain_read (plain_mem h a ha)]
  exact Bool.false_ne_true

theorem plain_any_mx {as : List Action} (h : as.all Action.plain = true) : as.any isMxAct = false := by
  rw [List.any_eq_false]
  intro a ha
  rw [Action.plain_mx (plain_mem h a ha)]
  exact Bool.false_ne_true

theorem plain_filter {as : List Action} (h : as.all Action.plain = true) : as.filter (fun a => !isMxAct a && !isReadAct a) = as := by
  rw [List.filter_eq_self]
  intro a ha
  rw [Action.plain_mx (plain_mem h a ha), Action.plain_read (plain_mem h a ha)]
  rfl

theorem plain_transfer {as : List Action} (h : as.all Action.plain = true) : transferOf as = none := by
  unfold transferOf
  rw [List.findSome?_eq_none_iff]
  intro a ha
  have := plain_mem h a ha
  cases a <;> first | rfl | cases this

theorem plain_trap {as : List Action} (h : as.all Action.plain = true) : trapOf as = none := by
  unfold trapOf
  rw [List.findSome?_eq_none_iff]
  intro a ha
  have := plain_mem h a ha
  cases a <;> first | rfl | cases this

theorem plain_eret {as : List Action} (h : as.all Action.plain = true) : hasEret as = false := by
  unfold hasEret
  rw [List.any_eq_false]
  intro a ha
  have := plain_mem h a ha
  cases a <;> first | exact Bool.false_ne_true | cases this

theorem plain_exit {as : List Action} (h : as.all Action.plain = true) : hasExit as = false := by
  unfold hasExit
  rw [List.any_eq_false]
  intro a ha
  have := plain_mem h a ha
  cases a <;> first | exact Bool.false_ne_true | cases this

theorem State.applyAll_append (s : State) (c : CoreId) (as bs : List Action) :
    s.applyAll c (as ++ bs) = (s.applyAll c as).applyAll c bs := by simp [State.applyAll]

@[simp] theorem State.applyAll_nil (s : State) (c : CoreId) : s.applyAll c [] = s := rfl
@[simp] theorem State.applyAll_cons (s : State) (c : CoreId) (a : Action) (as : List Action) :
    s.applyAll c (a :: as) = (s.apply c a).applyAll c as := rfl

/-- What belongs to the reads of a slot and nothing else. -/
def allReads (rs : List Action) : Prop := rs.all isReadAct = true

theorem reads_filter {rs : List Action} (h : allReads rs) : rs.filter isReadAct = rs := List.filter_eq_self.mpr (List.all_eq_true.mp h)

theorem reads_mx {rs : List Action} (h : allReads rs) : rs.filter isMxAct = [] ∧ rs.any isMxAct = false := by
  have e : ∀ a ∈ rs, isMxAct a = false := fun a ha => by
    have := List.all_eq_true.mp h a ha
    cases a <;> first | rfl | cases this
  exact ⟨List.filter_eq_nil_iff.mpr (fun a ha => by rw [e a ha]; exact Bool.false_ne_true),
    List.any_eq_false.mpr (fun a ha => by rw [e a ha]; exact Bool.false_ne_true)⟩

theorem reads_rest {rs : List Action} (h : allReads rs) : rs.filter (fun a => !isMxAct a && !isReadAct a) = [] :=
  List.filter_eq_nil_iff.mpr (fun a ha => by rw [List.all_eq_true.mp h a ha]; simp)

theorem reads_control {rs : List Action} (h : allReads rs) :
    transferOf rs = none ∧ trapOf rs = none ∧ hasEret rs = false ∧ hasExit rs = false := by
  have e := List.all_eq_true.mp h
  refine ⟨List.findSome?_eq_none_iff.mpr fun a ha => ?_, List.findSome?_eq_none_iff.mpr fun a ha => ?_, List.any_eq_false.mpr fun a ha => ?_,
    List.any_eq_false.mpr fun a ha => ?_⟩ <;> (have := e a ha; cases a <;> first | rfl | exact Bool.false_ne_true | cases this)

/-- Plain effects after those of the reads, performed: the effects, one task cycle, control at the next bundle or, by a back edge, at the start
of a loop. -/
theorem State.perform_reads (s : State) (c : CoreId) (pc next : Word) {rs as : List Action} (hr : allReads rs) (h : as.all Action.plain = true) :
    s.perform c pc next (rs ++ as) =
      let r := (s.core c).csr
      let lp := if r.hm then (r.lc[0], r.lc[1], r.le[0], r.le[1], next) else loopCheck r.lc[0] r.lc[1] r.le[0] r.le[1] next
      ((s.modCore c (fun k => k.leave lp)).applyAll c (rs ++ as)).modCore c (fun k =>
        { k.taskCycle with pc := lp.2.2.2.2, via := if !r.hm && loopTaken r.lc[0] r.lc[1] r.le[0] r.le[1] next then some pc else none, bubble := false }) := by
  have e1 : (rs ++ as).filter isMxAct = [] := by rw [List.filter_append, plain_not_mx h, (reads_mx hr).1]; rfl
  have e2 : (rs ++ as).any isMxAct = false := by rw [List.any_append, plain_any_mx h, (reads_mx hr).2]; rfl
  have e3 : (rs ++ as).filter isReadAct = rs := by rw [List.filter_append, plain_not_read h, reads_filter hr, List.append_nil]
  have e4 : (rs ++ as).filter (fun a => !isMxAct a && !isReadAct a) = as := by
    rw [List.filter_append, plain_filter h, reads_rest hr, List.nil_append]
  obtain ⟨c1, c2, c3, c4⟩ := reads_control hr
  have e5 : transferOf (rs ++ as) = none := by
    simp only [transferOf] at c1 ⊢; rw [List.findSome?_append, c1]; exact plain_transfer h
  have e6 : trapOf (rs ++ as) = none := by
    simp only [trapOf] at c2 ⊢; rw [List.findSome?_append, c2]; exact plain_trap h
  have e7 : hasEret (rs ++ as) = false := by
    simp only [hasEret] at c3 ⊢; rw [List.any_append, c3]; exact plain_eret h
  have e8 : hasExit (rs ++ as) = false := by
    simp only [hasExit] at c4 ⊢; rw [List.any_append, c4]; exact plain_exit h
  unfold State.perform
  simp only [e1, e2, e3, e4, e5, e6, e7, e8]
  simp [State.modCore, Core.leave, State.applyAll_append]

/-- Plain effects performed: the effects, one task cycle, control at the next bundle. -/
theorem State.perform_plain (s : State) (c : CoreId) (pc next : Word) {as : List Action} (h : as.all Action.plain = true) :
    s.perform c pc next as =
      let r := (s.core c).csr
      let lp := if r.hm then (r.lc[0], r.lc[1], r.le[0], r.le[1], next) else loopCheck r.lc[0] r.lc[1] r.le[0] r.le[1] next
      ((s.modCore c (fun k => k.leave lp)).applyAll c as).modCore c (fun k =>
        { k.taskCycle with pc := lp.2.2.2.2, via := if !r.hm && loopTaken r.lc[0] r.lc[1] r.le[0] r.le[1] next then some pc else none, bubble := false }) :=
  State.perform_reads (rs := []) s c pc next rfl h

theorem arriving_plain (c : Ctl) (bound : Nat) (d : BitVec 2) (ds : List PDest) {as : List Action} (h : as.all Action.plain = true) :
    (as ++ (if c.ar then [Action.arrive d bound ds] else [])).all Action.plain = true := by
  rw [List.all_append, h, Bool.true_and]
  split <;> rfl

theorem State.apply_arrive (s : State) (c : CoreId) (ctl : Ctl) (bound : Nat) (d : BitVec 2) (ds : List PDest) (hb : bound ≠ 0) :
    s.applyAll c (if ctl.ar then [Action.arrive d bound ds] else []) = s.modCore c (fun k => k.arriving ctl bound d ds) := by
  unfold Core.arriving
  split
  · simp [State.apply, hb, State.modCore]
  · simp [State.modCore]

/-- A guarded slot under a true clean guard: its own outcome, with its arrival. -/
theorem Core.guarded_alone {k : Core} {c : Ctl} {bound : Nat} {as : List Action} (h1 : k.poisonP c.g = false) (h2 : k.readP c.g = true)
    (h3 : c.ar = true → k.arFault = none) :
    k.guarded c (some bound) (.ok as) = .ok (as ++ (if c.ar then [.arrive k.csr.ardom bound (k.landsAt as)] else [])) := by
  unfold Core.guarded
  cases hc : c.ar <;> simp_all

/-- A slot alone in its bundle, its effects plain after those of its reads, retires with them. -/
theorem State.issue_reads {s : State} {c : Ctl} {words bound : Nat} {rs as : List Action} (hs : s.alone c) (hr : allReads rs)
    (hp : as.all Action.plain = true) (hb : bound ≠ 0) :
    s.issue c.slot words (s.me.guarded c (some bound) (.ok (rs ++ as))) =
      s.retired c words bound (fun t => t.applyAll s.cur (rs ++ as)) (s.me.landsAt (rs ++ as)) := by
  obtain ⟨h0, h1, h2, h3⟩ := hs
  unfold State.issue
  rw [Core.guarded_alone h1 h2 h3]
  simp only [Core.bundleOf, h0]
  simp only [Nat.sub_self, List.nil_append, if_true, State.commit, firstOut, SlotOut.isWait, SlotOut.isFault, SlotOut.isFreeze,
    List.flatMap_cons, List.flatMap_nil, List.append_nil, SlotOut.acts]
  rw [List.append_assoc, State.perform_reads _ _ _ _ hr (arriving_plain c bound _ _ hp)]
  dsimp only
  rw [← List.append_assoc, State.applyAll_append, State.apply_arrive _ _ _ _ _ _ hb]
  simp only [State.retired, Core.backEdge, Core.backVia, State.modCore_modCore]

/-- A slot alone in its bundle of `words` words whose effects are plain retires with them. -/
theorem State.issue_retired {s : State} {c : Ctl} {words bound : Nat} {as : List Action} (hs : s.alone c)
    (hp : as.all Action.plain = true) (hb : bound ≠ 0) :
    s.issue c.slot words (s.me.guarded c (some bound) (.ok as)) = s.retired c words bound (fun t => t.applyAll s.cur as) (s.me.landsAt as) :=
  State.issue_reads (rs := []) hs rfl hp hb

/-- A slot alone in its bundle whose effects are plain retires with them. -/
theorem State.slot_retired {s : State} {c : Ctl} {bound : Nat} {out : Core → SlotOut} {as : List Action} (hs : s.alone c)
    (ho : out s.me = .ok as) (hp : as.all Action.plain = true) (hb : bound ≠ 0) :
    s.slot c (some bound) out = s.retired c 2 bound (fun t => t.applyAll s.cur as) (s.me.landsAt as) := by
  unfold State.slot
  rw [ho]
  exact State.issue_retired hs hp hb

/-- A slot alone in its bundle whose effects are plain after those of its reads retires with them. -/
theorem State.slot_reads {s : State} {c : Ctl} {bound : Nat} {out : Core → SlotOut} {rs as : List Action} (hs : s.alone c)
    (ho : out s.me = .ok (rs ++ as)) (hr : allReads rs) (hp : as.all Action.plain = true) (hb : bound ≠ 0) :
    s.slot c (some bound) out = s.retired c 2 bound (fun t => t.applyAll s.cur (rs ++ as)) (s.me.landsAt (rs ++ as)) := by
  unfold State.slot
  rw [ho]
  exact State.issue_reads hs hr hp hb

/-- Plain effects before a transfer, performed: no back-edge check, control at the target, a bubble. -/
theorem State.perform_transfer (s : State) (c : CoreId) (pc next target : Word) {as bs : List Action} (h : as.all Action.plain = true)
    (hb : bs.all Action.plain = true) :
    s.perform c pc next (as ++ .transfer target :: bs) =
      let r := (s.core c).csr
      (((s.modCore c (fun k => k.leave (r.lc[0], r.lc[1], r.le[0], r.le[1], target))).applyAll c as).applyAll c bs).modCore c (fun k =>
        { k.taskCycle with pc := target, via := some pc, bubble := true }) := by
  have ht : transferOf (as ++ .transfer target :: bs) = some target := by
    have := plain_transfer h
    simp only [transferOf] at this ⊢
    simp [this]
  have e1 : (as ++ Action.transfer target :: bs).filter isMxAct = [] := by
    simp [plain_not_mx h, plain_not_mx hb, isMxAct]
  have e2 : (as ++ Action.transfer target :: bs).any isMxAct = false := by
    simp [plain_any_mx h, plain_any_mx hb, isMxAct]
  have e0 : (as ++ Action.transfer target :: bs).filter isReadAct = [] := by
    simp [plain_not_read h, plain_not_read hb, isReadAct]
  have e3 : (as ++ Action.transfer target :: bs).filter (fun a => !isMxAct a && !isReadAct a) = as ++ Action.transfer target :: bs := by
    rw [List.filter_append, plain_filter h, List.filter_cons_of_pos (by rfl), plain_filter hb]
  have e4 : hasExit (as ++ Action.transfer target :: bs) = false := by
    have a := plain_exit h; have b := plain_exit hb; simp only [hasExit] at a b ⊢; simp [a, b]
  have e5 : hasEret (as ++ Action.transfer target :: bs) = false := by
    have a := plain_eret h; have b := plain_eret hb; simp only [hasEret] at a b ⊢; simp [a, b]
  have e6 : trapOf (as ++ Action.transfer target :: bs) = none := by
    have a := plain_trap h; have b := plain_trap hb; simp only [trapOf] at a b ⊢; simp [a, b]
  unfold State.perform
  simp only [e0, e1, e2, e3, e4, e5, e6, ht]
  simp [State.modCore, Core.leave, State.applyAll_append, State.apply]

/-- A slot alone in its bundle that transfers control after plain effects. -/
theorem State.slot_transferred {s : State} {c : Ctl} {bound : Nat} {out : Core → SlotOut} {as : List Action} {target : Word}
    (hs : s.alone c) (ho : out s.me = .ok (as ++ [.transfer target])) (hp : as.all Action.plain = true) (hb : bound ≠ 0) :
    s.slot c (some bound) out = s.transferred c bound target (fun t => t.applyAll s.cur as) (s.me.landsAt (as ++ [.transfer target])) := by
  obtain ⟨h0, h1, h2, h3⟩ := hs
  unfold State.slot State.issue
  rw [ho, Core.guarded_alone h1 h2 h3]
  simp only [Core.bundleOf, h0]
  simp only [Nat.sub_self, List.nil_append, if_true, State.commit, firstOut, SlotOut.isWait, SlotOut.isFault, SlotOut.isFreeze,
    List.flatMap_cons, List.flatMap_nil, List.append_nil, SlotOut.acts]
  have hq : (if c.ar then [Action.arrive s.me.csr.ardom bound (s.me.landsAt (as ++ [.transfer target]))] else []).all Action.plain = true := by
    split <;> rfl
  rw [List.append_assoc, List.singleton_append, State.perform_transfer _ _ _ _ _ hp hq]
  dsimp only
  rw [State.apply_arrive _ _ _ _ _ _ hb]
  simp only [State.transferred, State.modCore_modCore]
  rfl

/-- Noting the first cycle of a bundle sets that note and nothing else. -/
theorem State.core_seeFirst (s : State) (c : CoreId) (outs : List (Slot × SlotOut)) :
    (s.seeFirst c outs).core c = { s.core c with first := some ((s.core c).looks outs s.tnow) } := State.core_modCore ..

theorem State.core_seeFirst_ne (s : State) {c d : CoreId} (outs : List (Slot × SlotOut)) (h : d ≠ c) :
    (s.seeFirst c outs).core d = s.core d := State.core_modCore_ne _ _ h

/-- A slot that faults settles nothing for a PHASE (R253): only the time of the cycle is noted. -/
@[simp] theorem State.seeFirst_fault (s : State) (c : CoreId) (sl : Slot) (f : SlotFault) : s.seeFirst c [(sl, .fault f)] = s.seeFirst c [] := rfl
@[simp] theorem State.seeFirst_early (s : State) (c : CoreId) (sl : Slot) (f : SlotFault) : s.seeFirst c [(sl, .early f)] = s.seeFirst c [] := rfl

/-- A guarded slot that faults, under a true clean guard. -/
theorem Core.guarded_fault {k : Core} {c : Ctl} {bound : Option Nat} {f : SlotFault} (h1 : k.poisonP c.g = false)
    (h2 : k.readP c.g = true) (h3 : c.ar = true → k.arFault = none) : k.guarded c bound (.fault f) = .fault f := by
  unfold Core.guarded
  cases hc : c.ar <;> simp_all

/-- A slot alone in its bundle that faults at issue traps. -/
theorem State.slot_trapped {s : State} {c : Ctl} {bound : Option Nat} {out : Core → SlotOut} {f : SlotFault} (hs : s.alone c)
    (ho : out s.me = .fault f) : s.slot c bound out = s.trapped c f := by
  obtain ⟨h0, h1, h2, h3⟩ := hs
  unfold State.slot State.issue
  rw [ho, Core.guarded_fault h1 h2 h3]
  simp [Core.bundleOf, h0, State.commit, firstOut, SlotOut.isWait, SlotOut.isFault, State.trapped]

/-- A slot alone in its bundle that waits freezes its core for this cycle. -/
theorem State.slot_waiting {s : State} {c : Ctl} {bound : Option Nat} {out : Core → SlotOut} {w : Wait} (hs : s.alone c)
    (ho : out s.me = .wait w) : s.slot c bound out = s.waiting c w := by
  obtain ⟨h0, h1, h2, h3⟩ := hs
  have e : (s.me).guarded c bound (.wait w) = .wait w := by
    unfold Core.guarded
    cases hc : c.ar <;> simp_all
  unfold State.slot State.issue
  rw [ho, e]
  simp [Core.bundleOf, h0, State.commit, firstOut, SlotOut.isWait, SlotOut.isEarly, State.waiting]

/-- A slot alone in its bundle with a fault decided before any wait traps. -/
theorem State.slot_early {s : State} {c : Ctl} {bound : Option Nat} {out : Core → SlotOut} {f : SlotFault} (hs : s.alone c)
    (ho : out s.me = .early f) : s.slot c bound out = s.trapped c f := by
  obtain ⟨h0, h1, h2, h3⟩ := hs
  have e : (s.me).guarded c bound (.early f) = .early f := by
    unfold Core.guarded
    cases hc : c.ar <;> simp_all
  unfold State.slot State.issue
  rw [ho, e]
  simp [Core.bundleOf, h0, State.commit, firstOut, SlotOut.isWait, SlotOut.isFault, State.trapped]

/-- A slot alone in its bundle whose wait any fault would precede freezes its core for this cycle. -/
theorem State.slot_freeze {s : State} {c : Ctl} {bound : Option Nat} {out : Core → SlotOut} {w : Wait} (hs : s.alone c)
    (ho : out s.me = .freeze w) : s.slot c bound out = s.waiting c w (.freeze w) := by
  obtain ⟨h0, h1, h2, h3⟩ := hs
  have e : (s.me).guarded c bound (.freeze w) = .freeze w := by
    unfold Core.guarded
    cases hc : c.ar <;> simp_all
  unfold State.slot State.issue
  rw [ho, e]
  simp [Core.bundleOf, h0, State.commit, firstOut, SlotOut.isWait, SlotOut.isFault, SlotOut.isFreeze, State.waiting]

theorem Core.landsAt_x (k : Core) (xd : Reg) (v : XW) (bound : Nat) : k.landsAt [.x xd v bound] = k.xLands xd bound := by
  simp [Core.landsAt, Core.xLands]

/-- A slot alone in its bundle whose only effect is an X register. -/
theorem State.slot_givesX {s : State} {c : Ctl} {bound : Nat} {xd : Reg} {v : XW} {out : Core → SlotOut} (hs : s.alone c)
    (ho : out s.me = .ok [.x xd v bound]) (hb : bound ≠ 0) : s.slot c (some bound) out = s.givesX c bound xd v := by
  rw [State.slot_retired hs ho rfl hb, Core.landsAt_x]
  rfl

/-- A poisoned guard traps before anything else of the slot (R69). -/
theorem State.issue_poison {s : State} {c : Ctl} {words : Nat} {bound : Option Nat} {o : SlotOut} (hb : s.me.bundle = none) (hp : s.me.poisonP c.g = true) :
    s.issue c.slot words (s.me.guarded c bound o) = s.trapped c ⟨0x08, 0, 0⟩ := by
  have e : s.me.guarded c bound o = .early ⟨0x08, 0, 0⟩ := by unfold Core.guarded; simp [hp]; rfl
  unfold State.issue
  rw [e]
  simp [Core.bundleOf, hb, State.commit, firstOut, SlotOut.isWait, SlotOut.isFault, State.trapped]

/-- A slot under a false guard retires with nothing done (R69). -/
theorem State.issue_false {s : State} {c : Ctl} {words : Nat} {bound : Option Nat} {o : SlotOut} (hb : s.me.bundle = none) (hp : s.me.poisonP c.g = false)
    (hg : s.me.readP c.g = false) :
    s.issue c.slot words (s.me.guarded c bound o) = s.retired { c with ar := false } words 1 id := by
  have e : s.me.guarded c bound o = .ok [] := by unfold Core.guarded; simp [hp, hg]
  unfold State.issue
  rw [e]
  simp only [Core.bundleOf, hb]
  simp only [Nat.sub_self, List.nil_append, if_true, State.commit, firstOut, SlotOut.isWait, SlotOut.isFault, SlotOut.isFreeze,
     List.flatMap_cons, List.flatMap_nil, List.append_nil, SlotOut.acts]
  rw [State.perform_plain _ _ _ _ rfl]
  simp only [State.retired, Core.backEdge]
  rfl

/-- An arrival with no domain to arrive at traps (R70). -/
theorem State.issue_ar {s : State} {c : Ctl} {words : Nat} {bound : Option Nat} {o : SlotOut} {f : SlotFault} (hb : s.me.bundle = none) (hp : s.me.poisonP c.g = false)
    (hg : s.me.readP c.g = true) (ha : c.ar = true) (hf : s.me.arFault = some f) :
    s.issue c.slot words (s.me.guarded c bound o) = s.trapped c f := by
  have e : s.me.guarded c bound o = .early f := by unfold Core.guarded; simp [hp, hg, ha, hf]
  unfold State.issue
  rw [e]
  simp [Core.bundleOf, hb, State.commit, firstOut, SlotOut.isWait, SlotOut.isFault, State.trapped]

theorem execLoop_marked {s : State} {c : Ctl} {n : Bool} {xa : Reg} {d : BitVec 18} (h : s.me.active.marked (s.me.loopExit d).toNat = true) :
    ∃ b o, execLoop c n xa d s = .next (s.issue c.slot 2 (s.me.guarded c b o)) := by
  unfold execLoop
  rw [if_neg (by rw [show s.core s.cur = s.me from rfl, h]; decide)]
  exact ⟨_, _, rfl⟩

/-- Every slot instruction, but for a LOOP whose exit is no header (R129), is run by the one operation that issues a guarded slot. -/
theorem exec_issue {s : State} {i : Instr} {c : Ctl} (h : i.ctl? = some c)
    (hl : ∀ n xa d, i = .loop c n xa d → s.me.active.marked (s.me.loopExit d).toNat = true) : ∃ b o, exec i s = .next (s.issue c.slot (match i with | .movl .. => 3 | _ => 2) (s.me.guarded c b o)) := by
  cases i <;> simp only [Instr.ctl?, Option.some.injEq, reduceCtorEq] at h <;> subst h <;> first
    | exact ⟨_, _, rfl⟩
    | exact execLoop_marked (hl _ _ _ rfl)

end Sys2Proof.Machine
end

