-- ==== Sys2Proof/Laws/PerInstr.lean ====
section
/-! SUPPORT. Statements about every instruction as syntax, one lemma for each constructor. -/
namespace Sys2Proof.Laws.RoundTrip
open Sys2Proof
set_option Elab.async false

/-- A well-formed instruction is what the decoder reads from its slot word with its lend bits and literal, which the header gives back, or
from its trimmer word (R62, R66 to R77, R338, R339). -/
def Statement (i : Instr) : Prop := i.wf = true → slotBack i ∧ ∀ w, encodeTrim i = some w → decodeTrim w = some i

theorem and1 {a b : Bool} (h : (a && b) = true) : a = true := by revert h; cases a <;> simp
theorem and2 {a b : Bool} (h : (a && b) = true) : b = true := by revert h; cases a <;> simp
theorem isC_fits {n : Nat} {c : Ctl} (h : c.isC = true) (v : BitVec n) : fitsAd c v = true := by
  unfold Ctl.isC at h; unfold fitsAd; rw [eq_of_beq h]; rfl
theorem fld_join {a b : Nat} (x : BitVec (a + b)) : fld x b a ++ fld x 0 b = x := fld_split x rfl
/-- An instruction with no word of its own: an event or a header-only bundle. -/
theorem no_word {i : Instr} (hs : i.slot? = none) (ht : encodeTrim i = none) : Statement i :=
  fun _ => ⟨fun _ _ h => by simp [hs] at h, fun _ h => by simp [ht] at h⟩
theorem trim_word {i : Instr} {w : BitVec 32} (hw : i.wf = true) (hs : i.slot? = none) (he : encodeTrim i = some w)
    (hr : readTrim w = some i) : slotBack i ∧ ∀ w, encodeTrim i = some w → decodeTrim w = some i :=
  ⟨fun _ _ h => by simp [hs] at h, trim_gives hw he hr⟩
theorem fld_join_lo (imm : BitVec 50) : (fld imm 32 12 ++ fld imm 0 32 : BitVec 44) = fld imm 0 44 := by
  apply BitVec.eq_of_getLsbD_eq
  intro i hi
  simp only [fld, BitVec.getLsbD_append, BitVec.getLsbD_extractLsb', hi, decide_true, Bool.true_and]
  split
  · rename_i hb; simp [hb]
  · simp only [show i - 32 < 12 by omega, decide_true, Bool.true_and]; congr 1; omega
theorem isMovl_movl {c : Ctl} (h : c.isA = true) (body : BitVec 22) (l : BitVec 32) :
    isMovl c.slot (slotWord 16 c body) = (some l).isSome := by
  unfold isMovl; rw [slotWord_op]
  rcases isA_slot h with e | e <;> rw [e] <;> rfl
theorem csrw_read {c : Ctl} {imm : BitVec 12} {xa : Reg} (h : (!isDomAddr imm) = true) :
    (match imm.toNat with
      | 0x021 => some (.domWrite c .l1 xa) | 0x022 => some (.domWrite c .l2 xa) | 0x023 => some (.domWrite c .l3 xa)
      | _ => some (Instr.csrw c imm xa)) = some (.csrw c imm xa) := by
  split
  · rename_i e; obtain rfl : imm = 0x021#12 := BitVec.eq_of_toNat_eq e; exact absurd h (by decide)
  · rename_i e; obtain rfl : imm = 0x022#12 := BitVec.eq_of_toNat_eq e; exact absurd h (by decide)
  · rename_i e; obtain rfl : imm = 0x023#12 := BitVec.eq_of_toNat_eq e; exact absurd h (by decide)
  · rfl

theorem headerOnlyBundle (dp : Bool) : Statement (.headerOnlyBundle dp) := no_word rfl rfl

theorem nop (c : Ctl) : Statement (.nop c) := by
  intro hw
  have hA : c.isA = true := hw
  refine ⟨slot_gives hw rfl rfl (slotWord_g ..) (slotWord_ar ..) (isMovl_slot _ _ _ (by decide)) (lendKept_zero _) ?_, fun _ h => nomatch h⟩
  rw [isA_read hA]
  simp only [encS3, readS, slotWord_op, BitVec.reduceToNat]

theorem alu (c : Ctl) (fn : AluFn) (xd xa xb : Reg) : Statement (.alu c fn xd xa xb) := by
  intro hw
  have hA : c.isA = true := and1 hw
  refine ⟨slot_gives hw rfl rfl (slotWord_g ..) (slotWord_ar ..) (isMovl_slot _ _ _ (by decide)) (lendKept_zero _) ?_, fun _ h => nomatch h⟩
  rw [isA_read hA]
  simp only [encS3, readS, slotWord_op, BitVec.reduceToNat]
  simp (disch := decide) only [slotWord_fld, fld_append_left, fld_append_right, fld_self, aluFn_code, Option.map_some]

theorem muldiv (c : Ctl) (fn : MulFn) (xd xa xb : Reg) : Statement (.muldiv c fn xd xa xb) := by
  intro hw
  have hA : c.isA = true := isC_isA hw
  refine ⟨slot_gives hw rfl rfl (slotWord_g ..) (slotWord_ar ..) (isMovl_slot _ _ _ (by decide)) (lendKept_zero _) ?_, fun _ h => nomatch h⟩
  rw [isA_read hA]
  simp only [encS3, readS, slotWord_op, BitVec.reduceToNat]
  simp (disch := decide) only [slotWord_fld, fld_append_left, fld_append_right, fld_self, mulFn_code, Option.map_some]

theorem sel (c : Ctl) (xd : Reg) (pn : BitVec 3) (xa xb : Reg) : Statement (.sel c xd pn xa xb) := by
  intro hw
  have hA : c.isA = true := hw
  refine ⟨slot_gives hw rfl rfl (slotWord_g ..) (slotWord_ar ..) (isMovl_slot _ _ _ (by decide)) (lendKept_zero _) ?_, fun _ h => nomatch h⟩
  rw [isA_read hA]
  simp only [encS3, readS, slotWord_op, BitVec.reduceToNat]
  simp (disch := decide) only [slotWord_fld, fld_append_left, fld_append_right, fld_self]

theorem addi (c : Ctl) (xd xa : Reg) (imm : BitVec 18) : Statement (.addi c xd xa imm) := by
  intro hw
  have hf : (c.isA && fitsAd c imm) = true := hw
  have hA : c.isA = true := and1 hf
  refine ⟨slot_gives hw rfl rfl (slotWord_g ..) (slotWord_ar ..) (isMovl_slot _ _ _ (by decide)) (isA_lend hA _) ?_, fun _ h => nomatch h⟩
  rw [isA_read hA]
  simp only [encImm, encSI, readS, slotWord_op, BitVec.reduceToNat]
  simp (disch := decide) only [slotWord_fld, fld_append_left, fld_append_right, fld_self]
  exact congrArg (fun v => some (Instr.addi c xd xa v)) (extImm_back (and2 hf) _ _ rfl rfl)

theorem andi (c : Ctl) (xd xa : Reg) (imm : BitVec 18) : Statement (.andi c xd xa imm) := by
  intro hw
  have hf : (c.isA && fitsAd c imm) = true := hw
  have hA : c.isA = true := and1 hf
  refine ⟨slot_gives hw rfl rfl (slotWord_g ..) (slotWord_ar ..) (isMovl_slot _ _ _ (by decide)) (isA_lend hA _) ?_, fun _ h => nomatch h⟩
  rw [isA_read hA]
  simp only [encImm, encSI, readS, slotWord_op, BitVec.reduceToNat]
  simp (disch := decide) only [slotWord_fld, fld_append_left, fld_append_right, fld_self]
  exact congrArg (fun v => some (Instr.andi c xd xa v)) (extImm_back (and2 hf) _ _ rfl rfl)

theorem ori (c : Ctl) (xd xa : Reg) (imm : BitVec 18) : Statement (.ori c xd xa imm) := by
  intro hw
  have hf : (c.isA && fitsAd c imm) = true := hw
  have hA : c.isA = true := and1 hf
  refine ⟨slot_gives hw rfl rfl (slotWord_g ..) (slotWord_ar ..) (isMovl_slot _ _ _ (by decide)) (isA_lend hA _) ?_, fun _ h => nomatch h⟩
  rw [isA_read hA]
  simp only [encImm, encSI, readS, slotWord_op, BitVec.reduceToNat]
  simp (disch := decide) only [slotWord_fld, fld_append_left, fld_append_right, fld_self]
  exact congrArg (fun v => some (Instr.ori c xd xa v)) (extImm_back (and2 hf) _ _ rfl rfl)

theorem xori (c : Ctl) (xd xa : Reg) (imm : BitVec 18) : Statement (.xori c xd xa imm) := by
  intro hw
  have hf : (c.isA && fitsAd c imm) = true := hw
  have hA : c.isA = true := and1 hf
  refine ⟨slot_gives hw rfl rfl (slotWord_g ..) (slotWord_ar ..) (isMovl_slot _ _ _ (by decide)) (isA_lend hA _) ?_, fun _ h => nomatch h⟩
  rw [isA_read hA]
  simp only [encImm, encSI, readS, slotWord_op, BitVec.reduceToNat]
  simp (disch := decide) only [slotWord_fld, fld_append_left, fld_append_right, fld_self]
  exact congrArg (fun v => some (Instr.xori c xd xa v)) (extImm_back (and2 hf) _ _ rfl rfl)

theorem shli (c : Ctl) (w : Bool) (xd xa : Reg) (n : BitVec 6) : Statement (.shli c w xd xa n) := by
  intro hw
  have hf : (c.isA && (!w || !n.getLsbD 5)) = true := hw
  have hA : c.isA = true := and1 hf
  refine ⟨slot_gives hw rfl rfl (slotWord_g ..) (slotWord_ar ..) (isMovl_slot _ _ _ (by decide)) (lendKept_zero _) ?_, fun _ h => nomatch h⟩
  rw [isA_read hA]
  simp only [encSI, readS, slotWord_op, BitVec.reduceToNat]
  simp (disch := decide) only [slotWord_fld, slotWord_bit, fld_append_left, fld_append_right, fld_self, bit_append_left, bit_append_right, bit_bitOf]

theorem shri (c : Ctl) (w : Bool) (xd xa : Reg) (n : BitVec 6) : Statement (.shri c w xd xa n) := by
  intro hw
  have hf : (c.isA && (!w || !n.getLsbD 5)) = true := hw
  have hA : c.isA = true := and1 hf
  refine ⟨slot_gives hw rfl rfl (slotWord_g ..) (slotWord_ar ..) (isMovl_slot _ _ _ (by decide)) (lendKept_zero _) ?_, fun _ h => nomatch h⟩
  rw [isA_read hA]
  simp only [encSI, readS, slotWord_op, BitVec.reduceToNat]
  simp (disch := decide) only [slotWord_fld, slotWord_bit, fld_append_left, fld_append_right, fld_self, bit_append_left, bit_append_right, bit_bitOf]

theorem sari (c : Ctl) (w : Bool) (xd xa : Reg) (n : BitVec 6) : Statement (.sari c w xd xa n) := by
  intro hw
  have hf : (c.isA && (!w || !n.getLsbD 5)) = true := hw
  have hA : c.isA = true := and1 hf
  refine ⟨slot_gives hw rfl rfl (slotWord_g ..) (slotWord_ar ..) (isMovl_slot _ _ _ (by decide)) (lendKept_zero _) ?_, fun _ h => nomatch h⟩
  rw [isA_read hA]
  simp only [encSI, readS, slotWord_op, BitVec.reduceToNat]
  simp (disch := decide) only [slotWord_fld, slotWord_bit, fld_append_left, fld_append_right, fld_self, bit_append_left, bit_append_right, bit_bitOf]

theorem bfx (c : Ctl) (xd xa : Reg) (pos lenM1 : BitVec 6) : Statement (.bfx c xd xa pos lenM1) := by
  intro hw
  have hf : (c.isA && decide (pos.toNat + lenM1.toNat + 1 ≤ 64)) = true := hw
  have hA : c.isA = true := and1 hf
  refine ⟨slot_gives hw rfl rfl (slotWord_g ..) (slotWord_ar ..) (isMovl_slot _ _ _ (by decide)) (lendKept_zero _) ?_, fun _ h => nomatch h⟩
  rw [isA_read hA]
  simp only [encSI, readS, slotWord_op, BitVec.reduceToNat]
  simp (disch := decide) only [slotWord_fld, fld_append_left, fld_append_right, fld_self]

theorem bfxs (c : Ctl) (xd xa : Reg) (pos lenM1 : BitVec 6) : Statement (.bfxs c xd xa pos lenM1) := by
  intro hw
  have hf : (c.isA && decide (pos.toNat + lenM1.toNat + 1 ≤ 64)) = true := hw
  have hA : c.isA = true := and1 hf
  refine ⟨slot_gives hw rfl rfl (slotWord_g ..) (slotWord_ar ..) (isMovl_slot _ _ _ (by decide)) (lendKept_zero _) ?_, fun _ h => nomatch h⟩
  rw [isA_read hA]
  simp only [encSI, readS, slotWord_op, BitVec.reduceToNat]
  simp (disch := decide) only [slotWord_fld, fld_append_left, fld_append_right, fld_self]

theorem bfi (c : Ctl) (xd xa : Reg) (pos lenM1 : BitVec 6) : Statement (.bfi c xd xa pos lenM1) := by
  intro hw
  have hf : (c.isA && decide (pos.toNat + lenM1.toNat + 1 ≤ 64)) = true := hw
  have hA : c.isA = true := and1 hf
  refine ⟨slot_gives hw rfl rfl (slotWord_g ..) (slotWord_ar ..) (isMovl_slot _ _ _ (by decide)) (lendKept_zero _) ?_, fun _ h => nomatch h⟩
  rw [isA_read hA]
  simp only [encSI, readS, slotWord_op, BitVec.reduceToNat]
  simp (disch := decide) only [slotWord_fld, fld_append_left, fld_append_right, fld_self]

theorem movi (c : Ctl) (xd : Reg) (imm : BitVec 18) : Statement (.movi c xd imm) := by
  intro hw
  have hf : (c.isA && fitsAd c imm) = true := hw
  have hA : c.isA = true := and1 hf
  refine ⟨slot_gives hw rfl rfl (slotWord_g ..) (slotWord_ar ..) (isMovl_slot _ _ _ (by decide)) (isA_lend hA _) ?_, fun _ h => nomatch h⟩
  rw [isA_read hA]
  simp only [encImm, encSI, readS, slotWord_op, BitVec.reduceToNat]
  simp (disch := decide) only [slotWord_fld, fld_append_left, fld_append_right, fld_self]
  exact congrArg (fun v => some (Instr.movi c xd v)) (extImm_back (and2 hf) _ _ rfl rfl)

theorem movk (c : Ctl) (xd : Reg) (imm : BitVec 16) (h : BitVec 2) : Statement (.movk c xd imm h) := by
  intro hw
  have hA : c.isA = true := hw
  refine ⟨slot_gives hw rfl rfl (slotWord_g ..) (slotWord_ar ..) (isMovl_slot _ _ _ (by decide)) (isA_lend4 hA _) ?_, fun _ h => nomatch h⟩
  rw [isA_read hA]
  simp only [encSI, readS, slotWord_op, BitVec.reduceToNat]
  simp (disch := decide) only [slotWord_fld, fld_append_left, fld_append_right, fld_self]
  exact congrArg (fun v => some (Instr.movk c xd v h)) (fld_join (a := 4) (b := 12) imm)

theorem movl (c : Ctl) (xd : Reg) (imm : BitVec 50) : Statement (.movl c xd imm) := by
  intro hw
  have hf : (c.isA && fitsAd c imm) = true := hw
  have hA : c.isA = true := and1 hf
  refine ⟨slot_gives hw rfl rfl (slotWord_g ..) (slotWord_ar ..) (isMovl_movl hA ..) (isA_lend hA _) ?_, fun _ h => nomatch h⟩
  rw [isA_read hA]
  simp only [readS, slotWord_op, BitVec.reduceToNat, Option.map_some]
  simp (disch := decide) only [slotWord_fld, fld_append_left, fld_append_right, fld_self]
  rw [fld_join_lo]
  exact congrArg (fun v => some (Instr.movl c xd v)) (extImm_back (n := 44) (and2 hf) _ _ rfl rfl)

theorem cmp (c : Ctl) (cond : Cond) (sz : CmpSize) (pt pf : BitVec 3) (xa xb : Reg) : Statement (.cmp c cond sz pt pf xa xb) := by
  intro hw
  have hA : c.isA = true := and1 hw
  refine ⟨slot_gives hw rfl rfl (slotWord_g ..) (slotWord_ar ..) (isMovl_slot _ _ _ (by decide)) (lendKept_zero _) ?_, fun _ h => nomatch h⟩
  rw [isA_read hA]
  simp only [readS, slotWord_op, BitVec.reduceToNat]
  simp (disch := decide) only [slotWord_fld, fld_append_left, fld_append_right, fld_self, cond_code, cmpSize_code, Option.map_some, Option.bind_some]

theorem cmpi (c : Ctl) (cond : Cond) (pt pf : BitVec 3) (xa : Reg) (imm : BitVec 13) : Statement (.cmpi c cond pt pf xa imm) := by
  intro hw
  have hf : (c.isA && fitsAd c imm && (!(pt == pf) || pt == 0)) = true := hw
  have hA : c.isA = true := and1 (and1 hf)
  refine ⟨slot_gives hw rfl rfl (slotWord_g ..) (slotWord_ar ..) (isMovl_slot _ _ _ (by decide)) (isA_lend hA _) ?_, fun _ h => nomatch h⟩
  rw [isA_read hA]
  simp only [readS, slotWord_op, BitVec.reduceToNat]
  simp (disch := decide) only [slotWord_fld, fld_append_left, fld_append_right, fld_self, cond_code, Option.map_some]
  exact congrArg (fun v => some (Instr.cmpi c cond pt pf xa v)) (extImm_back (n := 7) (v := imm) (and2 (and1 hf)) (immLend c (fld imm 7 6)) (fld imm 0 7) rfl rfl)

theorem plog (c : Ctl) (pd pa pb : BitVec 3) (tt : BitVec 4) : Statement (.plog c pd pa pb tt) := by
  intro hw
  have hA : c.isA = true := hw
  refine ⟨slot_gives hw rfl rfl (slotWord_g ..) (slotWord_ar ..) (isMovl_slot _ _ _ (by decide)) (lendKept_zero _) ?_, fun _ h => nomatch h⟩
  rw [isA_read hA]
  simp only [encS3, readS, slotWord_op, BitVec.reduceToNat]
  simp (disch := decide) only [slotWord_fld, fld_append_left, fld_append_right, fld_self, r3]

theorem pmov (c : Ctl) (form : PmovForm) : Statement (.pmov c form) := by
  intro hw
  have hA : c.isA = true := hw
  cases form
  all_goals
    refine ⟨slot_gives hw rfl rfl (slotWord_g ..) (slotWord_ar ..) (isMovl_slot _ _ _ (by decide)) (lendKept_zero _) ?_, fun _ h => nomatch h⟩
    rw [isA_read hA]
    simp only [encS3, readS, slotWord_op, BitVec.reduceToNat]
    simp (disch := decide) only [slotWord_fld, fld_append_left, fld_append_right, fld_self, r3]
    rfl

theorem ld (c : Ctl) (sz : MemSize) (xd xb : Reg) (cls : BitVec 4) (off : BitVec 11) : Statement (.ld c sz xd xb cls off) := by
  intro hw
  have hf : (c.isA && fitsAd c off) = true := hw
  have hA : c.isA = true := and1 hf
  refine ⟨slot_gives hw rfl rfl (slotWord_g ..) (slotWord_ar ..) (isMovl_slot _ _ _ (by decide)) (isA_lend hA _) ?_, fun _ h => nomatch h⟩
  rw [isA_read hA]
  simp only [encSM, readS, slotWord_op, BitVec.reduceToNat]
  simp (disch := decide) only [slotWord_fld, fld_append_left, fld_append_right, fld_self, memSize_code, Option.map_some]
  exact congrArg (fun v => some (Instr.ld c sz xd xb cls v)) (extImm_back (and2 hf) _ _ rfl rfl)

theorem st (c : Ctl) (sz : MemSize) (xd xb : Reg) (cls : BitVec 4) (off : BitVec 11) : Statement (.st c sz xd xb cls off) := by
  intro hw
  have hf : (c.isA && fitsAd c off) = true := hw
  have hA : c.isA = true := and1 hf
  refine ⟨slot_gives hw rfl rfl (slotWord_g ..) (slotWord_ar ..) (isMovl_slot _ _ _ (by decide)) (isA_lend hA _) ?_, fun _ h => nomatch h⟩
  rw [isA_read hA]
  simp only [encSM, readS, slotWord_op, BitVec.reduceToNat]
  simp (disch := decide) only [slotWord_fld, fld_append_left, fld_append_right, fld_self, memSize_code, Option.map_some]
  exact congrArg (fun v => some (Instr.st c sz xd xb cls v)) (extImm_back (and2 hf) _ _ rfl rfl)

theorem ldx (c : Ctl) (sz : MemSize) (xd xa xb : Reg) (cls : BitVec 4) : Statement (.ldx c sz xd xa xb cls) := by
  intro hw
  have hA : c.isA = true := hw
  refine ⟨slot_gives hw rfl rfl (slotWord_g ..) (slotWord_ar ..) (isMovl_slot _ _ _ (by decide)) (lendKept_zero _) ?_, fun _ h => nomatch h⟩
  rw [isA_read hA]
  simp only [encS3, readS, slotWord_op, BitVec.reduceToNat]
  simp (disch := decide) only [slotWord_fld, fld_append_left, fld_append_right, fld_self, memSize_code, Option.map_some]

theorem stx (c : Ctl) (sz : MemSize) (xd xa xb : Reg) (cls : BitVec 4) : Statement (.stx c sz xd xa xb cls) := by
  intro hw
  have hA : c.isA = true := hw
  refine ⟨slot_gives hw rfl rfl (slotWord_g ..) (slotWord_ar ..) (isMovl_slot _ _ _ (by decide)) (lendKept_zero _) ?_, fun _ h => nomatch h⟩
  rw [isA_read hA]
  simp only [encS3, readS, slotWord_op, BitVec.reduceToNat]
  simp (disch := decide) only [slotWord_fld, fld_append_left, fld_append_right, fld_self, memSize_code, Option.map_some]

theorem hld (c : Ctl) (sz : MemSize) (xd xb : Reg) (cls : BitVec 4) (off : BitVec 11) : Statement (.hld c sz xd xb cls off) := by
  intro hw
  have hf : (c.isA && fitsAd c off) = true := hw
  have hA : c.isA = true := and1 hf
  refine ⟨slot_gives hw rfl rfl (slotWord_g ..) (slotWord_ar ..) (isMovl_slot _ _ _ (by decide)) (isA_lend hA _) ?_, fun _ h => nomatch h⟩
  rw [isA_read hA]
  simp only [encSM, readS, slotWord_op, BitVec.reduceToNat]
  simp (disch := decide) only [slotWord_fld, fld_append_left, fld_append_right, fld_self, memSize_code, Option.map_some]
  exact congrArg (fun v => some (Instr.hld c sz xd xb cls v)) (extImm_back (and2 hf) _ _ rfl rfl)

theorem hst (c : Ctl) (sz : MemSize) (xd xb : Reg) (cls : BitVec 4) (off : BitVec 11) : Statement (.hst c sz xd xb cls off) := by
  intro hw
  have hf : (c.isA && fitsAd c off) = true := hw
  have hA : c.isA = true := and1 hf
  refine ⟨slot_gives hw rfl rfl (slotWord_g ..) (slotWord_ar ..) (isMovl_slot _ _ _ (by decide)) (isA_lend hA _) ?_, fun _ h => nomatch h⟩
  rw [isA_read hA]
  simp only [encSM, readS, slotWord_op, BitVec.reduceToNat]
  simp (disch := decide) only [slotWord_fld, fld_append_left, fld_append_right, fld_self, memSize_code, Option.map_some]
  exact congrArg (fun v => some (Instr.hst c sz xd xb cls v)) (extImm_back (and2 hf) _ _ rfl rfl)

theorem tagset (c : Ctl) (xd xa : Reg) (t : BitVec 2) : Statement (.tagset c xd xa t) := by
  intro hw
  have hA : c.isA = true := hw
  refine ⟨slot_gives hw rfl rfl (slotWord_g ..) (slotWord_ar ..) (isMovl_slot _ _ _ (by decide)) (lendKept_zero _) ?_, fun _ h => nomatch h⟩
  rw [isA_read hA]
  simp only [encS3, readS, slotWord_op, BitVec.reduceToNat]
  simp (disch := decide) only [slotWord_fld, fld_append_left, fld_append_right, fld_self]

theorem tagchk (c : Ctl) (xd xa xb : Reg) (m : BitVec 4) : Statement (.tagchk c xd xa xb m) := by
  intro hw
  have hA : c.isA = true := and1 hw
  refine ⟨slot_gives hw rfl rfl (slotWord_g ..) (slotWord_ar ..) (isMovl_slot _ _ _ (by decide)) (lendKept_zero _) ?_, fun _ h => nomatch h⟩
  rw [isA_read hA]
  simp only [encS3, readS, slotWord_op, BitVec.reduceToNat]
  simp (disch := decide) only [slotWord_fld, fld_append_left, fld_append_right, fld_self]

theorem klog (c : Ctl) (kd ka kb : BitVec 3) (tt : BitVec 4) : Statement (.klog c kd ka kb tt) := by
  intro hw
  have hA : c.isA = true := hw
  refine ⟨slot_gives hw rfl rfl (slotWord_g ..) (slotWord_ar ..) (isMovl_slot _ _ _ (by decide)) (lendKept_zero _) ?_, fun _ h => nomatch h⟩
  rw [isA_read hA]
  simp only [encS3, readS, slotWord_op, BitVec.reduceToNat]
  simp (disch := decide) only [slotWord_fld, fld_append_left, fld_append_right, fld_self, r3]

theorem kmov (c : Ctl) (form : KmovForm) : Statement (.kmov c form) := by
  intro hw
  have hA : c.isA = true := hw
  cases form
  all_goals
    refine ⟨slot_gives hw rfl rfl (slotWord_g ..) (slotWord_ar ..) (isMovl_slot _ _ _ (by decide)) (lendKept_zero _) ?_, fun _ h => nomatch h⟩
    rw [isA_read hA]
    simp only [encS3, readS, slotWord_op, BitVec.reduceToNat]
    simp (disch := decide) only [slotWord_fld, fld_append_left, fld_append_right, fld_self, r3]
    rfl

theorem kpop (c : Ctl) (fn : KpopFn) (xd : Reg) (ka : BitVec 3) : Statement (.kpop c fn xd ka) := by
  intro hw
  have hA : c.isA = true := hw
  refine ⟨slot_gives hw rfl rfl (slotWord_g ..) (slotWord_ar ..) (isMovl_slot _ _ _ (by decide)) (lendKept_zero _) ?_, fun _ h => nomatch h⟩
  rw [isA_read hA]
  simp only [encS3, readS, slotWord_op, BitVec.reduceToNat]
  simp (disch := decide) only [slotWord_fld, fld_append_left, fld_append_right, fld_self, r3, kpopFn_code, Option.map_some]

theorem semadd (c : Ctl) (n : BitVec 6) (xa : Reg) (imm : BitVec 6) : Statement (.semadd c n xa imm) := by
  intro hw
  have hA : c.isA = true := hw
  refine ⟨slot_gives hw rfl rfl (slotWord_g ..) (slotWord_ar ..) (isMovl_slot _ _ _ (by decide)) (lendKept_zero _) ?_, fun _ h => nomatch h⟩
  rw [isA_read hA]
  simp only [encSI, readS, slotWord_op, BitVec.reduceToNat]
  simp (disch := decide) only [slotWord_fld, fld_append_left, fld_append_right, fld_self]

theorem semwait (c : Ctl) (n : BitVec 6) (xa : Reg) (dec chk : Bool) : Statement (.semwait c n xa dec chk) := by
  intro hw
  have hA : c.isA = true := isC_isA hw
  refine ⟨slot_gives hw rfl rfl (slotWord_g ..) (slotWord_ar ..) (isMovl_slot _ _ _ (by decide)) (lendKept_zero _) ?_, fun _ h => nomatch h⟩
  rw [isA_read hA]
  simp only [encSI, readS, slotWord_op, BitVec.reduceToNat]
  simp (disch := decide) only [slotWord_fld, slotWord_bit, fld_append_left, fld_append_right, fld_self, bit_append_left, bit_append_right, bit_bitOf]

theorem semrd (c : Ctl) (xd : Reg) (n : BitVec 6) (clr : Bool) : Statement (.semrd c xd n clr) := by
  intro hw
  have hA : c.isA = true := hw
  refine ⟨slot_gives hw rfl rfl (slotWord_g ..) (slotWord_ar ..) (isMovl_slot _ _ _ (by decide)) (lendKept_zero _) ?_, fun _ h => nomatch h⟩
  rw [isA_read hA]
  simp only [encSI, readS, slotWord_op, BitVec.reduceToNat]
  simp (disch := decide) only [slotWord_fld, slotWord_bit, fld_append_left, fld_append_right, fld_self, bit_append_left, bit_append_right, bit_bitOf]

theorem fence (c : Ctl) (mask : BitVec 16) : Statement (.fence c mask) := by
  intro hw
  have hA : c.isA = true := and1 hw
  refine ⟨slot_gives hw rfl rfl (slotWord_g ..) (slotWord_ar ..) (isMovl_slot _ _ _ (by decide)) (isA_lend4 hA _) ?_, fun _ h => nomatch h⟩
  rw [isA_read hA]
  simp only [encSI, readS, slotWord_op, BitVec.reduceToNat]
  simp (disch := decide) only [slotWord_fld, slotWord_bit, fld_append_right, fld_self, bit_append_left]
  exact congrArg (fun v => some (Instr.fence c v)) (fld_join (a := 4) (b := 12) mask)

theorem fenceWait (c : Ctl) (mask : BitVec 16) : Statement (.fenceWait c mask) := by
  intro hw
  have hA : c.isA = true := isC_isA (and1 hw)
  refine ⟨slot_gives hw rfl rfl (slotWord_g ..) (slotWord_ar ..) (isMovl_slot _ _ _ (by decide)) (isA_lend4 hA _) ?_, fun _ h => nomatch h⟩
  rw [isA_read hA]
  simp only [encSI, readS, slotWord_op, BitVec.reduceToNat]
  simp (disch := decide) only [slotWord_fld, slotWord_bit, fld_append_right, fld_self, bit_append_left]
  exact congrArg (fun v => some (Instr.fenceWait c v)) (fld_join (a := 4) (b := 12) mask)

theorem br (c : Ctl) (disp : BitVec 28) : Statement (.br c disp) := by
  intro hw
  have hA : c.isA = true := isC_isA hw
  refine ⟨slot_gives hw rfl rfl (slotWord_g ..) (slotWord_ar ..) (isMovl_slot _ _ _ (by decide)) (isC_lend hw _) ?_, fun _ h => nomatch h⟩
  rw [isA_read hA]
  simp only [readS, slotWord_op, BitVec.reduceToNat]
  simp (disch := decide) only [slotWord_fld, fld_self]
  exact congrArg (fun v => some (Instr.br c v)) (fld_join (a := 6) (b := 22) disp)

theorem call (c : Ctl) (disp : BitVec 28) : Statement (.call c disp) := by
  intro hw
  have hA : c.isA = true := isC_isA hw
  refine ⟨slot_gives hw rfl rfl (slotWord_g ..) (slotWord_ar ..) (isMovl_slot _ _ _ (by decide)) (isC_lend hw _) ?_, fun _ h => nomatch h⟩
  rw [isA_read hA]
  simp only [readS, slotWord_op, BitVec.reduceToNat]
  simp (disch := decide) only [slotWord_fld, fld_self]
  exact congrArg (fun v => some (Instr.call c v)) (fld_join (a := 6) (b := 22) disp)

theorem jmpr (c : Ctl) (xd xa : Reg) : Statement (.jmpr c xd xa) := by
  intro hw
  have hA : c.isA = true := isC_isA hw
  refine ⟨slot_gives hw rfl rfl (slotWord_g ..) (slotWord_ar ..) (isMovl_slot _ _ _ (by decide)) (lendKept_zero _) ?_, fun _ h => nomatch h⟩
  rw [isA_read hA]
  simp only [encS3, readS, slotWord_op, BitVec.reduceToNat]
  simp (disch := decide) only [slotWord_fld, fld_append_left, fld_append_right, fld_self]

theorem loop (c : Ctl) (n : Bool) (xa : Reg) (disp : BitVec 18) : Statement (.loop c n xa disp) := by
  intro hw
  have hA : c.isA = true := isC_isA hw
  refine ⟨slot_gives hw rfl rfl (slotWord_g ..) (slotWord_ar ..) (isMovl_slot _ _ _ (by decide)) (isA_lend hA _) ?_, fun _ h => nomatch h⟩
  rw [isA_read hA]
  simp only [encImm, encSI, readS, slotWord_op, BitVec.reduceToNat]
  simp (disch := decide) only [slotWord_fld, slotWord_bit, fld_append_left, fld_append_right, fld_self, bit_append_left]
  rw [show bit (bitOf 5 n) (17 - 12 - 5) = n from bit_bitOf_wide n (by decide)]
  exact congrArg (fun v => some (Instr.loop c n xa v)) (extImm_back (n := 12) (v := disp) (isC_fits hw _) _ _ rfl rfl)

theorem csrr (c : Ctl) (xd : Reg) (a : BitVec 12) : Statement (.csrr c xd a) := by
  intro hw
  have hA : c.isA = true := hw
  refine ⟨slot_gives hw rfl rfl (slotWord_g ..) (slotWord_ar ..) (isMovl_slot _ _ _ (by decide)) (lendKept_zero _) ?_, fun _ h => nomatch h⟩
  rw [isA_read hA]
  simp only [encSI, readS, slotWord_op, BitVec.reduceToNat]
  simp (disch := decide) only [slotWord_fld, fld_append_left, fld_append_right, fld_self]

theorem csrw (c : Ctl) (a : BitVec 12) (xa : Reg) : Statement (.csrw c a xa) := by
  intro hw
  have hA : c.isA = true := isC_isA (and1 hw)
  refine ⟨slot_gives hw rfl rfl (slotWord_g ..) (slotWord_ar ..) (isMovl_slot _ _ _ (by decide)) (lendKept_zero _) ?_, fun _ h => nomatch h⟩
  rw [isA_read hA]
  simp only [encSI, readS, slotWord_op, BitVec.reduceToNat]
  simp (disch := decide) only [slotWord_fld, fld_append_left, fld_append_right, fld_self]
  exact csrw_read (and2 hw)

theorem csrx (c : Ctl) (xd : Reg) (a : BitVec 12) (xa : Reg) : Statement (.csrx c xd a xa) := by
  intro hw
  have hA : c.isA = true := isC_isA hw
  refine ⟨slot_gives hw rfl rfl (slotWord_g ..) (slotWord_ar ..) (isMovl_slot _ _ _ (by decide)) (lendKept_zero _) ?_, fun _ h => nomatch h⟩
  rw [isA_read hA]
  simp only [encSI, readS, slotWord_op, BitVec.reduceToNat]
  simp (disch := decide) only [slotWord_fld, fld_append_left, fld_append_right, fld_self]

theorem domWrite (c : Ctl) (l : Level) (xa : Reg) : Statement (.domWrite c l xa) := by
  intro hw
  have hA : c.isA = true := isC_isA hw
  cases l <;>
    exact ⟨slot_gives hw rfl rfl (slotWord_g ..) (slotWord_ar ..) (isMovl_slot _ _ _ (by decide)) (lendKept_zero _) (by
      rw [isA_read hA]
      simp only [encSI, readS, slotWord_op, BitVec.reduceToNat]
      simp (disch := decide) only [slotWord_fld, fld_append_left, fld_append_right, fld_self]
      rfl), fun _ h => nomatch h⟩

theorem trap (c : Ctl) (code : BitVec 16) : Statement (.trap c code) := by
  intro hw
  have hA : c.isA = true := isC_isA hw
  refine ⟨slot_gives hw rfl rfl (slotWord_g ..) (slotWord_ar ..) (isMovl_slot _ _ _ (by decide)) (isA_lend4 hA _) ?_, fun _ h => nomatch h⟩
  rw [isA_read hA]
  simp only [encSI, readS, slotWord_op, BitVec.reduceToNat]
  simp (disch := decide) only [slotWord_fld, fld_append_right, fld_self]
  exact congrArg (fun v => some (Instr.trap c v)) (fld_join (a := 4) (b := 12) code)

theorem eret (c : Ctl) : Statement (.eret c) := by
  intro hw
  have hA : c.isA = true := isC_isA hw
  refine ⟨slot_gives hw rfl rfl (slotWord_g ..) (slotWord_ar ..) (isMovl_slot _ _ _ (by decide)) (lendKept_zero _) ?_, fun _ h => nomatch h⟩
  rw [isA_read hA]
  simp only [encS3, readS, slotWord_op, BitVec.reduceToNat]

theorem brk (c : Ctl) (code : BitVec 16) : Statement (.brk c code) := by
  intro hw
  have hA : c.isA = true := isC_isA hw
  refine ⟨slot_gives hw rfl rfl (slotWord_g ..) (slotWord_ar ..) (isMovl_slot _ _ _ (by decide)) (isA_lend4 hA _) ?_, fun _ h => nomatch h⟩
  rw [isA_read hA]
  simp only [encSI, readS, slotWord_op, BitVec.reduceToNat]
  simp (disch := decide) only [slotWord_fld, fld_append_right, fld_self]
  exact congrArg (fun v => some (Instr.brk c v)) (fld_join (a := 4) (b := 12) code)

theorem land (c : Ctl) (n : BitVec 5) : Statement (.land c n) := by
  intro hw
  have hA : c.isA = true := isC_isA hw
  refine ⟨slot_gives hw rfl rfl (slotWord_g ..) (slotWord_ar ..) (isMovl_slot _ _ _ (by decide)) (lendKept_zero _) ?_, fun _ h => nomatch h⟩
  rw [isA_read hA]
  simp only [encSI, readS, slotWord_op, BitVec.reduceToNat]
  simp (disch := decide) only [slotWord_fld, fld_append_right, fld_self]

theorem berthArm (c : Ctl) (n : BitVec 5) (xa xb : Reg) : Statement (.berthArm c n xa xb) := by
  intro hw
  have hA : c.isA = true := isC_isA hw
  refine ⟨slot_gives hw rfl rfl (slotWord_g ..) (slotWord_ar ..) (isMovl_slot _ _ _ (by decide)) (lendKept_zero _) ?_, fun _ h => nomatch h⟩
  rw [isA_read hA]
  simp only [encS3, readS, slotWord_op, BitVec.reduceToNat]
  simp (disch := decide) only [slotWord_fld, fld_append_left, fld_append_right, fld_self]
  rfl

theorem berthTag (c : Ctl) (n : BitVec 5) (xb : Reg) : Statement (.berthTag c n xb) := by
  intro hw
  have hA : c.isA = true := isC_isA hw
  refine ⟨slot_gives hw rfl rfl (slotWord_g ..) (slotWord_ar ..) (isMovl_slot _ _ _ (by decide)) (lendKept_zero _) ?_, fun _ h => nomatch h⟩
  rw [isA_read hA]
  simp only [encS3, readS, slotWord_op, BitVec.reduceToNat]
  simp (disch := decide) only [slotWord_fld, fld_append_left, fld_append_right, fld_self]
  rfl

theorem berthOff (c : Ctl) (n : BitVec 5) : Statement (.berthOff c n) := by
  intro hw
  have hA : c.isA = true := isC_isA hw
  refine ⟨slot_gives hw rfl rfl (slotWord_g ..) (slotWord_ar ..) (isMovl_slot _ _ _ (by decide)) (lendKept_zero _) ?_, fun _ h => nomatch h⟩
  rw [isA_read hA]
  simp only [encS3, readS, slotWord_op, BitVec.reduceToNat]
  simp (disch := decide) only [slotWord_fld, fld_append_left, fld_append_right, fld_self]
  rfl

theorem tick (c : Ctl) (fn : TickFn) (xd : Reg) : Statement (.tick c fn xd) := by
  intro hw
  have hA : c.isA = true := hw
  refine ⟨slot_gives hw rfl rfl (slotWord_g ..) (slotWord_ar ..) (isMovl_slot _ _ _ (by decide)) (lendKept_zero _) ?_, fun _ h => nomatch h⟩
  rw [isA_read hA]
  simp only [encS3, readS, slotWord_op, BitVec.reduceToNat]
  simp (disch := decide) only [slotWord_fld, fld_append_left, fld_append_right, fld_self, tickFn_code, Option.map_some]

theorem waitt (c : Ctl) (rel : Bool) (xa : Reg) : Statement (.waitt c rel xa) := by
  intro hw
  have hA : c.isA = true := isC_isA hw
  refine ⟨slot_gives hw rfl rfl (slotWord_g ..) (slotWord_ar ..) (isMovl_slot _ _ _ (by decide)) (lendKept_zero _) ?_, fun _ h => nomatch h⟩
  rw [isA_read hA]
  simp only [encS3, readS, slotWord_op, BitVec.reduceToNat]
  simp (disch := decide) only [slotWord_fld, slotWord_bit, fld_append_left, fld_append_right, fld_self, bit_append_right, bit_bitOf_wide]

theorem domarv (c : Ctl) (l : Level) : Statement (.domarv c l) := by
  intro hw
  have hA : c.isA = true := isC_isA hw
  refine ⟨slot_gives hw rfl rfl (slotWord_g ..) (slotWord_ar ..) (isMovl_slot _ _ _ (by decide)) (lendKept_zero _) ?_, fun _ h => nomatch h⟩
  rw [isA_read hA]
  simp only [encSI, readS, slotWord_op, BitVec.reduceToNat]
  simp (disch := decide) only [slotWord_fld, fld_append_right, fld_self, level_code, Option.map_some]

theorem domwait (c : Ctl) (l : Level) : Statement (.domwait c l) := by
  intro hw
  have hA : c.isA = true := isC_isA hw
  refine ⟨slot_gives hw rfl rfl (slotWord_g ..) (slotWord_ar ..) (isMovl_slot _ _ _ (by decide)) (lendKept_zero _) ?_, fun _ h => nomatch h⟩
  rw [isA_read hA]
  simp only [encSI, readS, slotWord_op, BitVec.reduceToNat]
  simp (disch := decide) only [slotWord_fld, fld_append_right, fld_self, level_code, Option.map_some]

theorem spawn (c : Ctl) (xd xa xb : Reg) : Statement (.spawn c xd xa xb) := by
  intro hw
  have hA : c.isA = true := isC_isA hw
  refine ⟨slot_gives hw rfl rfl (slotWord_g ..) (slotWord_ar ..) (isMovl_slot _ _ _ (by decide)) (lendKept_zero _) ?_, fun _ h => nomatch h⟩
  rw [isA_read hA]
  simp only [encS3, readS, slotWord_op, BitVec.reduceToNat]
  simp (disch := decide) only [slotWord_fld, fld_append_left, fld_append_right, fld_self]

theorem exit (c : Ctl) : Statement (.exit c) := by
  intro hw
  have hA : c.isA = true := isC_isA hw
  refine ⟨slot_gives hw rfl rfl (slotWord_g ..) (slotWord_ar ..) (isMovl_slot _ _ _ (by decide)) (lendKept_zero _) ?_, fun _ h => nomatch h⟩
  rw [isA_read hA]
  simp only [encS3, readS, slotWord_op, BitVec.reduceToNat]

theorem exitWeightAdd (core : CoreId) : Statement (.exitWeightAdd core) := no_word rfl rfl

theorem phaseBegin (c : Ctl) : Statement (.phaseBegin c) := by
  intro hw
  have hA : c.isA = true := isC_isA hw
  refine ⟨slot_gives hw rfl rfl (slotWord_g ..) (slotWord_ar ..) (isMovl_slot _ _ _ (by decide)) (lendKept_zero _) ?_, fun _ h => nomatch h⟩
  rw [isA_read hA]
  simp only [encSI, readS, slotWord_op, BitVec.reduceToNat]
  simp (disch := decide) only [slotWord_fld, fld_append_right]
  rfl

theorem phaseCommit (c : Ctl) : Statement (.phaseCommit c) := by
  intro hw
  have hA : c.isA = true := isC_isA hw
  refine ⟨slot_gives hw rfl rfl (slotWord_g ..) (slotWord_ar ..) (isMovl_slot _ _ _ (by decide)) (lendKept_zero _) ?_, fun _ h => nomatch h⟩
  rw [isA_read hA]
  simp only [encSI, readS, slotWord_op, BitVec.reduceToNat]
  simp (disch := decide) only [slotWord_fld, fld_append_right]
  rfl

theorem phaseAbort (c : Ctl) : Statement (.phaseAbort c) := by
  intro hw
  have hA : c.isA = true := isC_isA hw
  refine ⟨slot_gives hw rfl rfl (slotWord_g ..) (slotWord_ar ..) (isMovl_slot _ _ _ (by decide)) (lendKept_zero _) ?_, fun _ h => nomatch h⟩
  rw [isA_read hA]
  simp only [encSI, readS, slotWord_op, BitVec.reduceToNat]
  simp (disch := decide) only [slotWord_fld, fld_append_right]
  rfl

theorem plswap (c : Ctl) : Statement (.plswap c) := by
  intro hw
  have hA : c.isA = true := isC_isA hw
  refine ⟨slot_gives hw rfl rfl (slotWord_g ..) (slotWord_ar ..) (isMovl_slot _ _ _ (by decide)) (lendKept_zero _) ?_, fun _ h => nomatch h⟩
  rw [isA_read hA]
  simp only [encS3, readS, slotWord_op, BitVec.reduceToNat]
  simp (disch := decide) only [slotWord_bit, bit_append_right]
  rfl

theorem plswapCancel (c : Ctl) : Statement (.plswapCancel c) := by
  intro hw
  have hA : c.isA = true := isC_isA hw
  refine ⟨slot_gives hw rfl rfl (slotWord_g ..) (slotWord_ar ..) (isMovl_slot _ _ _ (by decide)) (lendKept_zero _) ?_, fun _ h => nomatch h⟩
  rw [isA_read hA]
  simp only [encS3, readS, slotWord_op, BitVec.reduceToNat]
  simp (disch := decide) only [slotWord_bit, bit_append_right]
  rfl

theorem vadd (o : V3) : Statement (.vadd o) :=
  fun hw => ⟨v3_gives hw rfl rfl (by first | exact hw | exact and1 hw | exact and1 (and1 hw) | exact and1 (and1 (and1 hw)) | exact and1 (and1 (and1 (and1 hw)))) (by simp only [readV, encV3_op, BitVec.reduceToNat, decV3_back, Option.map_some]), fun _ h => nomatch h⟩

theorem vsub (o : V3) : Statement (.vsub o) :=
  fun hw => ⟨v3_gives hw rfl rfl (by first | exact hw | exact and1 hw | exact and1 (and1 hw) | exact and1 (and1 (and1 hw)) | exact and1 (and1 (and1 (and1 hw)))) (by simp only [readV, encV3_op, BitVec.reduceToNat, decV3_back, Option.map_some]), fun _ h => nomatch h⟩

theorem vmul (o : V3) : Statement (.vmul o) :=
  fun hw => ⟨v3_gives hw rfl rfl (by first | exact hw | exact and1 hw | exact and1 (and1 hw) | exact and1 (and1 (and1 hw)) | exact and1 (and1 (and1 (and1 hw)))) (by simp only [readV, encV3_op, BitVec.reduceToNat, decV3_back, Option.map_some]), fun _ h => nomatch h⟩

theorem vfma (o : V3) : Statement (.vfma o) :=
  fun hw => ⟨v3_gives hw rfl rfl (by first | exact hw | exact and1 hw | exact and1 (and1 hw) | exact and1 (and1 (and1 hw)) | exact and1 (and1 (and1 (and1 hw)))) (by simp only [readV, encV3_op, BitVec.reduceToNat, decV3_back, Option.map_some]), fun _ h => nomatch h⟩

theorem vfms (o : V3) : Statement (.vfms o) :=
  fun hw => ⟨v3_gives hw rfl rfl (by first | exact hw | exact and1 hw | exact and1 (and1 hw) | exact and1 (and1 (and1 hw)) | exact and1 (and1 (and1 (and1 hw)))) (by simp only [readV, encV3_op, BitVec.reduceToNat, decV3_back, Option.map_some]), fun _ h => nomatch h⟩

theorem vmin (o : V3) : Statement (.vmin o) :=
  fun hw => ⟨v3_gives hw rfl rfl (by first | exact hw | exact and1 hw | exact and1 (and1 hw) | exact and1 (and1 (and1 hw)) | exact and1 (and1 (and1 (and1 hw)))) (by simp only [readV, encV3_op, BitVec.reduceToNat, decV3_back, Option.map_some]), fun _ h => nomatch h⟩

theorem vmax (o : V3) : Statement (.vmax o) :=
  fun hw => ⟨v3_gives hw rfl rfl (by first | exact hw | exact and1 hw | exact and1 (and1 hw) | exact and1 (and1 (and1 hw)) | exact and1 (and1 (and1 (and1 hw)))) (by simp only [readV, encV3_op, BitVec.reduceToNat, decV3_back, Option.map_some]), fun _ h => nomatch h⟩

theorem vminn (o : V3) : Statement (.vminn o) :=
  fun hw => ⟨v3_gives hw rfl rfl (by first | exact hw | exact and1 hw | exact and1 (and1 hw) | exact and1 (and1 (and1 hw)) | exact and1 (and1 (and1 (and1 hw)))) (by simp only [readV, encV3_op, BitVec.reduceToNat, decV3_back, Option.map_some]), fun _ h => nomatch h⟩

theorem vmaxn (o : V3) : Statement (.vmaxn o) :=
  fun hw => ⟨v3_gives hw rfl rfl (by first | exact hw | exact and1 hw | exact and1 (and1 hw) | exact and1 (and1 (and1 hw)) | exact and1 (and1 (and1 (and1 hw)))) (by simp only [readV, encV3_op, BitVec.reduceToNat, decV3_back, Option.map_some]), fun _ h => nomatch h⟩

theorem vabs (o : V3) : Statement (.vabs o) :=
  fun hw => ⟨v3_gives hw rfl rfl (by first | exact hw | exact and1 hw | exact and1 (and1 hw) | exact and1 (and1 (and1 hw)) | exact and1 (and1 (and1 (and1 hw)))) (by simp only [readV, encV3_op, BitVec.reduceToNat, decV3_back, Option.map_some]), fun _ h => nomatch h⟩

theorem vneg (o : V3) : Statement (.vneg o) :=
  fun hw => ⟨v3_gives hw rfl rfl (by first | exact hw | exact and1 hw | exact and1 (and1 hw) | exact and1 (and1 (and1 hw)) | exact and1 (and1 (and1 (and1 hw)))) (by simp only [readV, encV3_op, BitVec.reduceToNat, decV3_back, Option.map_some]), fun _ h => nomatch h⟩

theorem vadds (o : V3) : Statement (.vadds o) :=
  fun hw => ⟨v3_gives hw rfl rfl (by first | exact hw | exact and1 hw | exact and1 (and1 hw) | exact and1 (and1 (and1 hw)) | exact and1 (and1 (and1 (and1 hw)))) (by simp only [readV, encV3_op, BitVec.reduceToNat, decV3_back, Option.map_some]), fun _ h => nomatch h⟩

theorem vsubs (o : V3) : Statement (.vsubs o) :=
  fun hw => ⟨v3_gives hw rfl rfl (by first | exact hw | exact and1 hw | exact and1 (and1 hw) | exact and1 (and1 (and1 hw)) | exact and1 (and1 (and1 (and1 hw)))) (by simp only [readV, encV3_op, BitVec.reduceToNat, decV3_back, Option.map_some]), fun _ h => nomatch h⟩

theorem vmulh (o : V3) : Statement (.vmulh o) :=
  fun hw => ⟨v3_gives hw rfl rfl (by first | exact hw | exact and1 hw | exact and1 (and1 hw) | exact and1 (and1 (and1 hw)) | exact and1 (and1 (and1 (and1 hw)))) (by simp only [readV, encV3_op, BitVec.reduceToNat, decV3_back, Option.map_some]), fun _ h => nomatch h⟩

theorem vclmp (o : V3) : Statement (.vclmp o) :=
  fun hw => ⟨v3_gives hw rfl rfl (by first | exact hw | exact and1 hw | exact and1 (and1 hw) | exact and1 (and1 (and1 hw)) | exact and1 (and1 (and1 (and1 hw)))) (by simp only [readV, encV3_op, BitVec.reduceToNat, decV3_back, Option.map_some]), fun _ h => nomatch h⟩

theorem vand (o : V3) : Statement (.vand o) :=
  fun hw => ⟨v3_gives hw rfl rfl (by first | exact hw | exact and1 hw | exact and1 (and1 hw) | exact and1 (and1 (and1 hw)) | exact and1 (and1 (and1 (and1 hw)))) (by simp only [readV, encV3_op, BitVec.reduceToNat, decV3_back, Option.map_some]), fun _ h => nomatch h⟩

theorem vor (o : V3) : Statement (.vor o) :=
  fun hw => ⟨v3_gives hw rfl rfl (by first | exact hw | exact and1 hw | exact and1 (and1 hw) | exact and1 (and1 (and1 hw)) | exact and1 (and1 (and1 (and1 hw)))) (by simp only [readV, encV3_op, BitVec.reduceToNat, decV3_back, Option.map_some]), fun _ h => nomatch h⟩

theorem vxor (o : V3) : Statement (.vxor o) :=
  fun hw => ⟨v3_gives hw rfl rfl (by first | exact hw | exact and1 hw | exact and1 (and1 hw) | exact and1 (and1 (and1 hw)) | exact and1 (and1 (and1 (and1 hw)))) (by simp only [readV, encV3_op, BitVec.reduceToNat, decV3_back, Option.map_some]), fun _ h => nomatch h⟩

theorem vshl (o : V3) : Statement (.vshl o) :=
  fun hw => ⟨v3_gives hw rfl rfl (by first | exact hw | exact and1 hw | exact and1 (and1 hw) | exact and1 (and1 (and1 hw)) | exact and1 (and1 (and1 (and1 hw)))) (by simp only [readV, encV3_op, BitVec.reduceToNat, decV3_back, Option.map_some]), fun _ h => nomatch h⟩

theorem vshr (o : V3) : Statement (.vshr o) :=
  fun hw => ⟨v3_gives hw rfl rfl (by first | exact hw | exact and1 hw | exact and1 (and1 hw) | exact and1 (and1 (and1 hw)) | exact and1 (and1 (and1 (and1 hw)))) (by simp only [readV, encV3_op, BitVec.reduceToNat, decV3_back, Option.map_some]), fun _ h => nomatch h⟩

theorem vsar (o : V3) : Statement (.vsar o) :=
  fun hw => ⟨v3_gives hw rfl rfl (by first | exact hw | exact and1 hw | exact and1 (and1 hw) | exact and1 (and1 (and1 hw)) | exact and1 (and1 (and1 (and1 hw)))) (by simp only [readV, encV3_op, BitVec.reduceToNat, decV3_back, Option.map_some]), fun _ h => nomatch h⟩

theorem vshli (o : V3) : Statement (.vshli o) :=
  fun hw => ⟨v3_gives hw rfl rfl (by first | exact hw | exact and1 hw | exact and1 (and1 hw) | exact and1 (and1 (and1 hw)) | exact and1 (and1 (and1 (and1 hw)))) (by simp only [readV, encV3_op, BitVec.reduceToNat, decV3_back, Option.map_some]), fun _ h => nomatch h⟩

theorem vshri (o : V3) : Statement (.vshri o) :=
  fun hw => ⟨v3_gives hw rfl rfl (by first | exact hw | exact and1 hw | exact and1 (and1 hw) | exact and1 (and1 (and1 hw)) | exact and1 (and1 (and1 (and1 hw)))) (by simp only [readV, encV3_op, BitVec.reduceToNat, decV3_back, Option.map_some]), fun _ h => nomatch h⟩

theorem vsari (o : V3) : Statement (.vsari o) :=
  fun hw => ⟨v3_gives hw rfl rfl (by first | exact hw | exact and1 hw | exact and1 (and1 hw) | exact and1 (and1 (and1 hw)) | exact and1 (and1 (and1 (and1 hw)))) (by simp only [readV, encV3_op, BitVec.reduceToNat, decV3_back, Option.map_some]), fun _ h => nomatch h⟩

theorem vaddx (o : V3) : Statement (.vaddx o) :=
  fun hw => ⟨v3_gives hw rfl rfl (by first | exact hw | exact and1 hw | exact and1 (and1 hw) | exact and1 (and1 (and1 hw)) | exact and1 (and1 (and1 (and1 hw)))) (by simp only [readV, encV3_op, BitVec.reduceToNat, decV3_back, Option.map_some]), fun _ h => nomatch h⟩

theorem vmulx (o : V3) : Statement (.vmulx o) :=
  fun hw => ⟨v3_gives hw rfl rfl (by first | exact hw | exact and1 hw | exact and1 (and1 hw) | exact and1 (and1 (and1 hw)) | exact and1 (and1 (and1 (and1 hw)))) (by simp only [readV, encV3_op, BitVec.reduceToNat, decV3_back, Option.map_some]), fun _ h => nomatch h⟩

theorem vfmax (o : V3) : Statement (.vfmax o) :=
  fun hw => ⟨v3_gives hw rfl rfl (by first | exact hw | exact and1 hw | exact and1 (and1 hw) | exact and1 (and1 (and1 hw)) | exact and1 (and1 (and1 (and1 hw)))) (by simp only [readV, encV3_op, BitVec.reduceToNat, decV3_back, Option.map_some]), fun _ h => nomatch h⟩

theorem vbcst (o : V3) : Statement (.vbcst o) :=
  fun hw => ⟨v3_gives hw rfl rfl (by first | exact hw | exact and1 hw | exact and1 (and1 hw) | exact and1 (and1 (and1 hw)) | exact and1 (and1 (and1 (and1 hw)))) (by simp only [readV, encV3_op, BitVec.reduceToNat, decV3_back, Option.map_some]), fun _ h => nomatch h⟩

theorem vext (o : V3) : Statement (.vext o) :=
  fun hw => ⟨v3_gives hw rfl rfl (by first | exact hw | exact and1 hw | exact and1 (and1 hw) | exact and1 (and1 (and1 hw)) | exact and1 (and1 (and1 (and1 hw)))) (by simp only [readV, encV3_op, BitVec.reduceToNat, decV3_back, Option.map_some]), fun _ h => nomatch h⟩

theorem vcmp (o : V3) : Statement (.vcmp o) :=
  fun hw => ⟨v3_gives hw rfl rfl (by first | exact hw | exact and1 hw | exact and1 (and1 hw) | exact and1 (and1 (and1 hw)) | exact and1 (and1 (and1 (and1 hw)))) (by simp only [readV, encV3_op, BitVec.reduceToNat, decV3_back, Option.map_some]), fun _ h => nomatch h⟩

theorem vsel (o : V3) : Statement (.vsel o) :=
  fun hw => ⟨v3_gives hw rfl rfl (by first | exact hw | exact and1 hw | exact and1 (and1 hw) | exact and1 (and1 (and1 hw)) | exact and1 (and1 (and1 (and1 hw)))) (by simp only [readV, encV3_op, BitVec.reduceToNat, decV3_back, Option.map_some]), fun _ h => nomatch h⟩

theorem vcvt (o : V3) : Statement (.vcvt o) :=
  fun hw => ⟨v3_gives hw rfl rfl (by first | exact hw | exact and1 hw | exact and1 (and1 hw) | exact and1 (and1 (and1 hw)) | exact and1 (and1 (and1 (and1 hw)))) (by simp only [readV, encV3_op, BitVec.reduceToNat, decV3_back, Option.map_some]), fun _ h => nomatch h⟩

theorem vqnt (o : V3) : Statement (.vqnt o) :=
  fun hw => ⟨v3_gives hw rfl rfl (by first | exact hw | exact and1 hw | exact and1 (and1 hw) | exact and1 (and1 (and1 hw)) | exact and1 (and1 (and1 (and1 hw)))) (by simp only [readV, encV3_op, BitVec.reduceToNat, decV3_back, Option.map_some]), fun _ h => nomatch h⟩

theorem vdqnt (o : V3) : Statement (.vdqnt o) :=
  fun hw => ⟨v3_gives hw rfl rfl (by first | exact hw | exact and1 hw | exact and1 (and1 hw) | exact and1 (and1 (and1 hw)) | exact and1 (and1 (and1 (and1 hw)))) (by simp only [readV, encV3_op, BitVec.reduceToNat, decV3_back, Option.map_some]), fun _ h => nomatch h⟩

theorem vpk6 (o : V3) : Statement (.vpk6 o) :=
  fun hw => ⟨v3_gives hw rfl rfl (by first | exact hw | exact and1 hw | exact and1 (and1 hw) | exact and1 (and1 (and1 hw)) | exact and1 (and1 (and1 (and1 hw)))) (by simp only [readV, encV3_op, BitVec.reduceToNat, decV3_back, Option.map_some]), fun _ h => nomatch h⟩

theorem vupk6 (o : V3) : Statement (.vupk6 o) :=
  fun hw => ⟨v3_gives hw rfl rfl (by first | exact hw | exact and1 hw | exact and1 (and1 hw) | exact and1 (and1 (and1 hw)) | exact and1 (and1 (and1 (and1 hw)))) (by simp only [readV, encV3_op, BitVec.reduceToNat, decV3_back, Option.map_some]), fun _ h => nomatch h⟩

theorem vpk4 (o : V3) : Statement (.vpk4 o) :=
  fun hw => ⟨v3_gives hw rfl rfl (by first | exact hw | exact and1 hw | exact and1 (and1 hw) | exact and1 (and1 (and1 hw)) | exact and1 (and1 (and1 (and1 hw)))) (by simp only [readV, encV3_op, BitVec.reduceToNat, decV3_back, Option.map_some]), fun _ h => nomatch h⟩

theorem vupk4 (o : V3) : Statement (.vupk4 o) :=
  fun hw => ⟨v3_gives hw rfl rfl (by first | exact hw | exact and1 hw | exact and1 (and1 hw) | exact and1 (and1 (and1 hw)) | exact and1 (and1 (and1 (and1 hw)))) (by simp only [readV, encV3_op, BitVec.reduceToNat, decV3_back, Option.map_some]), fun _ h => nomatch h⟩

theorem vl2f (o : V3) : Statement (.vl2f o) :=
  fun hw => ⟨v3_gives hw rfl rfl (by first | exact hw | exact and1 hw | exact and1 (and1 hw) | exact and1 (and1 (and1 hw)) | exact and1 (and1 (and1 (and1 hw)))) (by simp only [readV, encV3_op, BitVec.reduceToNat, decV3_back, Option.map_some]), fun _ h => nomatch h⟩

theorem vf2l (o : V3) : Statement (.vf2l o) :=
  fun hw => ⟨v3_gives hw rfl rfl (by first | exact hw | exact and1 hw | exact and1 (and1 hw) | exact and1 (and1 (and1 hw)) | exact and1 (and1 (and1 (and1 hw)))) (by simp only [readV, encV3_op, BitVec.reduceToNat, decV3_back, Option.map_some]), fun _ h => nomatch h⟩

theorem vrcp (o : V3) : Statement (.vrcp o) :=
  fun hw => ⟨v3_gives hw rfl rfl (by first | exact hw | exact and1 hw | exact and1 (and1 hw) | exact and1 (and1 (and1 hw)) | exact and1 (and1 (and1 (and1 hw)))) (by simp only [readV, encV3_op, BitVec.reduceToNat, decV3_back, Option.map_some]), fun _ h => nomatch h⟩

theorem vrsq (o : V3) : Statement (.vrsq o) :=
  fun hw => ⟨v3_gives hw rfl rfl (by first | exact hw | exact and1 hw | exact and1 (and1 hw) | exact and1 (and1 (and1 hw)) | exact and1 (and1 (and1 (and1 hw)))) (by simp only [readV, encV3_op, BitVec.reduceToNat, decV3_back, Option.map_some]), fun _ h => nomatch h⟩

theorem vsqrt (o : V3) : Statement (.vsqrt o) :=
  fun hw => ⟨v3_gives hw rfl rfl (by first | exact hw | exact and1 hw | exact and1 (and1 hw) | exact and1 (and1 (and1 hw)) | exact and1 (and1 (and1 (and1 hw)))) (by simp only [readV, encV3_op, BitVec.reduceToNat, decV3_back, Option.map_some]), fun _ h => nomatch h⟩

theorem vexp2 (o : V3) : Statement (.vexp2 o) :=
  fun hw => ⟨v3_gives hw rfl rfl (by first | exact hw | exact and1 hw | exact and1 (and1 hw) | exact and1 (and1 (and1 hw)) | exact and1 (and1 (and1 (and1 hw)))) (by simp only [readV, encV3_op, BitVec.reduceToNat, decV3_back, Option.map_some]), fun _ h => nomatch h⟩

theorem vlog2 (o : V3) : Statement (.vlog2 o) :=
  fun hw => ⟨v3_gives hw rfl rfl (by first | exact hw | exact and1 hw | exact and1 (and1 hw) | exact and1 (and1 (and1 hw)) | exact and1 (and1 (and1 (and1 hw)))) (by simp only [readV, encV3_op, BitVec.reduceToNat, decV3_back, Option.map_some]), fun _ h => nomatch h⟩

theorem vexp (o : V3) : Statement (.vexp o) :=
  fun hw => ⟨v3_gives hw rfl rfl (by first | exact hw | exact and1 hw | exact and1 (and1 hw) | exact and1 (and1 (and1 hw)) | exact and1 (and1 (and1 (and1 hw)))) (by simp only [readV, encV3_op, BitVec.reduceToNat, decV3_back, Option.map_some]), fun _ h => nomatch h⟩

theorem vln (o : V3) : Statement (.vln o) :=
  fun hw => ⟨v3_gives hw rfl rfl (by first | exact hw | exact and1 hw | exact and1 (and1 hw) | exact and1 (and1 (and1 hw)) | exact and1 (and1 (and1 (and1 hw)))) (by simp only [readV, encV3_op, BitVec.reduceToNat, decV3_back, Option.map_some]), fun _ h => nomatch h⟩

theorem vsin (o : V3) : Statement (.vsin o) :=
  fun hw => ⟨v3_gives hw rfl rfl (by first | exact hw | exact and1 hw | exact and1 (and1 hw) | exact and1 (and1 (and1 hw)) | exact and1 (and1 (and1 (and1 hw)))) (by simp only [readV, encV3_op, BitVec.reduceToNat, decV3_back, Option.map_some]), fun _ h => nomatch h⟩

theorem vcos (o : V3) : Statement (.vcos o) :=
  fun hw => ⟨v3_gives hw rfl rfl (by first | exact hw | exact and1 hw | exact and1 (and1 hw) | exact and1 (and1 (and1 hw)) | exact and1 (and1 (and1 (and1 hw)))) (by simp only [readV, encV3_op, BitVec.reduceToNat, decV3_back, Option.map_some]), fun _ h => nomatch h⟩

theorem vtanh (o : V3) : Statement (.vtanh o) :=
  fun hw => ⟨v3_gives hw rfl rfl (by first | exact hw | exact and1 hw | exact and1 (and1 hw) | exact and1 (and1 (and1 hw)) | exact and1 (and1 (and1 (and1 hw)))) (by simp only [readV, encV3_op, BitVec.reduceToNat, decV3_back, Option.map_some]), fun _ h => nomatch h⟩

theorem vsigm (o : V3) : Statement (.vsigm o) :=
  fun hw => ⟨v3_gives hw rfl rfl (by first | exact hw | exact and1 hw | exact and1 (and1 hw) | exact and1 (and1 (and1 hw)) | exact and1 (and1 (and1 (and1 hw)))) (by simp only [readV, encV3_op, BitVec.reduceToNat, decV3_back, Option.map_some]), fun _ h => nomatch h⟩

theorem vgelu (o : V3) : Statement (.vgelu o) :=
  fun hw => ⟨v3_gives hw rfl rfl (by first | exact hw | exact and1 hw | exact and1 (and1 hw) | exact and1 (and1 (and1 hw)) | exact and1 (and1 (and1 (and1 hw)))) (by simp only [readV, encV3_op, BitVec.reduceToNat, decV3_back, Option.map_some]), fun _ h => nomatch h⟩

theorem vperm (o : V3) : Statement (.vperm o) :=
  fun hw => ⟨v3_gives hw rfl rfl (by first | exact hw | exact and1 hw | exact and1 (and1 hw) | exact and1 (and1 (and1 hw)) | exact and1 (and1 (and1 (and1 hw)))) (by simp only [readV, encV3_op, BitVec.reduceToNat, decV3_back, Option.map_some]), fun _ h => nomatch h⟩

theorem vshuf (o : V3) : Statement (.vshuf o) :=
  fun hw => ⟨v3_gives hw rfl rfl (by first | exact hw | exact and1 hw | exact and1 (and1 hw) | exact and1 (and1 (and1 hw)) | exact and1 (and1 (and1 (and1 hw)))) (by simp only [readV, encV3_op, BitVec.reduceToNat, decV3_back, Option.map_some]), fun _ h => nomatch h⟩

theorem vred (o : V3) : Statement (.vred o) :=
  fun hw => ⟨v3_gives hw rfl rfl (by first | exact hw | exact and1 hw | exact and1 (and1 hw) | exact and1 (and1 (and1 hw)) | exact and1 (and1 (and1 (and1 hw)))) (by simp only [readV, encV3_op, BitVec.reduceToNat, decV3_back, Option.map_some]), fun _ h => nomatch h⟩

theorem vld (o : VM) : Statement (.vld o) :=
  fun hw => ⟨vm_gives hw rfl rfl (by first | exact hw | exact and1 hw | exact and1 (and1 hw) | exact and1 (and1 (and1 hw)) | exact and1 (and1 (and1 (and1 hw)))) (by simp only [readV, encVM_op, BitVec.reduceToNat, decVM_back, Option.map_some]), fun _ h => nomatch h⟩

theorem vst (o : VM) : Statement (.vst o) :=
  fun hw => ⟨vm_gives hw rfl rfl (by first | exact hw | exact and1 hw | exact and1 (and1 hw) | exact and1 (and1 (and1 hw)) | exact and1 (and1 (and1 (and1 hw)))) (by simp only [readV, encVM_op, BitVec.reduceToNat, decVM_back, Option.map_some]), fun _ h => nomatch h⟩

theorem vlds (o : VM) : Statement (.vlds o) :=
  fun hw => ⟨vm_gives hw rfl rfl (by first | exact hw | exact and1 hw | exact and1 (and1 hw) | exact and1 (and1 (and1 hw)) | exact and1 (and1 (and1 (and1 hw)))) (by simp only [readV, encVM_op, BitVec.reduceToNat, decVM_back, Option.map_some]), fun _ h => nomatch h⟩

theorem vsts (o : VM) : Statement (.vsts o) :=
  fun hw => ⟨vm_gives hw rfl rfl (by first | exact hw | exact and1 hw | exact and1 (and1 hw) | exact and1 (and1 (and1 hw)) | exact and1 (and1 (and1 (and1 hw)))) (by simp only [readV, encVM_op, BitVec.reduceToNat, decVM_back, Option.map_some]), fun _ h => nomatch h⟩

theorem vgth (o : VM) : Statement (.vgth o) :=
  fun hw => ⟨vm_gives hw rfl rfl (by first | exact hw | exact and1 hw | exact and1 (and1 hw) | exact and1 (and1 (and1 hw)) | exact and1 (and1 (and1 (and1 hw)))) (by simp only [readV, encVM_op, BitVec.reduceToNat, decVM_back, Option.map_some]), fun _ h => nomatch h⟩

theorem vsct (o : VM) : Statement (.vsct o) :=
  fun hw => ⟨vm_gives hw rfl rfl (by first | exact hw | exact and1 hw | exact and1 (and1 hw) | exact and1 (and1 (and1 hw)) | exact and1 (and1 (and1 (and1 hw)))) (by simp only [readV, encVM_op, BitVec.reduceToNat, decVM_back, Option.map_some]), fun _ h => nomatch h⟩

theorem vacr (o : V3) : Statement (.vacr o) :=
  fun hw => ⟨v3_gives hw rfl rfl (by first | exact hw | exact and1 hw | exact and1 (and1 hw) | exact and1 (and1 (and1 hw)) | exact and1 (and1 (and1 (and1 hw)))) (by simp only [readV, encV3_op, BitVec.reduceToNat, decV3_back, Option.map_some]), fun _ h => nomatch h⟩

theorem vacw (o : V3) : Statement (.vacw o) :=
  fun hw => ⟨v3_gives hw rfl rfl (by first | exact hw | exact and1 hw | exact and1 (and1 hw) | exact and1 (and1 (and1 hw)) | exact and1 (and1 (and1 (and1 hw)))) (by simp only [readV, encV3_op, BitVec.reduceToNat, decV3_back, Option.map_some]), fun _ h => nomatch h⟩

theorem mcfg (o : MX) : Statement (.mcfg o) :=
  fun hw => ⟨mx_gives hw rfl rfl (by first | exact hw | exact and1 hw | exact and1 (and1 hw) | exact and1 (and1 (and1 hw)) | exact and1 (and1 (and1 (and1 hw)))) (by simp only [readM, encMX_op, BitVec.reduceToNat, decMX_back]), fun _ h => nomatch h⟩

theorem mtbl (o : MX) (t : Bool) : Statement (.mtbl o t) :=
  fun hw => ⟨mx_gives hw rfl rfl (by first | exact hw | exact and1 hw | exact and1 (and1 hw) | exact and1 (and1 (and1 hw)) | exact and1 (and1 (and1 (and1 hw)))) (by simp only [readM, encMX_op, BitVec.reduceToNat, decMX_back]; simp (disch := decide) only [encMX, bit_append_right, bit_bitOf_wide]), fun _ h => nomatch h⟩

theorem mwld (o : MX) (fix : Bool) : Statement (.mwld o fix) :=
  fun hw => ⟨mx_gives hw rfl rfl (by first | exact hw | exact and1 hw | exact and1 (and1 hw) | exact and1 (and1 (and1 hw)) | exact and1 (and1 (and1 (and1 hw)))) (by simp only [readM, encMX_op, BitVec.reduceToNat, decMX_back]; simp (disch := decide) only [encMX_bit, bit_bitOf_wide]), fun _ h => nomatch h⟩

theorem mwlds (o : MX) (ef : Bool) : Statement (.mwlds o ef) :=
  fun hw => ⟨mx_gives hw rfl rfl (by first | exact hw | exact and1 hw | exact and1 (and1 hw) | exact and1 (and1 (and1 hw)) | exact and1 (and1 (and1 (and1 hw)))) (by simp only [readM, encMX_op, BitVec.reduceToNat, decMX_back]; simp (disch := decide) only [encMX_bit, bit_bitOf_wide]), fun _ h => nomatch h⟩

theorem mwswap (o : MX) : Statement (.mwswap o) :=
  fun hw => ⟨mx_gives hw rfl rfl (by first | exact hw | exact and1 hw | exact and1 (and1 hw) | exact and1 (and1 (and1 hw)) | exact and1 (and1 (and1 (and1 hw)))) (by simp only [readM, encMX_op, BitVec.reduceToNat, decMX_back]), fun _ h => nomatch h⟩

theorem mstrm (o : MX) (z : Bool) : Statement (.mstrm o z) :=
  fun hw => ⟨mx_gives hw rfl rfl (by first | exact hw | exact and1 hw | exact and1 (and1 hw) | exact and1 (and1 (and1 hw)) | exact and1 (and1 (and1 (and1 hw)))) (by simp only [readM, encMX_op, BitVec.reduceToNat, decMX_back]; simp (disch := decide) only [encMX_bit, bit_bitOf_wide]), fun _ h => nomatch h⟩

theorem mstrma (o : MX) (z : Bool) : Statement (.mstrma o z) :=
  fun hw => ⟨mx_gives hw rfl rfl (by first | exact hw | exact and1 hw | exact and1 (and1 hw) | exact and1 (and1 (and1 hw)) | exact and1 (and1 (and1 (and1 hw)))) (by simp only [readM, encMX_op, BitVec.reduceToNat, decMX_back]; simp (disch := decide) only [encMX_bit, bit_bitOf_wide]), fun _ h => nomatch h⟩

theorem mstrmh (o : MX) (z : Bool) : Statement (.mstrmh o z) :=
  fun hw => ⟨mx_gives hw rfl rfl (by first | exact hw | exact and1 hw | exact and1 (and1 hw) | exact and1 (and1 (and1 hw)) | exact and1 (and1 (and1 (and1 hw)))) (by simp only [readM, encMX_op, BitVec.reduceToNat, decMX_back]; simp (disch := decide) only [encMX_bit, bit_bitOf_wide]), fun _ h => nomatch h⟩

theorem mdrn (o : MX) (clr : Bool) : Statement (.mdrn o clr) :=
  fun hw => ⟨mx_gives hw rfl rfl (by first | exact hw | exact and1 hw | exact and1 (and1 hw) | exact and1 (and1 (and1 hw)) | exact and1 (and1 (and1 (and1 hw)))) (by simp only [readM, encMX_op, BitVec.reduceToNat, decMX_back]; simp (disch := decide) only [encMX_bit, bit_bitOf_wide]), fun _ h => nomatch h⟩

theorem mdrnh (o : MX) (clr : Bool) : Statement (.mdrnh o clr) :=
  fun hw => ⟨mx_gives hw rfl rfl (by first | exact hw | exact and1 hw | exact and1 (and1 hw) | exact and1 (and1 (and1 hw)) | exact and1 (and1 (and1 (and1 hw)))) (by simp only [readM, encMX_op, BitVec.reduceToNat, decMX_back]; simp (disch := decide) only [encMX_bit, bit_bitOf_wide]), fun _ h => nomatch h⟩

theorem mclr (o : MX) : Statement (.mclr o) :=
  fun hw => ⟨mx_gives hw rfl rfl (by first | exact hw | exact and1 hw | exact and1 (and1 hw) | exact and1 (and1 (and1 hw)) | exact and1 (and1 (and1 (and1 hw)))) (by simp only [readM, encMX_op, BitVec.reduceToNat, decMX_back]), fun _ h => nomatch h⟩

theorem mhpsh (o : MX) : Statement (.mhpsh o) :=
  fun hw => ⟨mx_gives hw rfl rfl (by first | exact hw | exact and1 hw | exact and1 (and1 hw) | exact and1 (and1 (and1 hw)) | exact and1 (and1 (and1 (and1 hw)))) (by simp only [readM, encMX_op, BitVec.reduceToNat, decMX_back]), fun _ h => nomatch h⟩

theorem mhcnt (o : MX) : Statement (.mhcnt o) :=
  fun hw => ⟨mx_gives hw rfl rfl (by first | exact hw | exact and1 hw | exact and1 (and1 hw) | exact and1 (and1 (and1 hw)) | exact and1 (and1 (and1 (and1 hw)))) (by simp only [readM, encMX_op, BitVec.reduceToNat, decMX_back]), fun _ h => nomatch h⟩

theorem mgateOn (o : MX) (ret : Bool) : Statement (.mgateOn o ret) :=
  fun hw => ⟨mx_gives hw rfl rfl (by first | exact hw | exact and1 hw | exact and1 (and1 hw) | exact and1 (and1 (and1 hw)) | exact and1 (and1 (and1 (and1 hw)))) (by simp only [readM, encMX_op, BitVec.reduceToNat, decMX_back]; simp (disch := decide) only [encMX_bit]; cases ret <;> rfl), fun _ h => nomatch h⟩

theorem mgateOff (o : MX) : Statement (.mgateOff o) :=
  fun hw => ⟨mx_gives hw rfl rfl (by first | exact hw | exact and1 hw | exact and1 (and1 hw) | exact and1 (and1 (and1 hw)) | exact and1 (and1 (and1 (and1 hw)))) (by simp only [readM, encMX_op, BitVec.reduceToNat, decMX_back]; simp (disch := decide) only [encMX_bit]; rfl), fun _ h => nomatch h⟩

theorem msave (o : MX) (nr : Bool) : Statement (.msave o nr) :=
  fun hw => ⟨mx_gives hw rfl rfl (by first | exact hw | exact and1 hw | exact and1 (and1 hw) | exact and1 (and1 (and1 hw)) | exact and1 (and1 (and1 (and1 hw)))) (by simp only [readM, encMX_op, BitVec.reduceToNat, decMX_back]; simp (disch := decide) only [encMX_bit, bit_bitOf_wide]), fun _ h => nomatch h⟩

theorem mrest (o : MX) (nr : Bool) : Statement (.mrest o nr) :=
  fun hw => ⟨mx_gives hw rfl rfl (by first | exact hw | exact and1 hw | exact and1 (and1 hw) | exact and1 (and1 (and1 hw)) | exact and1 (and1 (and1 (and1 hw)))) (by simp only [readM, encMX_op, BitVec.reduceToNat, decMX_back]; simp (disch := decide) only [encMX_bit, bit_bitOf_wide]), fun _ h => nomatch h⟩

theorem mstat (o : MX) (clr : Bool) : Statement (.mstat o clr) :=
  fun hw => ⟨mx_gives hw rfl rfl (by first | exact hw | exact and1 hw | exact and1 (and1 hw) | exact and1 (and1 (and1 hw)) | exact and1 (and1 (and1 (and1 hw)))) (by simp only [readM, encMX_op, BitVec.reduceToNat, decMX_back]; simp (disch := decide) only [encMX_bit, bit_bitOf_wide]), fun _ h => nomatch h⟩

theorem msync (o : MX) : Statement (.msync o) :=
  fun hw => ⟨mx_gives hw rfl rfl (by first | exact hw | exact and1 hw | exact and1 (and1 hw) | exact and1 (and1 (and1 hw)) | exact and1 (and1 (and1 (and1 hw)))) (by simp only [readM, encMX_op, BitVec.reduceToNat, decMX_back]), fun _ h => nomatch h⟩

theorem mxQueuedStart (core : CoreId) : Statement (.mxQueuedStart core) := no_word rfl rfl

theorem streamRowEntry (core : CoreId) : Statement (.streamRowEntry core) := no_word rfl rfl

theorem resultLanding (core : CoreId) (idx : Nat) : Statement (.resultLanding core idx) := no_word rfl rfl

theorem drainBoundTrap (core : CoreId) : Statement (.drainBoundTrap core) := no_word rfl rfl

theorem gateTakesEffect (core : CoreId) : Statement (.gateTakesEffect core) := no_word rfl rfl

theorem wakeEnd (core : CoreId) : Statement (.wakeEnd core) := no_word rfl rfl

theorem cpyt (o : CP) : Statement (.cpyt o) :=
  fun hw => ⟨cp_gives hw rfl rfl (by first | exact hw | exact and1 hw | exact and1 (and1 hw) | exact and1 (and1 (and1 hw)) | exact and1 (and1 (and1 (and1 hw)))) (by simp only [readE, encCP_op, BitVec.reduceToNat, decCP_back]), fun _ h => nomatch h⟩

theorem cpyl (o : CP) : Statement (.cpyl o) :=
  fun hw => ⟨cp_gives hw rfl rfl (by first | exact hw | exact and1 hw | exact and1 (and1 hw) | exact and1 (and1 (and1 hw)) | exact and1 (and1 (and1 (and1 hw)))) (by simp only [readE, encCP_op, BitVec.reduceToNat, decCP_back]; simp only [encCP_flag]; rfl), fun _ h => nomatch h⟩

theorem cpylBerth (o : CP) : Statement (.cpylBerth o) :=
  fun hw => ⟨cp_gives hw rfl rfl (by first | exact hw | exact and1 hw | exact and1 (and1 hw) | exact and1 (and1 (and1 hw)) | exact and1 (and1 (and1 (and1 hw)))) (by simp only [readE, encCP_op, BitVec.reduceToNat, decCP_back]; simp only [encCP_flag]; rfl), fun _ h => nomatch h⟩

theorem mcast (o : CP) : Statement (.mcast o) :=
  fun hw => ⟨cp_gives hw rfl rfl (by first | exact hw | exact and1 hw | exact and1 (and1 hw) | exact and1 (and1 (and1 hw)) | exact and1 (and1 (and1 (and1 hw)))) (by simp only [readE, encCP_op, BitVec.reduceToNat, decCP_back]), fun _ h => nomatch h⟩

theorem gthr (o : CP) : Statement (.gthr o) :=
  fun hw => ⟨cp_gives hw rfl rfl (by first | exact hw | exact and1 hw | exact and1 (and1 hw) | exact and1 (and1 (and1 hw)) | exact and1 (and1 (and1 (and1 hw)))) (by simp only [readE, encCP_op, BitVec.reduceToNat, decCP_back]), fun _ h => nomatch h⟩

theorem send (o : CP) (sig : Bool) : Statement (.send o sig) :=
  fun hw => ⟨cp_gives hw rfl rfl (by first | exact hw | exact and1 hw | exact and1 (and1 hw) | exact and1 (and1 (and1 hw)) | exact and1 (and1 (and1 (and1 hw)))) (by simp only [readE, encCP_op, BitVec.reduceToNat, decCP_back]; simp (disch := decide) only [encCP_bit, bit_bitOf_wide]), fun _ h => nomatch h⟩

theorem sends (o : CP) : Statement (.sends o) :=
  fun hw => ⟨cp_gives hw rfl rfl (by first | exact hw | exact and1 hw | exact and1 (and1 hw) | exact and1 (and1 (and1 hw)) | exact and1 (and1 (and1 (and1 hw)))) (by simp only [readE, encCP_op, BitVec.reduceToNat, decCP_back]), fun _ h => nomatch h⟩

theorem semr (o : CP) : Statement (.semr o) :=
  fun hw => ⟨cp_gives hw rfl rfl (by first | exact hw | exact and1 hw | exact and1 (and1 hw) | exact and1 (and1 (and1 hw)) | exact and1 (and1 (and1 (and1 hw)))) (by simp only [readE, encCP_op, BitVec.reduceToNat, decCP_back]), fun _ h => nomatch h⟩

theorem fwr (o : CP) : Statement (.fwr o) :=
  fun hw => ⟨cp_gives hw rfl rfl (by first | exact hw | exact and1 hw | exact and1 (and1 hw) | exact and1 (and1 (and1 hw)) | exact and1 (and1 (and1 (and1 hw)))) (by simp only [readE, encCP_op, BitVec.reduceToNat, decCP_back]; simp only [encCP_flag]; rfl), fun _ h => nomatch h⟩

theorem fwrBerth (o : CP) : Statement (.fwrBerth o) :=
  fun hw => ⟨cp_gives hw rfl rfl (by first | exact hw | exact and1 hw | exact and1 (and1 hw) | exact and1 (and1 (and1 hw)) | exact and1 (and1 (and1 (and1 hw)))) (by simp only [readE, encCP_op, BitVec.reduceToNat, decCP_back]; simp only [encCP_flag]; rfl), fun _ h => nomatch h⟩

theorem ffaa (o : CP) : Statement (.ffaa o) :=
  fun hw => ⟨cp_gives hw rfl rfl (by first | exact hw | exact and1 hw | exact and1 (and1 hw) | exact and1 (and1 (and1 hw)) | exact and1 (and1 (and1 (and1 hw)))) (by simp only [readE, encCP_op, BitVec.reduceToNat, decCP_back]), fun _ h => nomatch h⟩

theorem fflg (o : CP) : Statement (.fflg o) :=
  fun hw => ⟨cp_gives hw rfl rfl (by first | exact hw | exact and1 hw | exact and1 (and1 hw) | exact and1 (and1 (and1 hw)) | exact and1 (and1 (and1 (and1 hw)))) (by simp only [readE, encCP_op, BitVec.reduceToNat, decCP_back]; simp only [encCP_flag]; rfl), fun _ h => nomatch h⟩

theorem fflgAdd (o : CP) : Statement (.fflgAdd o) :=
  fun hw => ⟨cp_gives hw rfl rfl (by first | exact hw | exact and1 hw | exact and1 (and1 hw) | exact and1 (and1 (and1 hw)) | exact and1 (and1 (and1 (and1 hw)))) (by simp only [readE, encCP_op, BitVec.reduceToNat, decCP_back]; simp only [encCP_flag]; rfl), fun _ h => nomatch h⟩

theorem coll (o : CP) : Statement (.coll o) :=
  fun hw => ⟨cp_gives hw rfl rfl (by first | exact hw | exact and1 hw | exact and1 (and1 hw) | exact and1 (and1 (and1 hw)) | exact and1 (and1 (and1 (and1 hw)))) (by simp only [readE, encCP_op, BitVec.reduceToNat, decCP_back]), fun _ h => nomatch h⟩

theorem drg (o : CP) : Statement (.drg o) :=
  fun hw => ⟨cp_gives hw rfl rfl (by first | exact hw | exact and1 hw | exact and1 (and1 hw) | exact and1 (and1 (and1 hw)) | exact and1 (and1 (and1 (and1 hw)))) (by simp only [readE, encCP_op, BitVec.reduceToNat, decCP_back]), fun _ h => nomatch h⟩

theorem migr (o : CP) : Statement (.migr o) :=
  fun hw => ⟨cp_gives hw rfl rfl (by first | exact hw | exact and1 hw | exact and1 (and1 hw) | exact and1 (and1 (and1 hw)) | exact and1 (and1 (and1 (and1 hw)))) (by simp only [readE, encCP_op, BitVec.reduceToNat, decCP_back]; simp only [encCP_flag]; rfl), fun _ h => nomatch h⟩

theorem migrRemap (o : CP) : Statement (.migrRemap o) :=
  fun hw => ⟨cp_gives hw rfl rfl (by first | exact hw | exact and1 hw | exact and1 (and1 hw) | exact and1 (and1 (and1 hw)) | exact and1 (and1 (and1 (and1 hw)))) (by simp only [readE, encCP_op, BitVec.reduceToNat, decCP_back]; simp only [encCP_flag]; rfl), fun _ h => nomatch h⟩

theorem migrPageExchange (core : CoreId) (q : Nat) : Statement (.migrPageExchange core q) := no_word rfl rfl

theorem snap (o : CP) (level : Level) : Statement (.snap o level) :=
  fun hw => ⟨cp_gives hw rfl rfl (by first | exact hw | exact and1 hw | exact and1 (and1 hw) | exact and1 (and1 (and1 hw)) | exact and1 (and1 (and1 (and1 hw)))) (by simp only [readE, encCP_op, BitVec.reduceToNat, decCP_back]; simp only [encCP_flag, encCP_fl, level_code]; rfl), fun _ h => nomatch h⟩

theorem snapSeal (o : CP) (level : Level) : Statement (.snapSeal o level) :=
  fun hw => ⟨cp_gives hw rfl rfl (by first | exact hw | exact and1 hw | exact and1 (and1 hw) | exact and1 (and1 (and1 hw)) | exact and1 (and1 (and1 (and1 hw)))) (by simp only [readE, encCP_op, BitVec.reduceToNat, decCP_back]; simp only [encCP_flag, encCP_fl, level_code]; rfl), fun _ h => nomatch h⟩

theorem trim (o : CP) : Statement (.trim o) :=
  fun hw => ⟨cp_gives hw rfl rfl (by first | exact hw | exact and1 hw | exact and1 (and1 hw) | exact and1 (and1 (and1 hw)) | exact and1 (and1 (and1 (and1 hw)))) (by simp only [readE, encCP_op, BitVec.reduceToNat, decCP_back]), fun _ h => nomatch h⟩

theorem rcf (o : CP) : Statement (.rcf o) :=
  fun hw => ⟨cp_gives hw rfl rfl (by first | exact hw | exact and1 hw | exact and1 (and1 hw) | exact and1 (and1 (and1 hw)) | exact and1 (and1 (and1 (and1 hw)))) (by simp only [readE, encCP_op, BitVec.reduceToNat, decCP_back]), fun _ h => nomatch h⟩

theorem cpab (o : CP) : Statement (.cpab o) :=
  fun hw => ⟨cp_gives hw rfl rfl (by first | exact hw | exact and1 hw | exact and1 (and1 hw) | exact and1 (and1 (and1 hw)) | exact and1 (and1 (and1 (and1 hw)))) (by simp only [readE, encCP_op, BitVec.reduceToNat, decCP_back]), fun _ h => nomatch h⟩

theorem engineQueueEntryFree (core : CoreId) : Statement (.engineQueueEntryFree core) := no_word rfl rfl

theorem commandStart (core : CoreId) (q : Nat) : Statement (.commandStart core q) := no_word rfl rfl

theorem commandCompletion (core : CoreId) (q : Nat) : Statement (.commandCompletion core q) := no_word rfl rfl

theorem deliveryAcceptance (core : CoreId) (q : Nat) (target : CoreId) : Statement (.deliveryAcceptance core q target) := no_word rfl rfl

theorem laneFlitInject (core : CoreId) (q : Nat) : Statement (.laneFlitInject core q) := no_word rfl rfl

theorem collChunkArrival (op : FabOp) : Statement (.collChunkArrival op) := no_word rfl rfl

theorem collHopTimeout (core : CoreId) (q : Nat) : Statement (.collHopTimeout core q) := no_word rfl rfl

theorem waitSatisfied (core : CoreId) : Statement (.waitSatisfied core) := no_word rfl rfl

theorem latemaxExpiry (core : CoreId) : Statement (.latemaxExpiry core) := no_word rfl rfl

theorem landingFreezeRelease (core : CoreId) : Statement (.landingFreezeRelease core) := no_word rfl rfl

theorem hoistEntryAvailable (core : CoreId) : Statement (.hoistEntryAvailable core) := no_word rfl rfl

theorem tideOccurrenceDue (core : CoreId) (plane : Bool) (entry : BitVec 8) : Statement (.tideOccurrenceDue core plane entry) := no_word rfl rfl

theorem contextSaveBegin (core : CoreId) : Statement (.contextSaveBegin core) := no_word rfl rfl

theorem contextSaveEnd (core : CoreId) : Statement (.contextSaveEnd core) := no_word rfl rfl

theorem selection (core : CoreId) : Statement (.selection core) := no_word rfl rfl

theorem contextResumeEnd (core : CoreId) : Statement (.contextResumeEnd core) := no_word rfl rfl

theorem faultMap (id : Nat) (pte : Word) : Statement (.faultMap id pte) := no_word rfl rfl

theorem faultRefuse (id : Nat) : Statement (.faultRefuse id) := no_word rfl rfl

theorem faultmaxExpiry (id : Nat) : Statement (.faultmaxExpiry id) := no_word rfl rfl

theorem pageTableUpdate (page : Nat) (pte : Word) : Statement (.pageTableUpdate page pte) := no_word rfl rfl

theorem filterClear (f : BitVec 4) : Statement (.filterClear f) := no_word rfl rfl

theorem cutInstant (part : BitVec 5) : Statement (.cutInstant part) := no_word rfl rfl

theorem cowCopyDone (part : BitVec 5) (g : Nat) : Statement (.cowCopyDone part g) := no_word rfl rfl

theorem drainGranule (part : BitVec 5) : Statement (.drainGranule part) := no_word rfl rfl

theorem imageConfirmed (part : BitVec 5) : Statement (.imageConfirmed part) := no_word rfl rfl

theorem drainFailure (part : BitVec 5) (unreachable : Bool) : Statement (.drainFailure part unreachable) := no_word rfl rfl

theorem dredgeScanGranule (core : CoreId) (q : Nat) (engine : BitVec 3) : Statement (.dredgeScanGranule core q engine) := no_word rfl rfl

theorem dredgeMerge (core : CoreId) (q : Nat) : Statement (.dredgeMerge core q) := no_word rfl rfl

theorem tmnop : Statement .tmnop :=
  fun hw => trim_word hw rfl rfl (by simp (disch := decide) only [readTrim, encTR, fld_append_left, fld_self, BitVec.reduceToNat]; try rfl)

theorem tmld (d : BitVec 4) (cb : BitVec 3) (off : BitVec 16) : Statement (.tmld d cb off) :=
  fun hw => trim_word hw rfl rfl (by simp (disch := decide) only [readTrim, encTM, fld_append_left, fld_append_right, fld_self, bit_append_left, bit_append_right, bit_bitOf, BitVec.reduceToNat]; try rfl)

theorem tmldC (d : BitVec 3) (cb : BitVec 3) (q : BitVec 3) (off : BitVec 16) : Statement (.tmldC d cb q off) :=
  fun hw => trim_word hw rfl rfl (by simp (disch := decide) only [readTrim, encTM, c4, fld_append_left, fld_append_right, fld_self, bit_append_left, bit_append_right, bit_bitOf, BitVec.reduceToNat]; try rfl)

theorem tmst (d : BitVec 4) (cb : BitVec 3) (off : BitVec 16) : Statement (.tmst d cb off) :=
  fun hw => trim_word hw rfl rfl (by simp (disch := decide) only [readTrim, encTM, fld_append_left, fld_append_right, fld_self, BitVec.reduceToNat]; try rfl)

theorem tmadd (d a b : BitVec 4) : Statement (.tmadd d a b) :=
  fun hw => trim_word hw rfl rfl (by simp (disch := decide) only [readTrim, encTR, fld_append_left, fld_append_right, fld_self, BitVec.reduceToNat]; try rfl)

theorem tmsub (d a b : BitVec 4) : Statement (.tmsub d a b) :=
  fun hw => trim_word hw rfl rfl (by simp (disch := decide) only [readTrim, encTR, fld_append_left, fld_append_right, fld_self, BitVec.reduceToNat]; try rfl)

theorem tmaddl (d a b : BitVec 4) : Statement (.tmaddl d a b) :=
  fun hw => trim_word hw rfl rfl (by simp (disch := decide) only [readTrim, encTR, fld_append_left, fld_append_right, fld_self, BitVec.reduceToNat]; try rfl)

theorem tmshrSqrt (d a : BitVec 4) : Statement (.tmshrSqrt d a) :=
  fun hw => trim_word hw rfl rfl (by simp (disch := decide) only [readTrim, encTR, fld_append_left, fld_append_right, fld_self, BitVec.reduceToNat]; try rfl)

theorem tmshrRsqrt (d a : BitVec 4) : Statement (.tmshrRsqrt d a) :=
  fun hw => trim_word hw rfl rfl (by simp (disch := decide) only [readTrim, encTR, fld_append_left, fld_append_right, fld_self, BitVec.reduceToNat]; try rfl)

theorem tmshrRcp (d a : BitVec 4) : Statement (.tmshrRcp d a) :=
  fun hw => trim_word hw rfl rfl (by simp (disch := decide) only [readTrim, encTR, fld_append_left, fld_append_right, fld_self, BitVec.reduceToNat]; try rfl)

theorem tmcvtL2fLo (d a : BitVec 4) (k : BitVec 8) : Statement (.tmcvtL2fLo d a k) :=
  fun hw => trim_word hw rfl rfl (by simp (disch := decide) only [readTrim, encTR, fld_append_left, fld_append_right, fld_self, BitVec.reduceToNat]; try rfl)

theorem tmcvtL2fHi (d a : BitVec 4) (k : BitVec 8) : Statement (.tmcvtL2fHi d a k) :=
  fun hw => trim_word hw rfl rfl (by simp (disch := decide) only [readTrim, encTR, fld_append_left, fld_append_right, fld_self, BitVec.reduceToNat]; try rfl)

theorem tmcvtF2lLo (d a : BitVec 4) (k : BitVec 8) : Statement (.tmcvtF2lLo d a k) :=
  fun hw => trim_word hw rfl rfl (by simp (disch := decide) only [readTrim, encTR, fld_append_left, fld_append_right, fld_self, BitVec.reduceToNat]; try rfl)

theorem tmcvtF2lHi (d a : BitVec 4) (k : BitVec 8) : Statement (.tmcvtF2lHi d a k) :=
  fun hw => trim_word hw rfl rfl (by simp (disch := decide) only [readTrim, encTR, fld_append_left, fld_append_right, fld_self, BitVec.reduceToNat]; try rfl)

theorem tmfxAdd (d a b : BitVec 4) : Statement (.tmfxAdd d a b) :=
  fun hw => trim_word hw rfl rfl (by simp (disch := decide) only [readTrim, encTR, fld_append_left, fld_append_right, fld_self, BitVec.reduceToNat]; try rfl)

theorem tmfxSub (d a b : BitVec 4) : Statement (.tmfxSub d a b) :=
  fun hw => trim_word hw rfl rfl (by simp (disch := decide) only [readTrim, encTR, fld_append_left, fld_append_right, fld_self, BitVec.reduceToNat]; try rfl)

theorem tmfxSar (d a : BitVec 4) (n : BitVec 5) : Statement (.tmfxSar d a n) :=
  fun hw => trim_word hw rfl rfl (by simp (disch := decide) only [readTrim, encTR, fld_append_left, fld_append_right, fld_self, BitVec.reduceToNat]; try rfl)

theorem tmfxShl (d a : BitVec 4) (n : BitVec 5) : Statement (.tmfxShl d a n) :=
  fun hw => trim_word hw rfl rfl (by simp (disch := decide) only [readTrim, encTR, fld_append_left, fld_append_right, fld_self, BitVec.reduceToNat]; try rfl)

theorem tmmul (d a b : BitVec 4) : Statement (.tmmul d a b) :=
  fun hw => trim_word hw rfl rfl (by simp (disch := decide) only [readTrim, encTR, fld_append_left, fld_append_right, fld_self, BitVec.reduceToNat]; try rfl)

theorem tmsel (d a b m : BitVec 4) : Statement (.tmsel d a b m) :=
  fun hw => trim_word hw rfl rfl (by simp (disch := decide) only [readTrim, encTR, fld_append_left, fld_append_right, fld_self, BitVec.reduceToNat]; try rfl)

theorem tmcmp (cond : TmCond) (ty : TmTy) (d a b : BitVec 4) : Statement (.tmcmp cond ty d a b) :=
  fun hw => trim_word hw rfl rfl (by simp (disch := decide) only [readTrim, encTR, fld_append_left, fld_append_right, fld_self, bit_append_left, bit_append_right, BitVec.reduceToNat, tmCond_code, tmTy_code, Option.map_some]; try rfl)

theorem tmmin (ty : TmTy) (d a b : BitVec 4) : Statement (.tmmin ty d a b) :=
  fun hw => trim_word hw rfl rfl (by simp (disch := decide) only [readTrim, encTR, fld_append_left, fld_append_right, fld_self, bit_append_left, bit_append_right, BitVec.reduceToNat, tmTy_code]; try rfl)

theorem tmmax (ty : TmTy) (d a b : BitVec 4) : Statement (.tmmax ty d a b) :=
  fun hw => trim_word hw rfl rfl (by simp (disch := decide) only [readTrim, encTR, fld_append_left, fld_append_right, fld_self, bit_append_left, bit_append_right, BitVec.reduceToNat, tmTy_code]; try rfl)

theorem tmsgnCopy (d a b : BitVec 4) : Statement (.tmsgnCopy d a b) :=
  fun hw => trim_word hw rfl rfl (by simp (disch := decide) only [readTrim, encTR, fld_append_left, fld_append_right, fld_self, BitVec.reduceToNat]; try rfl)

theorem tmsgnXor (d a b : BitVec 4) : Statement (.tmsgnXor d a b) :=
  fun hw => trim_word hw rfl rfl (by simp (disch := decide) only [readTrim, encTR, fld_append_left, fld_append_right, fld_self, BitVec.reduceToNat]; try rfl)

theorem tmsgnAbs (d a : BitVec 4) : Statement (.tmsgnAbs d a) :=
  fun hw => trim_word hw rfl rfl (by simp (disch := decide) only [readTrim, encTR, fld_append_left, fld_append_right, fld_self, BitVec.reduceToNat]; try rfl)

theorem tmsgnNeg (d a : BitVec 4) : Statement (.tmsgnNeg d a) :=
  fun hw => trim_word hw rfl rfl (by simp (disch := decide) only [readTrim, encTR, fld_append_left, fld_append_right, fld_self, BitVec.reduceToNat]; try rfl)

theorem tmrnd (sr hi : Bool) (d a : BitVec 4) : Statement (.tmrnd sr hi d a) :=
  fun hw => trim_word hw rfl rfl (by simp (disch := decide) only [readTrim, encTR, fld_append_left, fld_append_right, fld_self, bit_append_left, bit_append_right, bit_bitOf, BitVec.reduceToNat]; try rfl)

theorem tmaddi (d a : BitVec 3) (imm : BitVec 19) : Statement (.tmaddi d a imm) :=
  fun hw => trim_word hw rfl rfl (by simp (disch := decide) only [readTrim, encTI, c4, fld_append_left, fld_append_right, fld_self, BitVec.reduceToNat]; try rfl)

theorem tmmovi (d : BitVec 3) (hi : Bool) (imm : BitVec 16) : Statement (.tmmovi d hi imm) :=
  fun hw => trim_word hw rfl rfl (by simp (disch := decide) only [readTrim, encTI, c4, fld_append_left, fld_append_right, fld_self, bit_append_left, bit_append_right, bit_bitOf, BitVec.reduceToNat]; try rfl)

theorem tmbr (cond : TmBrCond) (a : BitVec 3) (target : BitVec 10) : Statement (.tmbr cond a target) :=
  fun hw => trim_word hw rfl rfl (by simp (disch := decide) only [readTrim, encTB, c4, fld_append_left, fld_append_right, fld_self, BitVec.reduceToNat, tmBrCond_code, Option.map_some]; try rfl)

theorem tmloop (a : BitVec 3) (target : BitVec 10) : Statement (.tmloop a target) :=
  fun hw => trim_word hw rfl rfl (by simp (disch := decide) only [readTrim, encTB, c4, fld_append_left, fld_append_right, fld_self, BitVec.reduceToNat]; try rfl)

theorem tmend : Statement .tmend :=
  fun hw => trim_word hw rfl rfl (by simp (disch := decide) only [readTrim, encTR, fld_append_left, fld_self, BitVec.reduceToNat]; try rfl)

theorem tmmov (d a : BitVec 4) : Statement (.tmmov d a) :=
  fun hw => trim_word hw rfl rfl (by simp (disch := decide) only [readTrim, encTR, fld_append_left, fld_append_right, fld_self, BitVec.reduceToNat]; try rfl)

theorem tmmovBc16 (d : BitVec 4) (a : BitVec 3) : Statement (.tmmovBc16 d a) :=
  fun hw => trim_word hw rfl rfl (by simp (disch := decide) only [readTrim, encTR, c4, fld_append_left, fld_append_right, fld_self, BitVec.reduceToNat]; try rfl)

theorem tmmovBc32 (d : BitVec 4) (a : BitVec 3) : Statement (.tmmovBc32 d a) :=
  fun hw => trim_word hw rfl rfl (by simp (disch := decide) only [readTrim, encTR, c4, fld_append_left, fld_append_right, fld_self, BitVec.reduceToNat]; try rfl)

theorem tmmovGet16 (d : BitVec 3) (a : BitVec 4) (j : BitVec 4) : Statement (.tmmovGet16 d a j) :=
  fun hw => trim_word hw rfl rfl (by simp (disch := decide) only [readTrim, encTR, c4, fld_append_left, fld_append_right, fld_self, BitVec.reduceToNat]; try rfl)

theorem tmmovGet32 (d : BitVec 3) (a : BitVec 4) (j : BitVec 3) : Statement (.tmmovGet32 d a j) :=
  fun hw => trim_word hw rfl rfl (by simp (disch := decide) only [readTrim, encTR, c4, fld_append_left, fld_append_right, fld_self, BitVec.reduceToNat]; try rfl)

theorem flitReceive (p : Port) (flit : BitVec 512) : Statement (.flitReceive p flit) := no_word rfl rfl

theorem ackTimer (p : Port) : Statement (.ackTimer p) := no_word rfl rfl

theorem replayTimeout (p : Port) : Statement (.replayTimeout p) := no_word rfl rfl

theorem portRetrain (p : Port) : Statement (.portRetrain p) := no_word rfl rfl

theorem fabricOperationArrival (op : FabOp) : Statement (.fabricOperationArrival op) := no_word rfl rfl

theorem e2eResponseArrival (r : Response) : Statement (.e2eResponseArrival r) := no_word rfl rfl

theorem holdNotice (incoming : Bool) (n : Notice) : Statement (.holdNotice incoming n) := no_word rfl rfl

theorem e2eResendTimeout (n : Notice) : Statement (.e2eResendTimeout n) := no_word rfl rfl

theorem e2eLinkTimeout (n : Notice) : Statement (.e2eLinkTimeout n) := no_word rfl rfl

theorem l3ArrivalCount (key : Word) (chip : BitVec 21) (count : BitVec 32) : Statement (.l3ArrivalCount key chip count) := no_word rfl rfl

theorem l3PhaseChange (key : Word) : Statement (.l3PhaseChange key) := no_word rfl rfl

theorem beaconSend (p : Port) : Statement (.beaconSend p) := no_word rfl rfl

theorem beaconReceive (p : Port) (sent recv : Word) : Statement (.beaconReceive p sent recv) := no_word rfl rfl

theorem ptpEventMessage (port : BitVec 2) (egress : Bool) (seqId : BitVec 16) : Statement (.ptpEventMessage port egress seqId) := no_word rfl rfl

theorem disciplineStep (two : Bool) : Statement (.disciplineStep two) := no_word rfl rfl

theorem tnowLoad (v : Word) : Statement (.tnowLoad v) := no_word rfl rfl

theorem frequencyLock (src : BitVec 8) : Statement (.frequencyLock src) := no_word rfl rfl

theorem referenceLoss : Statement .referenceLoss := no_word rfl rfl

theorem stealWindow (basin : BitVec 2) (n : BitVec 6) : Statement (.stealWindow basin n) := no_word rfl rfl

theorem thermalResponse (t : Thermal) : Statement (.thermalResponse t) := no_word rfl rfl

theorem reset (stop : BootStop) : Statement (.reset stop) := no_word rfl rfl

theorem planeLoadEnd (core : CoreId) : Statement (.planeLoadEnd core) := no_word rfl rfl

theorem rdmaWrite (pair : QueuePair) (rkey : BitVec 32) (off : Nat) (data : List Byte) : Statement (.rdmaWrite pair rkey off data) := no_word rfl rfl

theorem rdmaRead (vf : BitVec 8) (rkey : BitVec 32) (off len : Nat) : Statement (.rdmaRead vf rkey off len) := no_word rfl rfl

theorem rdmaAtomicRequest (vf : BitVec 8) : Statement (.rdmaAtomicRequest vf) := no_word rfl rfl

theorem loadPlane (m : HostMsg) : Statement (.loadPlane m) := no_word rfl rfl

theorem armTide (m : HostMsg) : Statement (.armTide m) := no_word rfl rfl

theorem disarmTide (m : HostMsg) : Statement (.disarmTide m) := no_word rfl rfl

theorem bindHandle (m : HostMsg) : Statement (.bindHandle m) := no_word rfl rfl

theorem setCap (m : HostMsg) : Statement (.setCap m) := no_word rfl rfl

theorem setRing (m : HostMsg) : Statement (.setRing m) := no_word rfl rfl

theorem setClass (m : HostMsg) : Statement (.setClass m) := no_word rfl rfl

theorem setSnapset (m : HostMsg) : Statement (.setSnapset m) := no_word rfl rfl

theorem cancelCut (m : HostMsg) : Statement (.cancelCut m) := no_word rfl rfl

theorem restore (m : HostMsg) : Statement (.restore m) := no_word rfl rfl

theorem semAdd (m : HostMsg) : Statement (.semAdd m) := no_word rfl rfl

theorem readStatus (m : HostMsg) : Statement (.readStatus m) := no_word rfl rfl

theorem create (m : ReqMsg) : Statement (.create m) := no_word rfl rfl

theorem launch (m : ReqMsg) : Statement (.launch m) := no_word rfl rfl

theorem stop (m : ReqMsg) : Statement (.stop m) := no_word rfl rfl

theorem resume (m : ReqMsg) : Statement (.resume m) := no_word rfl rfl

theorem destroy (m : ReqMsg) : Statement (.destroy m) := no_word rfl rfl

theorem inject (m : ReqMsg) : Statement (.inject m) := no_word rfl rfl

theorem attest (m : ReqMsg) : Statement (.attest m) := no_word rfl rfl

theorem release (m : ReqMsg) : Statement (.release m) := no_word rfl rfl

theorem commit (m : ReqMsg) : Statement (.commit m) := no_word rfl rfl

theorem caps (m : ReqMsg) : Statement (.caps m) := no_word rfl rfl

theorem duplicateEntryReplacement (chip : BitVec 21) (core : CoreId) : Statement (.duplicateEntryReplacement chip core) := no_word rfl rfl

theorem pfcPauseFrame (port : BitVec 2) (pause : Bool) : Statement (.pfcPauseFrame port pause) := no_word rfl rfl

end Sys2Proof.Laws.RoundTrip
end

