-- ==== Sys2Proof/Tests/Slice0.lean ====
section
/-! SUPPORT. Tests: ill-formed terms the check refuses, words written out from the spec's encodings, single steps whose results the
spec gives, and for every statement with hypotheses a state and operands that meet them. -/
namespace Sys2Proof.Tests
open Sys2Proof Sys2Proof.Machine
set_option Elab.async false

-- Helpers -------------------------------------------------------------------------------------------------------------

/-- A slot without guard and arrival. -/
abbrev at_ (sl : Slot) : Ctl := ⟨sl, 0, false⟩
/-- The same with AR. -/
abbrev arr (sl : Slot) : Ctl := ⟨sl, 0, true⟩
/-- The machine after reset with core 0 changed. -/
def one (f : Core → Core) : State := State.reset.modCore 0 f
/-- The cores of such a state. -/
theorem one_core (f : Core → Core) (c : CoreId) : (one f).core c = if c = 0 then f Core.reset else Core.reset := by
  by_cases h : c = 0
  · subst h; simp [one, State.core, State.modCore, State.setCore, State.reset]
  · have h' : ¬ 0 = c.toNat := fun e => h (BitVec.eq_of_toNat_eq e.symm)
    rw [if_neg h]
    simp [one, State.core, State.modCore, State.setCore, State.reset, h']
/-- X registers set on a core. -/
def xs (l : List (Reg × Word)) (k : Core) : Core := l.foldl (fun k e => { k with regs := k.regs.setX e.1 e.2 false }) k
/-- A poisoned X register. -/
def bad (n : Reg) (k : Core) : Core := { k with regs := k.regs.setX n 0 true }
/-- Handler mode. -/
def handler (k : Core) : Core := { k with csr := { k.csr with hm := true } }
/-- Handler mode with HVX and HMX. -/
def handlerAll (k : Core) : Core := { k with csr := { k.csr with hm := true, hvx := true, hmx := true } }
/-- A state after an instruction, or the state itself where it did not go on. -/
def after (i : Instr) (s : State) : State := match exec i s with | .next t => t | _ => s
/-- X register of core 0 after an instruction and the landing of its results. -/
def xAfter (i : Instr) (s : State) (n : Reg) : XW := (((after i s).core 0).landAll).readX n

-- Ill-formed terms ----------------------------------------------------------------------------------------------------

/-- A slot an instruction may not stand in (R77). -/
theorem test_wf_slots : (Instr.nop (at_ .mx)).wf = false ∧ (Instr.muldiv (at_ .ad) .mul 1 2 3).wf = false ∧ (Instr.eret (at_ .ad)).wf = false ∧
    (Instr.vadd ⟨at_ .sc, .full, .i8, 1, 2, 3, 0⟩).wf = false ∧ (Instr.vld ⟨at_ .mx, .full, 0, 1, 2, 0, 0⟩).wf = false ∧
    (Instr.msync ⟨at_ .cp, 0, 0, 0⟩).wf = false ∧ (Instr.semr ⟨at_ .mx, 1, 2, 0, 0, 0⟩).wf = false := by decide
/-- An immediate too wide for AD (R67). -/
theorem test_wf_ad_immediate : (Instr.addi (at_ .ad) 1 2 0x10000).wf = false ∧ (Instr.addi (at_ .ad) 1 2 0x0FFFF).wf = true ∧
    (Instr.movl (at_ .ad) 1 0x1000000000000).wf = false ∧ (Instr.ld (at_ .ad) .b 1 2 0 0x200).wf = false ∧
    (Instr.cmpi (at_ .ad) .eq 1 2 3 0x800).wf = false := by decide
/-- A 32-bit shift of 32 (R106), a bit field past the register (R107), a second operand of a one-operand function (R102). -/
theorem test_wf_fields : (Instr.shli (at_ .sc) true 1 2 32).wf = false ∧ (Instr.bfx (at_ .sc) 1 2 63 1).wf = false ∧
    (Instr.alu (at_ .sc) .clz 1 2 3).wf = false := by decide
/-- A compare into one predicate twice (R111), an empty tag mask (R119) and fence mask (R243), a CSRW of a DOM register (R250). -/
theorem test_wf_scalar : (Instr.cmp (at_ .sc) .eq .d 2 2 1 1).wf = false ∧ (Instr.cmp (at_ .sc) .eq .d 0 0 1 1).wf = true ∧
    (Instr.tagchk (at_ .sc) 1 2 3 0).wf = false ∧ (Instr.fence (at_ .sc) 0).wf = false ∧ (Instr.fenceWait (at_ .sc) 0).wf = false ∧
    (Instr.csrw (at_ .sc) 0x022 1).wf = false := by decide
/-- Element types a vector instruction does not take, and reserved sub-fields (R138, R149, R152 to R159, R161, R166). -/
theorem test_wf_vector : (Instr.vfma ⟨at_ .va, .full, .i32, 1, 2, 3, 0⟩).wf = false ∧ (Instr.vadds ⟨at_ .va, .full, .f32, 1, 2, 3, 0⟩).wf = false ∧
    (Instr.vminn ⟨at_ .va, .full, .lgm, 1, 2, 3, 0⟩).wf = false ∧ (Instr.vabs ⟨at_ .va, .full, .i8, 1, 2, 3, 0⟩).wf = false ∧
    (Instr.vcvt ⟨at_ .va, .full, .f32, 1, 2, 6, 0⟩).wf = false ∧ (Instr.vcvt ⟨at_ .va, .full, .i8, 1, 2, 0x0E, 0⟩).wf = false ∧
    (Instr.vqnt ⟨at_ .va, .full, .f32, 1, 2, 12, 0⟩).wf = false ∧ (Instr.vpk6 ⟨at_ .va, .full, .i16, 1, 2, 0, 0⟩).wf = false ∧
    (Instr.vrcp ⟨at_ .va, .full, .f32, 1, 2, 2, 0⟩).wf = false ∧ (Instr.vshuf ⟨at_ .va, .full, .i8, 1, 2, 6, 0⟩).wf = false ∧
    (Instr.vred ⟨at_ .va, .full, .i8, 1, 2, 3, 0⟩).wf = false ∧ (Instr.vclmp ⟨at_ .va, .full, .i8, 1, 2, 3, 0⟩).wf = false ∧
    (Instr.vacr ⟨at_ .va, .full, .i32, 1, 2, 3, 0⟩).wf = false := by decide
/-- Odd register pairs, fields that must be zero, and the reserved bandwidth class (R76, R164, R171, R196, R197). -/
theorem test_wf_pairs : (Instr.vlds ⟨at_ .va, .full, 0, 1, 3, 0, 0⟩).wf = false ∧ (Instr.vgth ⟨at_ .va, .full, 0, 1, 2, 0, 0⟩).wf = false ∧
    (Instr.mstrm ⟨at_ .mx, 0, 4, 5⟩ true).wf = false ∧ (Instr.mcfg ⟨at_ .mx, 1, 4, 0⟩).wf = false ∧ (Instr.cpyl ⟨at_ .cp, 5, 6, 0, 0, 0⟩).wf = false ∧
    (Instr.cpyl ⟨at_ .cp, 4, 6, 0, 0, 1⟩).wf = false ∧ (Instr.fflg ⟨at_ .cp, 4, 6, 0, 0, 3⟩).wf = false ∧ (Instr.rcf ⟨at_ .cp, 4, 6, 0, 0, 0⟩).wf = false ∧
    (Instr.tmbr .always 1 3).wf = false := by decide

-- Words ---------------------------------------------------------------------------------------------------------------

/-- Table 19 of chapter 3, as the opcode table numbers the bits of a bundle of two words: `(P2) add x5, x6, x7`, `addi x3, x3, -3000`. -/
theorem test_word_scalar : decodeTableWord 64 0x050A638080000000 = some (.alu ⟨.sc, 2, false⟩ .add 5 6 7) ∧
    decodeTableWord 64 0x10063448803F0000 = some (.addi (at_ .sc) 3 3 (BitVec.ofInt 18 (-3000))) := by decide +kernel
/-- Table 19: `vadd.f32 v1, v2, v3`, alone in slot VA. -/
theorem test_word_vector : decodeTableWord 64 0x0420221820000600 = some (.vadd ⟨at_ .va, .full, .f32, 1, 2, 3, 0⟩) := by decide +kernel
/-- Table 2 of chapter 6: MCFG, MTBL, MSTRM. -/
theorem test_word_matrix : decodeTableWord 64 0x0400040008000000 = some (.mcfg ⟨at_ .mx, 0, 2, 0⟩) ∧
    decodeTableWord 64 0x08000A0008000008 = some (.mtbl ⟨at_ .mx, 0, 5, 0⟩ true) ∧
    decodeTableWord 64 0x1804086108000000 = some (.mstrm ⟨at_ .mx, 16, 4, 6⟩ true) := by decide +kernel
/-- Table 2 of chapter 7: `cpyt.c1 x8, x6, sem3` and `fflg.add.b2 x6, x10, sem1`. -/
theorem test_word_engine : decodeTableWord 64 0x040C80C404000000 = some (.cpyt ⟨at_ .cp, 6, 8, 3, 1, 0⟩) ∧
    decodeTableWord 64 0x2814604004000005 = some (.fflgAdd ⟨at_ .cp, 10, 6, 1, 0, 2⟩) := by decide +kernel
/-- Table 2 of chapter 8: SEMWAIT, LAND, TRAP, ERET, EXIT. -/
theorem test_word_system : decodeTableWord 64 0x840050C380000000 = some (.semwait (at_ .sc) 3 5 true true) ∧
    decodeTableWord 64 0xB800000480000000 = some (.land (at_ .sc) 4) ∧ decodeTableWord 64 0xAC00012380050000 = some (.trap (at_ .sc) 0x5123) ∧
    decodeTableWord 64 0xB000000080000000 = some (.eret (at_ .sc)) ∧ decodeTableWord 64 0xD400000080000000 = some (.exit (at_ .sc)) := by decide +kernel
/-- A header-only bundle (R63) and TMNOP (R339), both of zeros. -/
theorem test_word_zero : decodeBytes [0, 0, 0, 0] = some (⟨false, 1, []⟩, []) ∧ decodeTableWord 32 0 = some .tmnop := by decide
/-- Operation codes that are no instruction (R71, R339). -/
theorem test_word_reserved : decodeSlot .sc 0 0xFC000000 none = none ∧ decodeTrim 0xFC000000 = none := by decide

-- Scalar and system instructions --------------------------------------------------------------------------------------

/-- A pointer register X2 on core 0. -/
abbrev ptr (v : Word) : State := one (xs [(2, v)])

/-- What nearly every statement about a slot asks: the slot alone in its bundle with a true guard, in task mode and in a handler; with AR,
a domain at the level of ARDOM. -/
theorem witness_alone : State.reset.alone (at_ .sc) ∧ (one handler).alone (at_ .ad) ∧
    (one (fun k => { k with csr := { k.csr with ardom := 1, dom := #v[0x80000000, 0, 0] } })).alone (arr .sc) := by decide +kernel
/-- ConstantAndFieldResults: shifts of 31 in the 32-bit forms, and bit fields that reach the end of the register. -/
theorem witness_fields : (31 : BitVec 6).toNat < 32 ∧ (0 : BitVec 6).toNat + ((63 : BitVec 6).toNat + 1) ≤ 64 ∧
    (63 : BitVec 6).toNat + ((0 : BitVec 6).toNat + 1) ≤ 64 := by decide
/-- CompareResults: a condition that holds and one that does not, at the narrowest width and the widest. -/
theorem witness_compare : (condTable .lt ((0xFF : Word).setWidth (cmpWidth .b)) ((0 : Word).setWidth (cmpWidth .b)) ↔ true = true) ∧
    (condTable .lt ((0xFF : Word).setWidth (cmpWidth .d)) ((0 : Word).setWidth (cmpWidth .d)) ↔ false = true) := by
  constructor <;> unfold condTable cmpWidth <;> decide
/-- TagchkResult: a tag above 3, a tag not asked for, the last byte of a space, one past it, and the last byte of HBM. -/
theorem witness_tagchk : (ptr 0x4000000000000000).me.readX 2 = ⟨0x4000000000000000, false⟩ ∧ (0x4000000000000000 : Word).toNat / 2 ^ 60 > 3 ∧
    (2 : BitVec 4).getLsbD 0 = false ∧ (1 : BitVec 4).getLsbD 0 = true ∧ ((0x7FFFF : Word).toNat % 2 ^ 60 + 1 - 1 < 2 ^ 19) ∧
    ((0x80000 : Word).toNat % 2 ^ 60 ≥ 2 ^ 19) ∧ (0x2000FFFFFFFFFFFF : Word).toNat / 2 ^ 60 = 2 ∧
    (0x2000FFFFFFFFFFFF : Word).toNat % 2 ^ 48 + 1 ≤ 2 ^ 48 := by decide +kernel
/-- LoadedValues, StoreResults: the last dword of the scratchpad, of the plane constants and of the hold. -/
theorem witness_load_places : fits (addrOf ((ptr 0x7FFF0).me.readX 2).val 1 .d) 0 (2 ^ 19) .d ∧ fits (addrOf 0x3000000000002000 (-1) .d) 3 (2 ^ 13) .d ∧
    fits (addrOf 0x10000000003FFFF8 0 .d) 1 (2 ^ 22) .d ∧ fits (addrIx 0x7FFF8 (-1) .d) 0 (2 ^ 19) .d ∧
    (ptr 0x7FFF0).alone (at_ .sc) ∧ ((ptr 0x7FFF0).me.readX 2).poison = false ∧ ((ptr 0x7FFF0).me.readX 3).poison = false := by
  unfold fits; decide +kernel
/-- A core with a berth over the first 64 bytes, armed with these tags, its check pending. -/
def berthed (etag atag : BitVec 16) : State := one (fun k => k.modBerth 3 (fun _ => ⟨0, 1, true, true, true, true, etag, atag, true⟩))
/-- LoadedValues, VectorLoads: a berth that has landed, one that has not, and one with another tag. -/
theorem witness_load_berths : (berthed 5 5).me.checkBerths ((berthed 5 5).me.berthsAt 0 8) = .pass [3] ∧
    (berthed 5 4).me.checkBerths ((berthed 5 4).me.berthsAt 56 8) = .late 3 ∧
    (berthed 5 6).me.checkBerths ((berthed 5 6).me.berthsAt 0 8) = .bad 3 := by decide +kernel
/-- MemoryOperandTraps: each cause in turn, at its first bad value. -/
theorem witness_operand_traps : ((one (bad 2)).me.readX 2).poison = true ∧ (0x1000000000000000 : Word).toNat / 2 ^ 60 ∉ [0, 3] ∧
    (addrOf 0x7FFF8 1 .d).toNat % 2 ^ 60 ≥ 2 ^ 19 ∧ (addrOf 1 0 .h).toNat % sizeTable .h ≠ 0 := by decide +kernel
/-- BackEdge: a loop that ends at the next bundle with two passes left, and with one. -/
theorem witness_back_edge :
    let le : BitVec 33 := 0x100000002
    let k (n : Word) : Core := { (Core.reset) with csr := { Core.reset.csr with lc := #v[0, n], le := #v[0, le] } }
    (le.getLsbD 32 = true ∧ le.toNat % 2 ^ 16 * 4 = ((k 2).pc + 8).toNat) ∧ (k 2).csr.lc[1].toNat > 1 ∧ (k 1).csr.lc[1].toNat ≤ 1 ∧
    (k 2).csr.hm = false := by decide
/-- CsrResults: an address without a register, a handler's register in task mode, a register the mode may use, and a DOM value a
handler may not write. -/
theorem witness_csr : State.reset.csrRead 0 0x7FF = none ∧ State.reset.me.csr.hm = false ∧ State.reset.csrRead 0 0x014 = some 0 ∧
    (one (bad 2)).me.csr.hm = false ∧ ((one (bad 2)).me.readX 2).poison = true ∧ (one handler).me.csr.hm = true ∧
    (one handler).domRejected 0 .l1 0x80000000 = true ∧ (one handler).domRejected 0 .l1 0 = false := by decide +kernel
/-- FenceResults: a class with nothing to wait for, and a matrix write of class 0 still to come. -/
theorem witness_fence : (State.reset.me.queue = [] ∧ State.reset.me.mxWrites [State.reset.me.mxSpan] State.reset.me.mx.otherDue = false) ∧
    (let k := (one (fun k => { k with pend := [⟨.gran false 0 1, 0, false, 1, true, 0⟩], mx := { k.mx with otherDue := 1 } })).me
     (1 : BitVec 16).getLsbD 0 = true ∧ k.mxWrites [k.mxSpan] k.mx.otherDue = true) := by decide +kernel
/-- TimeAndBarrierResults: a time not yet come and one that has, a level with a domain and one without, an arrival made and none. -/
theorem witness_time : State.reset.tnow.toNat < (1 : Word).toNat ∧ State.reset.me.freeze = none ∧
    ((one (fun k => { k with csr := { k.csr with dom := #v[0x80000000, 0, 0] } })).me.csr.domOf .l1).getLsbD 31 = true ∧
    (State.reset.me.csr.domOf .l1).getLsbD 31 = false ∧ State.reset.me.lastArr[Level.l1.ix] = none ∧
    (one (fun k => { k with lastArr := #v[some 0, none, none] })).me.lastArr[Level.l1.ix] = some 0 := by decide +kernel
/-- A partition with a cut of one hold range, of which nothing is copied. -/
def heldPart : Part := { Part.empty with cut := some ⟨1, 0, .l1, 0, [], [0], [1], [], [], [], 7⟩, snapset := some ⟨[⟨true, 0, 0, 2048⟩], 0, 0, 0, 0, 0⟩ }
/-- TrapTaking: a write of a hold granule on its way that waits for its copy, and none. -/
theorem witness_land_held : let s (f : Core → Core) := { one (fun k => f { k with pend := [⟨.gran true 1 1, 0, false, 9, true, 0⟩] }) with parts := State.reset.parts.set 0 heldPart }
    (s id).landHeld 0 = true ∧ (s id).me.csr.hm = false ∧ (s handler).me.csr.hm = true ∧ State.reset.landHeld 0 = false ∧ (one handler).landHeld 0 = false := by
  decide +kernel
/-- TrapTaking, EretResult: a task that traps, a handler that traps, and a handler that returns to a marked header. -/
theorem witness_traps : State.reset.me.csr.hm = false ∧ (one handler).alone (at_ .sc) ∧ (one handler).me.csr.hm = true ∧
    (let s := one (fun k => { handler k with planes := #v[⟨[], [0], false, []⟩, .empty] })
     s.alone (at_ .sc) ∧ s.me.csr.hm = true ∧ s.me.active.marked s.me.csr.epc.toNat = true) := by decide +kernel
/-- SpawnAndExit: a task that may end, with and without an open phase, one with results still to land, and a weight to return. -/
theorem witness_exit : State.reset.me.exitReady = true ∧ State.reset.me.csr.pha = false ∧
    (one (fun k => { k with csr := { k.csr with pha := true } })).me.exitReady = true ∧
    (one (fun k => { k with mx := { k.mx with otherDue := 1 } })).me.exitReady = false ∧
    (let k := (one (fun k => { k with exits := [⟨1, 1, 0⟩] })).me; k.exits = [⟨1, 1, 0⟩] ∧ k.queue = []) := by decide +kernel
/-- An engine command with an id and class; started or not. -/
def cmd (id : Nat) (i : Instr) (cls : BitVec 4) (started : Bool) : Cmd :=
  { id := id, ins := i, xs := 0, xs1 := 0, xd := 0, xd1 := 0, blocks := [], bnd := Vector.replicate 16 0, bndmode := 0, collto := 0, seed := 0,
    cls := cls, sem := 0, task := 0, ar := 0, arKey := 0, after := [], mxSeq := [], mxDue := 0, covers := [], issued := 0, started := started,
    startAt := 0, pos := 0, met := [], osat := false, ozero := false, hits := 0, accepted := 0, refused := 0, delivering := false, hold := none,
    stopping := false, finished := false, plane := false, gens := [], got := [], bufs := [], wrote := 0, parts := [], data := ⟨[], []⟩, nums := [] }
/-- A task with a phase record at address 0 that names one buffer, no input and class 0. -/
def phased (pha : Bool) (qs : List Cmd) : State := one (fun k =>
  { k with sp := ⟨[⟨8, 1⟩, ⟨10, 1⟩], []⟩, phase := if pha then some (0, 0) else none, queue := qs, csr := { k.csr with pha := pha } })
/-- PlaneAndPhaseResults: a good record with and without an open phase, with and without a command of its class. -/
theorem witness_phase : (phased false []).alone (at_ .sc) ∧ (phased false []).me.csr.pha = false ∧ ((phased false []).me.phaseRecord 128).2 = none ∧
    (phased true []).me.csr.pha = true ∧ (phased true []).me.csr.hm = false ∧ (phased true []).me.first = none ∧
    ((phased true []).me.phaseRecord 640).2 = none ∧ phNin ((phased true []).me.phaseRecord 640).1 = 0 ∧
    (phased true []).me.phaseBusy (phCmask ((phased true []).me.phaseRecord 640).1) = false ∧ (phased true []).me.queue.length ≤ 32 ∧
    (phased true [cmd 0 (.cpab ⟨at_ .cp, 0, 0, 0, 0, 0⟩) 0 false]).me.phaseBusy 1 = true := by decide +kernel
/-- A shape record of f32 elements: rank, BASE, extents and strides of two dimensions. -/
def shape (rank base e0 s0 e1 s1 : Nat) : List Byte :=
  [0x10, BitVec.ofNat 8 rank, 0, 0, 0, 0, 0, 0] ++ bytesOf base 8 ++ List.replicate 32 0 ++ bytesOf e0 4 ++ bytesOf s0 8 ++ bytesOf e1 4 ++
    bytesOf s1 8 ++ List.replicate 120 0
/-- A task with an open phase whose record names one input copy of class 1; what the bundle's first cycle found. -/
def copying (looked : Option Wait) : State := one (fun k =>
  { k with sp := ⟨Memory.cells 0 ([0, 0, 0, 0, 0, 0, 0, 0, 1, 1, 1] ++ List.replicate 69 0 ++ bytesOf 0x400 8 ++ bytesOf 0x4C0 8 ++ [3, 1]) ++
             Memory.cells 0x400 (shape 1 0x1000 8 4 0 0 ++ shape 1 0x2000 8 4 0 0), []⟩,
           phase := some (0, 0), csr := { k.csr with pha := true }, first := looked.map (fun w => ⟨0, 0, some w⟩) })
/-- PlaneAndPhaseResults: a record with a copy, looked at and not yet, in a queue with room and without; a handler; a bad record and a bad copy. -/
theorem witness_phase_copies :
    (let k := (copying none).me
     let r := (k.phaseRecord 640).1
     (copying none).alone (at_ .sc) ∧ k.first.bind (·.phase) = none ∧ (k.phaseRecord 640).2 = none ∧ phNin r = 1 ∧ (∀ j < phNin r, (k.phaseCopy r j).2 = none) ∧
       k.phaseBusy (phCmask r) = false ∧ k.queue.length + phNin r ≤ 32) ∧
    (let k := (copying (some (.phaseAbort 1 [] [cmd 0 (.cpyt ⟨at_ .cp, 0, 0, 0, 0, 0⟩) 1 false]))).me
     k.first.bind (·.phase) = some (.phaseAbort 1 [] [cmd 0 (.cpyt ⟨at_ .cp, 0, 0, 0, 0, 0⟩) 1 false]) ∧ k.phaseBusy 1 = false) ∧
    (copying (some (.phase 1 []))).me.first.bind (·.phase) = some (.phase 1 []) ∧
    (one handler).me.csr.hm = true ∧ (one handler).me.first = none ∧
    (let k := (one (fun k => { k with csr := { k.csr with pha := true } })).me; (k.phaseRecord 128).2 ≠ none ∧ (k.phaseRecord 640).2 ≠ none) ∧
    (let k := ((copying none).modCore 0 (fun k => { k with sp := ⟨k.sp.cells.filter (fun e => e.1 < 0x400), []⟩ })).me
     let r := (k.phaseRecord 640).1
     (k.phaseRecord 640).2 = none ∧ (List.range (phNin r)).findSome? (fun j => (k.phaseCopy r j).2) ≠ none) := by decide +kernel

-- Vector instructions -------------------------------------------------------------------------------------------------

/-- A full vector slot of a type. -/
abbrev v3 (t : ETy) (vb : Reg) : V3 := ⟨at_ .va, .full, t, 1, 2, vb, 0⟩
/-- What every vector statement asks: a task, a handler with HVX, and a type of each kind; the last shuffle, tree, format and bound. -/
theorem witness_vector : State.reset.vecReady (at_ .va) 0 ∧ (one handlerAll).vecReady (at_ .vb) 7 ∧ ETy.i64.isInt = true ∧
    ((v3 .f32 0).ty = .f32 ∧ ETy.isInt .lgm = false) ∧ (5 : Reg).toNat < 6 ∧ (2 : Reg).toNat < 3 ∧ (11 : Reg).toNat < 12 ∧ (15 : Reg).toNat < 16 ∧
    ((6 : Reg).toNat % 8 = ETy.f32.code.toNat ∧ ETy.f32 ≠ .lgm ∧ ETy.f32 ≠ .i8) := by decide +kernel
/-- VectorTranscendentals: NaN, a special input, the two ends of the exponents, and a reciprocal at the end. -/
theorem witness_transcendental : fp32.decode 0x7FC00000 = .nan ∧ (specialTable fp32 .rcp (fp32.decode 0)).isSome = true ∧
    (1 - bf16.bias ≤ bf16.bias ∧ -(bf16.bias - 1) ≥ 1 - bf16.bias) ∧ (2 : Int) % 2 = 0 ∧
    (fp32.decode 0x3FC00000 = .fin false 0xC00000 (-23) ∧ specialTable fp32 .sqrt (fp32.decode 0x3FC00000) = none ∧ fp32.subnormal 0x3FC00000 = false) := by decide
/-- ClampAndAccumulatorAccess: each mode of a bound, an element in range and one out of it, and a gate shut, waking and open. -/
theorem witness_clamp : (let k := (one (fun k => { k with csr := { k.csr with bndmode := 0xE4 } })).me
      k.csr.bndmode.toNat / 4 ^ 0 % 4 = 0 ∧ k.csr.bndmode.toNat / 4 ^ 1 % 4 = 1 ∧ k.csr.bndmode.toNat / 4 ^ 2 % 4 = 2 ∧ k.csr.bndmode.toNat / 4 ^ 3 % 4 = 3) ∧
    outOfRange 0 .i32 0 false = false ∧ outOfRange 0 .f32 0x3F800000 false = true ∧
    (one (fun k => { k with mx := { k.mx with gate := .gated true } })).me.mx.gate.isGated = true ∧
    (one (fun k => { k with mx := { k.mx with gate := .waking 5 } })).me.mx.gate.isWaking = true ∧
    (State.reset.me.mx.gate.isGated = false ∧ State.reset.me.mx.gate.isWaking = false ∧ SMap.wf .zero State.reset.me.mx.acc = true) := by decide +kernel
/-- ScalarRegisterWrite: a pending result of each kind of register. -/
theorem witness_landing : let k := (one (fun k => { k with pend := [⟨.x 31, 1, false, 0, false, 0⟩, ⟨.hx 7, 1, false, 0, false, 0⟩, ⟨.v 31 15, 1, true, 0, false, 0⟩] })).core 0
    k.pend[0]? = some ⟨.x 31, 1, false, 0, false, 0⟩ ∧ (31 : Reg) ≠ 0 ∧ k.pend[1]? = some ⟨.hx 7, 1, false, 0, false, 0⟩ ∧ k.pend[2]? = some ⟨.v 31 15, 1, true, 0, false, 0⟩ := by decide +kernel
/-- VectorRegisterWrite: bytes at both ends of a register, apart. -/
theorem witness_vector_write : let ws : List VW := [⟨0, 1, 255, false⟩, ⟨120, 8, 5, true⟩]
    (∀ w ∈ ws, w.size ∈ [1, 2, 4, 8] ∧ w.off % w.size = 0 ∧ w.off < 128 ∧ w.val < 2 ^ (8 * w.size)) ∧
    ws.Pairwise (fun a b => a.off + a.size ≤ b.off ∨ b.off + b.size ≤ a.off) := by decide
/-- VectorTraps: a handler without HVX, and a poisoned mask. -/
theorem witness_vector_traps : (one handler).alone (at_ .va) ∧ (one handler).me.csr.hvx = false ∧
    (one (fun k => { k with regs := { k.regs with kp := 0x80 } })).me.poisonK 7 = true := by decide +kernel
/-- VectorLoads, VectorStores: the last 128 bytes of the scratchpad and of the constants, one granule past them, a strided and a
gathered element. -/
theorem witness_vector_memory : accessCheck [0, 3] 128 32 0x7FF80 = none ∧ accessCheck [0, 3] 128 32 0x3000000000001F80 = none ∧
    accessCheck [0, 3] 128 32 0x7FFA0 = some ⟨0x05, 0, 0x7FFA0⟩ ∧ accessCheck [0] 128 32 0x3000000000000000 = some ⟨0x06, 0, 0x3000000000000000⟩ ∧
    accessChecks [0, 3] 4 [0x7FFFC, 2] = some ⟨0x04, 0, 2⟩ ∧ accessChecks [0, 3] 4 [0x7FFFC, 0] = none ∧ State.reset.me.sp.wf = true ∧
    ((one (bad 3)).me.readX (2 + 1)).poison = true ∧ ((one (bad 2)).me.readX 2).poison = true ∧ ((ptr 2).me.readX 2).val.toNat % elemSize (ETy.ofCode 3) ≠ 0 ∧
    (one (fun k => { k with regs := { k.regs with k := k.regs.k.set 1 1, vp := k.regs.vp.set 5 1 } })).vecReady (at_ .va) 1 ∧
    (lanes (one (fun k => { k with regs := { k.regs with k := k.regs.k.set 1 1, vp := k.regs.vp.set 5 1 } })).me .full 1 4).any
      (fun p => laneBad (one (fun k => { k with regs := { k.regs with vp := k.regs.vp.set 5 1 } })).me (4 + 1) p) = true := by decide +kernel

-- The array -----------------------------------------------------------------------------------------------------------

/-- An MX slot's operands: rows from 1, X2 and X4. -/
abbrev mxo : MX := ⟨at_ .mx, 1, 2, 4⟩
/-- Core 0 with an array changed. -/
def arrayed (f : Mx → Mx) : State := one (fun k => { k with mx := f k.mx })
/-- A queued instruction that may start at once. -/
def item (i : Instr) : MxItem := ⟨i, 0, 5, 0, 0, 0, [], false, 0, 0, 0, [], 0, [], []⟩
/-- MatrixQueued, MatrixOperation: a task, a legal word and one that is not, and the last pointers that fit. -/
theorem witness_matrix : State.reset.mxReady (at_ .mx) ∧ mcLegal 0x08000D54 ∧ ¬ mcLegal 5 ∧ State.reset.me.mx.waiting State.reset.me.mt < 8 ∧
    mxFits 0 19 32 32 0x7FFE0 ∧ rowsFit 0x7FFC0 0 0 0 19 64 16 True ∧ rowsFit 0x7FF00 0 0 0 19 256 32 False ∧
    rowsFit 0x10000000003FFF00 0 0x1000000000000000 1 22 256 32 True ∧ mxFits 1 22 8192 32 0x10000000003FE000 ∧ mxFits 0 19 8192 32 0x7E000 ∧
    mxFits 0 19 (512 * fmtBits 0) 32 0 ∧ mxFits 0 19 128 1 0x7FF80 ∧ mxFits 0 19 (0x4400 + 528 * 256) 32 0 ∧ State.reset.me.hoistHeld < 128 := by
  unfold mcLegal rowsFit mxFits; dsimp only; and_intros <;> decide +kernel
/-- MatrixQueued, MatrixTraps: eight instructions waiting, a handler without HMX, a poisoned operand, a gated array. -/
theorem witness_matrix_traps : 8 ≤ (arrayed (fun m => { m with items := List.replicate 8 { item (.mwswap mxo) with next := 9 } })).me.mx.waiting 0 ∧
    ((one handler).alone (at_ .mx) ∧ (one handler).me.csr.hmx = false) ∧ ((one (bad 2)).mxReady (at_ .mx) ∧ ((one (bad 2)).me.readX 2).poison = true) ∧
    ((arrayed (fun m => { m with gate := .gated true })).me.mx.gate.isGated = true ∧ State.reset.me.csr.hm = false) := by decide +kernel
/-- MatrixOperation: an array that is gated, and a handler with a record that fails its check and one that passes. -/
theorem witness_matrix_save : (arrayed (fun m => { m with gate := .gated false })).alone (at_ .mx) ∧
    (arrayed (fun m => { m with gate := .gated false })).me.mx.gateParked = false ∧ (one handler).me.csr.hm = true ∧
    recordBad ((one handler).me.viewRun false 0 1024).1 = true ∧
    (let k := (one (fun k => { handler k with sp := ⟨[⟨0, 0x58⟩, ⟨1, 0x4D⟩, ⟨2, 1⟩], []⟩ })).me
     recordBad (k.viewRun false 0 1024).1 = false ∧ k.checkBerths (k.berthsAt 0 0x4400) = .pass [] ∧ k.mx.tablesForm = true ∧ k.mx.parked.length ≤ 9) ∧
    (let r : List Byte := [0x58, 0x4D, 1, 1] ++ List.replicate 124 0 ++ bytesOf 0x18040861 4 ++ bytesOf 2 2 ++ List.replicate 890 0
     let k := (one (fun k => { handler k with sp := ⟨(Memory.cells 0 r).filter (fun e => e.2 != 0), []⟩ })).me
     let rec' := (k.viewRun false 0 1024).1
     recordBad rec' = false ∧ fieldAt rec' 0 8 / 2 ^ 24 % 16 = 1 ∧ (decodeSlot .mx 0 (BitVec.ofNat 32 (fieldAt rec' 0x80 4)) none).isSome = true) ∧
    (∀ g ∈ [Gate.pending true 0, .waking 9, .isOpen], (arrayed (fun m => { m with gate := g })).mxReady (at_ .mx) ∧
      (arrayed (fun m => { m with gate := g })).me.mx.gate = g ∧ (arrayed (fun m => { m with gate := g })).me.mx.gateParked = false) ∧
    (one (fun k => { k with csr := { k.csr with ardom := 1, dom := #v[0x80000000, 0, 0] } })).mxReady (arr .mx) := by decide +kernel
/-- ArrayProgress: an instruction of each kind that is due to start. -/
theorem witness_starts : ∀ i ∈ [Instr.mcfg mxo, .mtbl mxo true, .mwswap mxo, .mclr mxo, .mdrn mxo true, .mdrnh mxo false, .mstrm mxo true],
    let k := (arrayed (fun m => { m with items := [item i] })).core 0
    k.mxDue = some (.start 0) ∧ k.mx.items[0]? = some (item i) ∧ k.injects .acc = false ∧ (item i).xa.toNat % 32 = 0 := by decide +kernel
/-- ArrayProgress: a row of each stream that is due to enter, and one whose berth has another tag. -/
theorem witness_rows : (∀ i ∈ [Instr.mstrm mxo true, .mstrma mxo false],
      let s := arrayed (fun m => { m with items := [{ item i with started := true }] })
      let it := { item i with started := true }
      (s.core 0).mxDue = some (.row 0) ∧ (s.core 0).mx.items[0]? = some it ∧ isStream i = true ∧ (s.core 0).hoistEmpty it = false ∧
        (s.core 0).rowCheck it = .pass [] ∧ s.choice = 0 ∧ (s.core 0).landDueWork.mx.work = [] ∧ (s.core 0).injects .pad = false ∧
        SMap.wf .zero (s.core 0).mx.acc = true ∧ { s with choices := [1] }.choice ≠ 0) ∧
    (let it := { item (.mstrmh mxo true) with started := true }
     let k := (arrayed (fun m => { m with items := [it], hoist := [(0, 0)] })).core 0
     k.mxDue = some (.row 0) ∧ k.hoistEmpty it = false) ∧
    (let it := { item (.mstrm mxo true) with started := true }
     (berthed 5 6).me.rowCheck it = .bad 3) := by decide +kernel
/-- ArrayProgress: a drain's bound in trap mode, a pending gate that may take effect, a wake that ends. -/
theorem witness_array_events : (let k := (one (fun k => { k with run := .running, mx := { k.mx with drainTraps := [(15, 0)] } })).core 0
      k.mx.drainTraps = [(15, 0)] ∧ k.run = .running) ∧ ((arrayed (fun m => { m with gate := .pending true 0 })).core 0).gateDue = true ∧
    ((arrayed (fun m => { m with gate := .waking 0 })).core 0).wakeDue = true := by decide +kernel

-- Engine commands -----------------------------------------------------------------------------------------------------

/-- A CP slot with Xs = X2, Xd = X4. -/
abbrev cpo : CP := ⟨at_ .cp, 2, 4, 0, 0, 0⟩
/-- Core 0 with bytes from scratchpad address 0 on, and X registers. -/
def loaded (bs : List Byte) (l : List (Reg × Word)) : State := one (fun k => xs l { k with sp := ⟨Memory.cells 0 bs, []⟩ })
/-- CommandIssue: the least and the greatest length of each command, pointers at the end of their spaces, a handle's pointer. -/
theorem witness_linear : State.reset.alone (at_ .cp) ∧ State.reset.me.queue.length < 32 ∧ (State.reset.me.readX 2).poison = false ∧
    (lenFits 0 0 (2 ^ 40) ∧ lenFits 32 32 524288 ∧ lenFits 65536 32 65536) ∧ dataFits [0, 1, 2, 3] 32 32 0x7FFE0 ∧ dataFits [0, 1, 3] 32 1 0x3000000000001FE0 ∧
    dataFits [2] 0 32 0x2000000000000020 ∧ dataFits [2] 8 8 0x2000000000000008 ∧ dataFits [2] 0 65536 0x2000000000010000 ∧ mxFits 0 19 8 8 0x7FFF8 ∧
    (0x3FFF000000000000 : Word).toNat / 2 ^ 48 % 2 ^ 15 < 2 ^ 14 := by
  unfold lenFits dataFits mxFits; and_intros <;> decide +kernel
/-- CommandIssue: two records that may be copied and two that may be gathered. -/
theorem witness_copies :
    (let k := (loaded (shape 1 0x1000 8 4 0 0 ++ shape 1 0x2000 8 4 0 0) []).me
     noFault (k.copyForm 0 192).checks) ∧
    (let k := (loaded (shape 2 0x1000 8 4 4 32 ++ shape 2 0x2000 8 4 4 32) []).me
     let a := k.takeRecord 0; let b := k.takeRecord 192
     noFault ([structFault 0 192 32, structFault 192 192 32, structFault 384 (4 * shExt b.1 1) 4, a.2.2, b.2.2,
            recordFault 0 (if shRank a.1 = 2 then none else some 1), recordFault 192 (gatherBad a.1 b.1)]
            ++ shapePtrs a.1 [0, 1, 2, 3] ++ shapePtrs b.1 [0, 1, 2])) := by
  unfold noFault; decide +kernel
/-- CommandIssue: a bucket descriptor, a trim block, a dredge block with its region, and a domain for SNAP. -/
theorem witness_blocks :
    (let k := (loaded ([0, 0, 2, 0, 1, 0, 0, 0, 2, 0, 0, 0, 0, 0, 0, 0] ++ List.replicate 8 0 ++ bytesOf 0x1000 8 ++ bytesOf 0x2000 8 ++ bytesOf 4 8 ++
        bytesOf 0x3000 8) []).me
     let d := (k.viewRun false 0 64).1
     structFits k 0 64 32 ∧ bucketBad d = none ∧ (coStatp d ≠ 0 ∧ mxFits 0 19 32 32 (coStatp d)) ∧ dataFits [0, 2] (bucketBytes (coWire d) (coCount d)) 32 (coSrc d) ∧
       dataFits [0, 2] (bucketBytes (coWire d) (coCount d)) 32 (coDst d)) ∧
    (let k := (loaded (bytesOf 0x1000 8 ++ [1, 0, 0, 1]) []).me
     let d := (k.viewRun false 0 64).1
     structFits k 0 64 32 ∧ trimBad d = none ∧ mxFits 0 19 (4 * tbPlen d) 32 (tbProg d)) ∧
    (let k := (loaded (bytesOf 128 8 ++ [0, 0, 0, 0, 1, 0] ++ List.replicate 114 0 ++ shape 1 0x2000000000000000 8 4 0 0) []).me
     let d := (k.viewRun false 0 128).1
     let g := k.takeRecord (drRrec d)
     structFits k 0 128 32 ∧ mxFits 0 19 192 32 (drRrec d) ∧ g.2.2 = none ∧ regionBad g.1 = none ∧ dredgeBad d (shFmt g.1) = none ∧ noFault (shapePtrs g.1 [2])) := by
  unfold structFits mxFits dataFits noFault; and_intros <;> decide +kernel
/-- CommandIssue: a full queue of a task and of a handler, a poisoned source, a length of zero and one that is no multiple of 32, and no domain. -/
theorem witness_command_traps : (∀ h ∈ [true, false], let s := one (fun k => { k with queue := List.replicate 32 (cmd 0 (.cpab cpo) 0 false), csr := { k.csr with hm := h } })
      s.alone (at_ .cp) ∧ 32 ≤ s.me.queue.length ∧ s.me.csr.hm = h ∧ (s.me.readX 2).poison = false) ∧
    ((one (bad 2)).me.readX 2).poison = true ∧ ((ptr 0).me.readX (2 + 1)).val.toNat % 2 ^ 32 = 0 ∧ dataFits [0, 1, 3] 33 1 0 ∧ 33 ≤ 65536 ∧ 33 % 32 ≠ 0 ∧
    (State.reset.me.csr.domOf .l3).getLsbD 31 = false := by
  unfold dataFits; and_intros <;> decide +kernel
/-- Core 0 with one command in its queue. -/
def queued (q : Cmd) : State := one (fun k => { k with queue := [q] })
/-- CommandEvents: a command that starts now, of each kind that does something at its start, with a target of the partition and not. -/
theorem witness_command_starts : (∀ i ∈ [Instr.cpyl cpo, .semr cpo], (queued (cmd 3 i 0 false)).startsNow 0 (cmd 3 i 0 false) = true ∧
      ((queued (cmd 3 i 0 false)).core 0).cmd 3 = some (cmd 3 i 0 false)) ∧ ((queued (cmd 3 (.cpyl cpo) 0 false)).core 0).mxWrites [] 0 = false ∧
    (let q := { cmd 3 (.cpab cpo) 0 false with pos := 1 }; (queued q).startsNow 0 q = true ∧ ((queued q).core 0).cmd 3 = some q) ∧
    (let s := (queued (cmd 3 (.cpyl cpo) 0 false)).modCore 0 (fun k => { k with suspended := none, run := .idle })
     (s.core 0).suspended = none ∧ (s.core 0).task = 0 ∧ (s.core 0).run = .idle) ∧
    State.reset.touchesOk 0 [⟨0, 0, 0, .src⟩, ⟨0, 0, 0, .dst⟩] = true ∧ State.reset.touchesOk 0 [⟨0x2000000000000000, 0, 32, .src⟩] = false ∧
    State.reset.ownsCore 0 1 = false ∧ { State.reset with parts := State.reset.parts.set 0 { Part.empty with state := .running, quays := 1 } }.ownsCore 0 1 = true := by
  decide +kernel
/-- CommandEvents: a finished command, with its status OK and RIGHTS. -/
theorem witness_completion : (let q := { cmd 3 (.semr cpo) 0 true with finished := true }
      ((queued q).core 0).cmd 3 = some q ∧ q.ar = 0 ∧ q.met = [] ∧ ((queued q).core 0).exits = []) ∧
    (Status.rights ∈ [Status.rights, .ok] ∧ Status.aborted ∉ [Status.rights, .ok]) := by decide +kernel
/-- CommandEvents: the last granule of a CPYL, and a flit of a SENDS in its slot. -/
theorem witness_granules : (let q := { cmd 3 (.cpyl cpo) 0 true with xs := 0x7FFE0, xs1 := 64, xd := 0x7FFC0, pos := 1 }
      padReady (queued q) 0 q ∧ q.got = [] ∧ ((queued q).core 0).sp.wf = true ∧ q.xd.toNat / 2 ^ 60 = 0 ∧ 32 * q.pos < q.xs1.toNat % 2 ^ 40) ∧
    (let lane := [(0 : Byte), 0, 5, 0, 0, 0, 0, 0, 1, 0, 0, 0, 0, 0, 0, 0]
     let q := { cmd 3 (.sends cpo) 0 true with xs1 := 96, pos := 2, blocks := [lane], nums := [3] }
     padReady (queued q) 0 q ∧ q.got = [] ∧ (queued q).lanes = [] ∧ 96 % 32 = 0 ∧ 32 * q.pos < 96 ∧ fieldAt lane 8 8 / 2 ^ ((queued q).tnow.toNat % 64) % 2 = 1 ) := by
  unfold padReady; and_intros <;> decide +kernel
/-- Core 0 in a running partition 0 that holds every core, with one command. -/
def owned (q : Cmd) : State :=
  { queued q with parts := State.reset.parts.set 0 { Part.empty with state := .running, quays := 0xFFFFFFFF } }
/-- CommandEvents: a SEND and an MCAST to a berth that takes them, and to one that does not, with a granule read and without. -/
theorem witness_delivery : (let q := { cmd 3 (.send cpo false) 0 true with xs1 := 64, xd := 0x30000, got := [(.sp 0 0, 0, false)] }
      let s := (owned q).modCore 0 (fun k => k.modBerth 3 (fun _ => ⟨0, 1, true, true, true, true, 0, 0, false⟩))
      (s.core 0).cmd 3 = some q ∧ s.ownsCore (s.core 0).part 0 = true ∧ ((s.core 0).berth 3).arm = true ∧ 0 + 64 ≤ 32 * (((s.core 0).berth 3).lenm1.toNat + 1) ∧
        ((s.core 0).berth 3).mesh = true ∧ ((owned q).core 0).cmd 3 = some q ∧ ((owned q).core 0).berths[3].arm = false) ∧
    ((cmd 3 (.mcast cpo) 0 true).got = [] ∧ (cmd 3 (.mcast cpo) 0 true).finished = false) ∧
    (let q := { cmd 3 (.mcast cpo) 0 true with xs1 := 64, xd1 := 0x8000000000000000, got := [(.sp 0 0, 0, false)] }
     q.xd1.getLsbD 63 = true ∧ quayCore (q.xd.toNat % 32) 63 = 455 ∧ q.accepted.getLsbD 63 = false ∧ q.refused.getLsbD 63 = false) := by decide +kernel
/-- A chunk on its way from a package to core 5. -/
def chunkFrom (chip : BitVec 21) : FabOp := ⟨chip, 0, 1, 0, none, 0, .chunk 5 ⟨0, 0, 2, 2, 4, 0, 0, ⟨[], []⟩, ⟨[], []⟩⟩⟩
/-- CommandEvents: a chunk of this package on its way, one of another package. -/
theorem witness_chunks : (chunkFrom 0).srcChip = State.reset.chip ∧ chunkFrom 0 ∈ { State.reset with flying := [chunkFrom 0] }.flying ∧
    (chunkFrom 1).srcChip ≠ State.reset.chip ∧ State.reset.dupOf 1 0 = none ∧ State.reset.dups.length < 4096 ∧ (chunkFrom 1).postCut = none ∧
    State.reset.missed = [] ∧ (owned (cmd 3 (.cpab cpo) 0 false)).ownsCore 0 5 = true ∧ ((owned (cmd 3 (.cpab cpo) 0 false)).part 0).state ≠ .none ∧
    State.reset.boot = .none ∧ { State.reset with boot := .pll }.boot ≠ .none := by decide +kernel
/-- A COLL that has waited its limit of one tick. -/
def collCmd : Cmd :=
  { cmd 3 (.coll cpo) 0 true with blocks := [[0, 0, 2, 0, 1, 0, 0, 0, 2] ++ List.replicate 55 0], nums := [1, 0], collto := 1 }
/-- CommandEvents: a COLL that has waited its limit for a chunk. -/
theorem witness_coll_late : (({ queued collCmd with tnow := 1 } : State).core 0).cmd 3 = some collCmd ∧
    ({ queued collCmd with tnow := 1 } : State).collLate 0 collCmd = true := by
  have h : ∀ c, ({ queued collCmd with tnow := 1 } : State).core c = if c = 0 then { Core.reset with queue := [collCmd] } else Core.reset :=
    one_core (fun k => { k with queue := [collCmd] })
  simp only [State.collLate, State.collHeld, State.comingSnaps, h]
  decide +kernel
/-- CommandEvents: a page whose copy is done and whose entries are to change places, the last of its command. -/
theorem witness_exchange : let q := { cmd 3 (.migrRemap cpo) 0 true with xs := 0x2000000000000000, xd := 0x2000000000010000, xs1 := 65536, pos := 2048 }
    let s := queued q
    (s.core 0).cmd 3 = some q ∧ q.exchangeDue = true ∧ SMap.wf 0 s.pages = true ∧ (s.migrKeys 0 q 0).1 ≠ (s.migrKeys 0 q 0).2 ∧
      (s.migrKeys 0 q 1).1 ≠ (s.migrKeys 0 q 0).1 ∧ s.genOk 0 q q.xs = true ∧ s.genOk 0 q q.xd = true ∧
      (let r := { q with gens := [(0, 7)] }; r.exchangeDue = true ∧ s.genOk 0 r r.xs = false) := by decide +kernel
/-- CommandEvents: a granule of a region an engine has not read yet, and a scan in which every engine has. -/
theorem witness_dredge : let g := shape 1 0x2000000000000000 8 4 0 0
    let q := { cmd 3 (.drg cpo) 0 true with blocks := [List.replicate 128 0, g] }
    let s := { queued q with pages := [(0, 0x13)] }
    ((s.core 0).cmd 3 = some q ∧ q.data.bytes = [] ∧ s.drgNext 0 q 0 = some 0 ∧ s.drgGenOk 0 q 0 = true ∧ q.engineHold 0 = none ∧ s.translate 0 false 0 none = .ok 0 ∧
      bit (s.part 0).flags 0 = false) ∧
    s.drgScanned 0 { q with got := [(.ia 0 0, 0, false)] } = true ∧ drMode (List.replicate 128 0) = 0 := by decide +kernel

-- Waits and the sequencer ---------------------------------------------------------------------------------------------

/-- A core frozen on a wait since tick 0. -/
def frozen (w : Wait) (f : Core → Core) : State := { (one (fun k => f { k with run := .running, freeze := some ⟨w, 0, 0, 0, false, none⟩ })) with tnow := 100 }
/-- WaitEvents: waits that are over and waits that are not, and a berth landed, late and unarmed. -/
theorem witness_waits : (∀ w ∈ [Wait.sem 3 1, .time 101, .msync, .queue, .hoist, .land 3, .buffer 3 0],
      ((frozen w id).core 0).run = .running ∧ ((frozen w id).core 0).freeze = some ⟨w, 0, 0, 0, false, none⟩) ∧
    ((frozen .msync id).core 0).mxLanded = true ∧ ((frozen .msync id).core 0).mx.gate.isPending = false ∧
    ((berthed 5 5).core 0).berths[3].atag = ((berthed 5 5).core 0).berths[3].etag ∧ ((berthed 5 4).core 0).berths[3].atag + 1 = ((berthed 5 4).core 0).berths[3].etag := by
  decide +kernel
/-- WaitEvents: each other wait over, and with something left: a command of a masked class or of the phase, an arrival of this phase, no room in
the target's queue or in the engine's, a gate pending, a berth late, a granule not copied. -/
theorem witness_waits_end : (∀ w ∈ [Wait.fence 1, .dom .l1, .phase 1 [], .phaseAbort 1 [] [], .msync, .exit, .cow 0, .buffer 3 0, .row 3, .land 3, .spawn 5],
      let s (f : Core → Core) := frozen w f
      ((s id).core 0).run = .running ∧ ((s id).core 0).freeze = some ⟨w, 0, 0, 0, false, none⟩) ∧
    (let k := (frozen (.fence 1) id).core 0; k.queue = [] ∧ k.mxWrites [k.mxSpan] k.mx.otherDue = false) ∧
    (let k := (frozen (.fence 1) (fun k => { k with queue := [cmd 3 (.cpyl cpo) 0 false] })).core 0
     ∃ q ∈ k.queue, (1 : BitVec 16).getLsbD q.cls.toNat = true) ∧
    (let k := (frozen (.dom .l1) (fun k => { k with csr := { k.csr with dom := #v[0x80000000, 0, 0] } })).core 0
     (k.csr.domOf .l1).getLsbD 31 = true ∧ k.lastArr[Level.l1.ix] = none) ∧
    (let k := (frozen (.dom .l1) (fun k => { k with lastArr := #v[some 0, none, none], csr := { k.csr with dom := #v[0x80000000, 0, 0] } })).core 0
     k.lastArr[Level.l1.ix] = some 0 ∧ ¬ (0 - k.csr.dphOf .l1).toInt < 0) ∧
    (let k := (frozen (.phase 1 []) (fun k => { k with phase := some (0, 4), queue := [cmd 3 (.cpyl cpo) 0 false] })).core 0
     k.phase = some (0, 4) ∧ (∀ q ∈ k.queue, q.id < 4) ∧ k.queue.length + 1 ≤ 32) ∧
    (let k := (frozen (.phase 1 []) (fun k => { k with phase := some (0, 3), queue := [cmd 3 (.cpyl cpo) 0 false] })).core 0
     k.phase = some (0, 3) ∧ ∃ q ∈ k.queue, (1 : BitVec 16).getLsbD q.cls.toNat = true ∧ ¬ q.id < 3) ∧
    ((frozen .exit id).core 0).mxLanded = true ∧ ((frozen .exit id).core 0).mx.gate.isPending = false ∧
    ((frozen .exit (fun k => { k with mx := { k.mx with gate := .pending true 0 } })).core 0).mx.gate.isPending = true ∧
    (frozen (.cow 0) id).holdMark 0 0 = none ∧ ({ frozen (.cow 0) id with parts := State.reset.parts.set 0 heldPart } : State).holdMark 0 0 = some 0 ∧
    (let b := (berthed 5 4).me.berth 3; b.arm = true ∧ b.pending = true ∧ b.atag + 1 = b.etag) ∧ (State.reset.me.berth 3).arm = false ∧
    ((frozen (.spawn 0) (fun k => { k with spawnq := List.replicate 16 ⟨0, 0, 0, 0, 0⟩ })).core 0).spawnq.length = 16 := by decide +kernel
/-- WaitEvents: a request to an empty queue that nobody else makes, which ends, and one of core 5 that core 0 makes as
long, which does not. -/
theorem witness_spawn_waits : (let s := frozen (.spawn 5) id
      (s.core 5).spawnq.length < 16 ∧ (s.core 5).spawnAt ≠ some s.clock.cycle ∧ ∀ d g, d ≠ 0 → (s.core d).freeze = some g → g.wait ≠ .spawn 5) ∧
    (let s := (frozen (.spawn 5) id).modCore 5 (fun k => { k with run := .running, freeze := some ⟨.spawn 5, 0, 0, 0, false, none⟩ })
     (s.core 5).run = .running ∧ (s.core 5).freeze = some ⟨.spawn 5, 0, 0, 0, false, none⟩ ∧ (s.core 0).freeze = some ⟨.spawn 5, 0, 0, 0, false, none⟩ ∧
       ¬ (5 : CoreId).toNat < (0 : CoreId).toNat) := by
  refine ⟨?_, by decide +kernel⟩
  have h (d : CoreId) : (frozen (.spawn 5) id).core d =
      if d = 0 then { Core.reset with run := .running, freeze := some ⟨.spawn 5, 0, 0, 0, false, none⟩ } else Core.reset :=
    one_core (fun k => { k with run := .running, freeze := some ⟨.spawn 5, 0, 0, 0, false, none⟩ }) d
  refine ⟨by rw [h]; decide, by rw [h]; decide, fun d g hd e => ?_⟩
  rw [h, if_neg hd] at e
  simp [Core.reset] at e
/-- WaitEvents: waits of every kind that are not over when LATEMAX comes. -/
theorem witness_late : ∀ w ∈ [Wait.sem 63 1, .fence 1, .land 3, .dom .l3, .spawn 0, .phase 1 [], .phaseAbort 1 [] [], .buffer 3 0, .queue, .row 3, .hoist],
    let s := frozen w (fun k => { k.modBerth 3 (fun _ => ⟨0, 1, true, true, true, true, 5, 4, true⟩) with
      queue := List.replicate 32 (cmd 0 (.cpab cpo) 0 false), spawnq := List.replicate 16 ⟨0, 0, 0, 0, 0⟩, phase := some (0, 0), lastArr := #v[none, none, some 0],
      csr := { k.csr with latemax := 100, dom := #v[0, 0, 0x80000000] } })
    s.waitOver 0 w = false ∧ (s.core 0).csr.latemax = 100 ∧ (s.tnow - 0).toNat = 100 := by decide +kernel
/-- A plane with code of 64 bytes and a tide entry 7 of these first 16 bytes, with its occurrence. -/
def tided (entry : List Byte) (o : Occ) : State :=
  one (fun k => { k with planes := #v[⟨Memory.cells 0x120E0 entry ++ Memory.cells 0x15008 [64], [], true, [(7, o)]⟩, .empty] })
/-- SequencerEvents: an occurrence that falls due with another pending, and one that starts its task. -/
theorem witness_tide : (let s := tided [0, 0, 0, 0, 0, 0, 0, 0, 4, 0, 5, 0, 1] ⟨true, some 0, 0⟩
      let p := (s.core 0).plane false
      SMap.wf .none p.occ = true ∧ (p.occOf 7).live = true ∧ teLaunch (p.tide 7) + 0 ≤ s.tnow.toNat ∧ teRepeat (p.tide 7) = true ∧ (s.core 0).origin = false) ∧
    (let s := tided [0, 0, 0, 0, 0, 0, 0, 0, 4, 0, 1] ⟨false, some 0, 1⟩
     let k := s.core 0
     k.run = .idle ∧ firstTide k.pendingTides = some (0, 7) ∧ s.tideBad 0 k.active (k.active.tide 7) = false ∧ teSwap (k.active.tide 7) = false ∧ k.swreq = false) := by
  decide +kernel
/-- A suspended task. -/
def suspended : Suspended := ⟨Vector.replicate 3 0, Vector.replicate 3 0, 1, 0, none, none, false, .reset, Vector.replicate 3 none, none⟩
/-- SequencerEvents: a task that resumes, one that is spawned, a save that begins, a save and a resume that end, and a plane loaded. -/
theorem witness_sequencer : (let k := (one (fun k => { k with suspended := some suspended })).core 0
      k.run = .idle ∧ k.pendingTides = [] ∧ k.suspended ≠ none ∧ k.swreq = false) ∧
    (let k := (one (fun k => { k with spawnq := [⟨4, 5, 1, 0, 9⟩] })).core 0
     k.run = .idle ∧ k.pendingTides = [] ∧ k.suspended = none ∧ k.spawnq = [⟨4, 5, 1, 0, 9⟩]) ∧
    (let s := one (fun k => { k with run := .preempting 0 false 7 })
     (s.core 0).run = .preempting 0 false 7 ∧ (s.core 0).landing = none ∧ s.saveHeld 0 = false ∧ (s.core 0).swreq = false) ∧ ((one (fun k => { k with run := .saving 0 0 false 7 })).core 0).run = .saving 0 0 false 7 ∧
    (let k := (one (fun k => { k with run := .saving 0 0 false 7, context := List.range 11 })).core 0
     k.context.length = 11 ∧ k.context.Nodup ∧ k.csr.hm = false ∧ k.mx.tablesForm = true ∧ k.mx.parked.length ≤ 9 ∧ k.injects .acc = false ∧ k.injects .pad = false) ∧
    (let s := { one (fun k => { k with run := .resuming 0, suspended := some suspended, context := List.range 11 }) with
        hbm := ⟨[⟨0x800, 0x58⟩, ⟨0x801, 0x4D⟩, ⟨0x802, 1⟩], []⟩ }
     (s.core 0).run = .resuming 0 ∧ (s.core 0).suspended = some suspended ∧ (s.part 0).flags.getLsbD 0 = false ∧ recordBad ((s.contextArea 0).cells.readRun 0x800 1024) = false) ∧
    (let s := { one (fun k => { k with loading := some ([], 0, 0) }) with tnow := 12288 }
     (s.core 0).loading = some ([], 0, 0) ∧ 12288 ≤ (s.tnow - 0).toNat) := by decide +kernel

/-- A task with a weight of 8 that names core 5 of its partition. -/
def spawner : State := { one (fun k => xs [(1, 4), (2, 5), (3, 9)] { k with csr := { k.csr with weight := 8 } }) with
  parts := State.reset.parts.set 0 { Part.empty with state := .running, quays := 0xFFFFFFFF } }
/-- WaitEvents, SpawnAndExit: nobody asks before it. -/
theorem witness_spawn_grant : spawner.spawnGrant 0 5 = true := by
  have h (d : CoreId) : (spawner.core d).freeze = none ∧ (spawner.core d).spawnq = [] ∧ (spawner.core d).spawnAt = none := by
    have e := one_core (fun k => xs [(1, 4), (2, 5), (3, 9)] { k with csr := { k.csr with weight := 8 } }) d
    rw [show spawner.core d = _ from e]
    split <;> exact ⟨rfl, rfl, rfl⟩
  simp [State.spawnGrant, h]
/-- WaitEvents: a task that may spawn on core 5 with half of its weight, a plane that is ready, and a phase to abort. -/
theorem witness_system : (let s := spawner
      s.alone (at_ .sc) ∧ (s.me.readX 1) = ⟨4, false⟩ ∧ (s.me.readX 2) = ⟨5, false⟩ ∧ (s.me.readX 3).poison = false ∧
        s.me.csr.weight = 8 ∧ s.ownsCore s.me.part 5 = true) ∧
    (one (fun k => { k with shrdy := true })).me.shrdy = true ∧ State.reset.me.csr.hm = false ∧
    (phased true []).me.first = none ∧ ((phased true []).me.phaseRecord 640).2 = none ∧
    (phased true []).me.phaseBusy (phCmask ((phased true []).me.phaseRecord 128).1) = false := by decide +kernel
/-- VectorTraps: a slot that passes its checks, with a bound register in trap mode and nothing out of range, and an open array. -/
theorem witness_vector_completes : let s := one (fun k => { k with csr := { k.csr with bndmode := 3 } })
    s.vecReady (at_ .va) 0 ∧ s.me.csr.bndmode.toNat / 4 ^ 0 % 4 = 3 ∧
      (∀ b ∈ lanes s.me .full 0 4, outOfRange (s.me.csr.bnd.toList.getD 0 0) .i32 (laneOf s.me 2 b 4) (laneBad s.me 2 b) = false) ∧
      s.me.mx.gate.isGated = false ∧ s.me.mx.gate.isWaking = false ∧ s.me.injects .acc = false := by decide +kernel

-- Pages, faults, filters, cuts ----------------------------------------------------------------------------------------

/-- A fault of partition 0 at page 1, its frame 5, and a snapshot set of one page with a cut in progress. -/
def faulted (cut : Option Cut) : State :=
  { State.reset with
    frames := [(5, 1)], tnow := 0x1000000, faults := [⟨9, 0, 0x10000, true, 0, false⟩],
    parts := State.reset.parts.set 0 { Part.empty with state := .running, cut := cut, snapset := some ⟨[⟨false, 0, 0x10000, 0x10000⟩], 0x400000, 0x400000, 0, 0, 0⟩ } }
/-- CutEvents: a hold whose errors a read does not correct. -/
theorem witness_no_error (x : Nat) : (State.reset.core 0).homeCorrects x = false ∧ (State.reset.core 0).injects .hold = false :=
  ⟨by have h : State.reset.core 0 = Core.reset := by simp [State.core, State.reset]
      rw [h]; rfl, by decide +kernel⟩
/-- A cut of one page that has drained this many granules. -/
def cut (pos : Nat) : Cut := ⟨1, 0, .l1, pos, [], [0], [1], [], [], [], 7⟩
/-- FaultEvents: an update the owner of the frame may make, marked by a cut and not, one it may not, and a fault without an answer. -/
theorem witness_faults : let s := faulted none
    SMap.wf 0 s.pages = true ∧ s.faults.find? (fun f => f.id == 9 && !f.refused) = some ⟨9, 0, 0x10000, true, 0, false⟩ ∧ (0x50003 : Word).getLsbD 7 = false ∧
    s.frameOwner (0x50003 / 2 ^ 16) = some (BitVec.ofNat 5 (0x50003 / 2 ^ 8)) ∧ s.entryMarked 1 0x50003 0 = false ∧
    (faulted (some (cut 0))).entryMarked 1 0x50003 0 = true ∧ pteW 0x50003 = true ∧ s.frameOwner (0x60003 / 2 ^ 16) = none ∧
    (s.part 0).faultmax = 0 ∧ 2 ^ 24 ≤ (s.tnow - 0).toNat ∧ s.boot = .none ∧ { s with boot := .rom }.boot ≠ .none := by decide +kernel
/-- FaultEvents: the last filter, when its interval is over. -/
theorem witness_filter : let s := { State.reset with tnow := 0x100000 }
    (11 : BitVec 4).toNat < 12 ∧ SMap.wf false s.tele.filters = true ∧ s.tele.clrint.toNat ≤ (s.tnow - s.tele.cleared[11]).toNat := by decide +kernel
/-- A SNAP of level 1 that has started, of step 2. -/
def snapCmd : Cmd := { cmd 3 (.snap cpo .l1) 0 true with xs := 2 }
/-- Core 0 comes first, and the others are not 0. -/
theorem cores_split : allCores = 0 :: (List.range 2047).map (fun n => BitVec.ofNat 11 (n + 1)) := by
  decide +kernel
theorem others_ne (c : CoreId) (h : c ∈ (List.range 2047).map (fun n => BitVec.ofNat 11 (n + 1))) : c ≠ 0 := by
  obtain ⟨n, hn, rfl⟩ := List.mem_map.mp h
  have := List.mem_range.mp hn
  intro e
  have := congrArg BitVec.toNat e
  simp at this
  omega
/-- A SNAP that is the only one and whose members are all there. -/
theorem cut_of_one (s : State) (q : Cmd) (hw : s.waitingSnaps 0 = [(0, q)]) (hm : s.membersIn q.xs1 .l1 [(0, q)] = true)
    (hc : s.collPending 0 (snapN q) = false) (hp : (s.part 0).cut = none) (hl : snapLevel q.ins = some .l1) :
    s.cutDue 0 = some (.l1, [(0, q)]) := by
  have hg : s.cutGroup [(0, q)] (0, q) = some (.l1, [(0, q)]) := by
    unfold State.cutGroup
    generalize s.membersIn = mem at hm ⊢
    simp only [BitVec.ofNat_eq_ofNat] at hm ⊢
    simp [hl, hm]
  unfold State.cutDue
  rw [hw]
  generalize s.collPending = cp at hc ⊢
  generalize s.cutGroup = cg at hg ⊢
  simp only [BitVec.ofNat_eq_ofNat] at hp hc hg ⊢
  simp [hp, hc, hg, hl]
/-- CutEvents: a group that is complete with one SNAP. -/
theorem witness_cut_due : (queued snapCmd).cutDue 0 = some (.l1, [(0, snapCmd)]) := by
  have h0 : (queued snapCmd).core 0 = { Core.reset with queue := [snapCmd] } := one_core (fun k => { k with queue := [snapCmd] }) 0
  have h : ∀ c, c ≠ 0 → (queued snapCmd).core c = Core.reset := fun c hc =>
    (one_core (fun k => { k with queue := [snapCmd] }) c).trans (if_neg hc)
  refine cut_of_one _ _ ?_ ?_ ?_ (by decide +kernel) rfl
  · rw [State.waitingSnaps, cores_split, List.flatMap_cons, List.flatMap_eq_nil_iff.mpr (fun c hc => by rw [h c (others_ne c hc)]; simp [Core.reset]), h0]
    simp [Core.reset, snapCmd, cmd, isSnap]
  · rw [State.membersIn, cores_split, List.all_cons, h0, Bool.and_eq_true]
    exact ⟨by simp [Core.memberTasks, Core.reset], List.all_eq_true.mpr (fun c hc => by rw [h c (others_ne c hc)]; simp [Core.memberTasks, Core.reset])⟩
  · rw [State.collPending, cores_split, List.any_cons, h0, Bool.or_eq_false_iff]
    exact ⟨by simp [snapCmd, cmd], List.any_eq_false.mpr (fun c hc => by rw [h c (others_ne c hc)]; simp [Core.reset])⟩
/-- CutEvents: a group past the previous cut, and one not past it. -/
theorem witness_cut_bad : SMap.wf 0 (queued snapCmd).pages = true ∧ (queued snapCmd).cutBad 0 [(0, snapCmd)] = false ∧
    ({ queued snapCmd with parts := State.reset.parts.set 0 { Part.empty with lastCut := some 2 } } : State).cutBad 0 [(0, snapCmd)] = true := by
  decide +kernel
/-- CutEvents: a granule a writer waits for, the last one to drain, a cut that is drained and one that is not. -/
theorem witness_cut : let s := faulted (some (cut 0))
    (s.part 0).cut = some (cut 0) ∧ (s.part 0).snapset ≠ none ∧ (s.part 0).flags.getLsbD 0 = false ∧ granuleAt (s.part 0).ranges 0 = some (⟨false, 0, 0x10000, 0x10000⟩, 0x10000) ∧ 0 ∈ (cut 0).copying ∧ s.bufRoom 0 65536 = true ∧
    (cut 0).marked 0 = true ∧ 0x10000 - 0x10000 + 65536 ≤ 0x10000 ∧ (s.part 0).units ≤ (cut 1).pos ∧ (cut 0).pos < (s.part 0).units := by decide +kernel

-- Trimmers ------------------------------------------------------------------------------------------------------------

/-- A thread with a C register and a W register set. -/
def thread : Thread := ⟨Vector.replicate 16 0, Vector.replicate 16 0, Vector.replicate 8 0, 0, 0, 0, 1, true⟩
/-- A sweep whose next turn is of its one thread. -/
def sweep : Sweep := ⟨0, [0, 0], [], true, 63, 1, 0, 1, 1, Vector.replicate 8 0, Vector.replicate 16 thread, 0, 0, 0, 0, 0, none⟩
/-- Core 0 with the sweep, its capability entry of 64 bytes, of a generation and with rights. -/
def swept (e : BitVec 128) : State := one (fun k => { k with sweep := some sweep, caps := k.caps.set 63 e })
/-- TrimmerResults: a turn, a clean register and a poisoned one, an entry of another generation, without a right, and the last word inside
its bound. -/
theorem witness_trimmer : turnOf (swept 0) sweep ∧ sweep.thread.crp 7 = false ∧ { thread with cp := 0x80 }.crp 7 = true ∧ capGen ((swept 0).me.cap 63) ≠ sweep.gen ∧
    (let e := (swept 0x00010000000000400000000000000007).me.cap 63
     capGen e = sweep.gen ∧ e.getLsbD 1 = true ∧ e.getLsbD 2 = true ∧ 32 * ((1 : BitVec 16).toInt) < capBound e ∧ 32 * ((2 : BitVec 16).toInt) ≥ capBound e ∧
      (swept 0).me.injects .hold = false ∧ (swept 0).holdMark 0 32 = none) ∧ (0x00010000000000400000000000000001 : BitVec 128).getLsbD 2 = false := by
  unfold turnOf; and_intros <;> decide +kernel
/-- TrimmerResults: a hold word of a granule the drydock is still to copy. -/
theorem witness_trimmer_mark : ({ swept 0 with parts := State.reset.parts.set 0 heldPart } : State).holdMark 0 32 = some 0 := by decide +kernel
/-- TrimmerTurns: an instruction and a branch inside the program, the last instruction, an item with another to come and the last. -/
theorem witness_turns : thread.ip + 1 < sweep.prog.length ∧ 1 < sweep.prog.length ∧ sweep.prog.length ≤ { thread with ip := 1 }.ip + 1 ∧
    thread.item + sweep.nthr < { sweep with count := 2 }.count ∧ sweep.count ≤ thread.item + sweep.nthr := by decide

-- Links and the fabric ------------------------------------------------------------------------------------------------

/-- The machine with port XP changed, at tick 65536. -/
def ported (f : TorusPort → TorusPort) : State := { State.reset.modPort .xp f with tnow := 65536 }
/-- Bits of a flit with its CRC in place. -/
theorem made_bits (pay : BitVec 448) (h : BitVec 32) (c : BitVec 32) (n : Nat) :
    ((pay ++ (0#32 ++ h)) ||| (c.setWidth 512 <<< 32) : BitVec 512).getLsbD n =
      if n < 32 then h.getLsbD n else if n < 64 then c.getLsbD (n - 32) else pay.getLsbD (n - 64) := by
  simp only [BitVec.getLsbD_or, BitVec.getLsbD_append, BitVec.getLsbD_shiftLeft, BitVec.getLsbD_setWidth, BitVec.getLsbD_zero]
  by_cases h1 : n < 32
  · have : n < 64 := by omega
    simp [h1, this]
  · by_cases h2 : n < 64
    · have a : n < 512 := by omega
      have b : n - 32 < 512 := by omega
      simp [h1, h2, a, b]
    · have : c.getLsbD (n - 32) = false := BitVec.getLsbD_of_ge _ _ (by omega)
      simp [h1, h2, this]
/-- Its header. -/
theorem made_low (pay : BitVec 448) (h c : BitVec 32) : (fld ((pay ++ (0#32 ++ h)) ||| (c.setWidth 512 <<< 32) : BitVec 512) 0 32 : BitVec 32) = h := by
  apply BitVec.eq_of_getLsbD_eq; intro i hi
  simp only [fld, BitVec.getLsbD_extractLsb', made_bits]; simp [hi]
/-- Its CRC. -/
theorem made_mid (pay : BitVec 448) (h c : BitVec 32) : (fld ((pay ++ (0#32 ++ h)) ||| (c.setWidth 512 <<< 32) : BitVec 512) 32 32 : BitVec 32) = c := by
  apply BitVec.eq_of_getLsbD_eq; intro i hi
  simp only [fld, BitVec.getLsbD_extractLsb', made_bits]; 
  have a : ¬ 32 + i < 32 := by omega
  have b : 32 + i < 64 := by omega
  simp [a, b, hi]
/-- Its payload. -/
theorem made_high (pay : BitVec 448) (h c : BitVec 32) : (fld ((pay ++ (0#32 ++ h)) ||| (c.setWidth 512 <<< 32) : BitVec 512) 64 448 : BitVec 448) = pay := by
  apply BitVec.eq_of_getLsbD_eq; intro i hi
  simp only [fld, BitVec.getLsbD_extractLsb', made_bits]; simp [hi]; 
  have : ¬ 64 + i < 32 := by omega
  have : ¬ 64 + i < 64 := by omega
  simp [*]

/-- A field of the header. -/
theorem part_low (f : BitVec 512) (lo n : Nat) (h : lo + n ≤ 32) : fld f lo n = (fld f 0 32 : BitVec 32).extractLsb' lo n := by
  apply BitVec.eq_of_getLsbD_eq; intro i hi
  have : lo + i < 32 := by omega
  simp [fld, hi, this]
/-- A flit of a header and a payload with the CRC in its place is good where its type and its number are. -/
theorem made_good (hdr : BitVec 32) (pay : BitVec 448) (ok : (hdr.extractLsb' 14 4).toNat < 8 ∧ hdr.extractLsb' 0 4 = 0#4 ∧
    (sequenced (hdr.extractLsb' 14 4).toNat = true ∨ hdr.extractLsb' 20 12 = 0)) :
    flitBad ((pay ++ (0#32 ++ hdr) : BitVec 512) ||| ((flitCrc (pay ++ (0#32 ++ hdr) : BitVec 512)).setWidth 512 <<< 32)) = false := by
  have e : (pay ++ (0#32 ++ hdr) : BitVec 512) = ((pay ++ (0#32 ++ hdr) : BitVec 512) ||| ((0#32).setWidth 512 <<< 32)) := by simp
  have hc : ∀ c : BitVec 32, flitCrc ((pay ++ (0#32 ++ hdr) : BitVec 512) ||| (c.setWidth 512 <<< 32)) = flitCrc (pay ++ (0#32 ++ hdr) : BitVec 512) := by
    intro c
    conv => rhs; rw [e]
    simp only [flitCrc, made_low, made_high]
  obtain ⟨h1, h2, h3⟩ := ok
  have h4 : ¬ (hdr.extractLsb' 14 4).toNat ≥ 8 := by omega
  simp only [flitBad, hc, made_mid, flitType, flitSeq, part_low _ 14 4 (by omega), part_low _ 0 4 (by omega), part_low _ 20 12 (by omega), made_low]
  generalize hdr.extractLsb' 14 4 = ty at *
  rcases h3 with h3 | h3 <;> simp [h2, h3, h4]
/-- LinkEvents: a bad flit, a good one in order and one out of order, and an ACK. -/
theorem witness_flits : flitBad 0x3C000 = true ∧ (flitBad (makeFlit 0 0 1 0 0 0) = false ∧ flitSeq (makeFlit 0 0 1 0 0 0) = (State.reset.port .xp).rxSeq) ∧
    (flitBad (makeFlit 5 0 3 0 0 0) = false ∧ flitSeq (makeFlit 5 0 3 0 0 0) = 5) ∧ flitBad (makeFlit 0 0 4 0 0 0) = false := by
  have seq (hdr : BitVec 32) (pay : BitVec 448) (c : BitVec 32) : flitSeq ((pay ++ (0#32 ++ hdr)) ||| (c.setWidth 512 <<< 32)) = hdr.extractLsb' 20 12 := by
    rw [flitSeq, part_low _ 20 12 (by omega), made_low]
  refine ⟨?_, ⟨made_good _ _ (by decide), (seq _ _ _).trans (by decide +kernel)⟩, ⟨made_good _ _ (by decide), (seq _ _ _).trans (by decide)⟩, made_good _ _ (by decide)⟩
  have ty : decide (flitType (0x3C000 : BitVec 512) ≥ 8) = true := by decide +kernel
  unfold flitBad
  rw [ty, Bool.or_true, Bool.true_or, Bool.true_or]
/-- LinkEvents: a port that is ready, the flit before an acknowledgement is due, and an unacknowledged flit that the next number acknowledges. -/
theorem witness_port : portReady State.reset .xp ∧ (State.reset.port .xp).naked = false ∧ ((ported (fun t => { t with sinceAck := 63 })).port .xp).sinceAck = 63 ∧
    (let k := (ported (fun t => { t with unacked := [0], txSeq := 1 })).port .xp; k.unacked = [0] ++ [] ∧ flitSeq 0 ≠ 1 ∧ (0 : BitVec 12) + 1 = k.txSeq) := by
  unfold portReady; and_intros <;> decide +kernel
/-- LinkEvents: each timer at its last tick, the first replay and the one that takes the port down, and a port that is down. -/
theorem witness_timers : (let k := (ported (fun t => { t with sinceAck := 1, lastAck := 65280 })).port .xp; 0 < k.sinceAck ∧ 256 ≤ (65536 - k.lastAck).toNat) ∧
    (let k := (ported (fun t => { t with unacked := [0], progress := 61440 })).port .xp
     k.unacked ≠ [] ∧ 4096 ≤ (65536 - k.progress).toNat ∧ k.replaying = false ∧ k.failed < 3) ∧
    (let k := (ported (fun t => { t with unacked := [0], replaying := true, failed := 2 })).port .xp; k.replaying = true ∧ 2 ≤ k.failed) ∧
    65536 ≤ ((ported id).tnow - ((ported id).port .xp).beaconTx).toNat ∧ ((ported (fun t => { t with up := false })).port .xp).up = false ∧ (ported id).boot = .none := by decide +kernel
/-- An FFAA of package 1 to address 8 of partition 0. -/
def faa : FabOp := ⟨1, 0, 7, 0, none, 0, .ffaa 8 5⟩
/-- FabricEvents: an FFAA that is new, at an address that is mapped, and the same one already done. -/
theorem witness_arrivals : (let s : State := { State.reset with pages := [(0, 3)], parts := State.reset.parts.set 0 { Part.empty with state := .running } }
      s.boot = .none ∧ (s.part 0).state ≠ .none ∧ s.dupOf 1 0 = none ∧ s.dups.length < 4096 ∧ faa.postCut = none ∧ s.hbm.wf = true ∧ s.translate 0 false 0 none = .ok 0 ∧ s.translate 0 true 0 none = .ok 0 ∧
        bit (s.part 0).flags 0 = false ∧ s.hbm.poisoned 0 = false) ∧
    (let d : DupEntry := ⟨1, 0, 7, [(7, .done .ok 3 false)], 0⟩
     let s := { State.reset with dups := [d] }
     s.dupOf 1 0 = some d ∧ seqAfter 7 d.h = false ∧ (d.h - 7).toNat < 64 ∧ d.seen.find? (fun e => e.1 == faa.seq) = some (7, .done .ok 3 false)) := by decide +kernel
/-- FabricEvents: an FFAA that waits for its response, silent for 65,536 and for 2^18 ticks, and one of a peer held for 16,384. -/
theorem witness_answers : let e : Sent := ⟨1, { faa with srcChip := 0 }, 3, none, 0, 0, false⟩
    let q := { cmd 3 (.ffaa cpo) 0 true with xd1 := 8 }
    let s := { queued q with sent := [e], tnow := 0x40000, rings := #v[2, 1, 1], heldOps := [⟨faa, .cow, 0, 0⟩] }
    (s.core 0).cmd 3 = some q ∧ s.sent.find? (fun x => x.chip == 1 && x.op.srcCore == 0 && x.op.seq == 7 && !x.waiting) = some e ∧ s.sentOf ⟨1, 0, 7⟩ = some e ∧
      q.xd1.toNat % 8 = 0 ∧ (s.core 0).sp.wf = true ∧ 65536 ≤ (s.tnow - e.sentAt).toNat ∧ 2 ^ 18 ≤ (s.tnow - e.heardAt).toNat ∧ (s.route 1).isSome = true ∧
      s.heldOps.find? (fun h => h.op.srcChip == 1 && h.op.srcCore == 0 && h.op.seq == 7) = some ⟨faa, .cow, 0, 0⟩ ∧ 16384 ≤ (s.tnow - 0).toNat := by decide +kernel
/-- FabricEvents: a root of a barrier of two packages, a count that does not reach it and one that does. -/
theorem witness_root : let key : Word := 0x200000000
    let s := { State.reset with groups := [(0, [0, 1])] }
    s.boot = .none ∧ { s with boot := .pll }.boot ≠ .none ∧ s.isRoot key = true ∧ (1 : BitVec 21) ≠ s.chip ∧ 1 ∈ s.groupOf key ∧ ({ s with l3 := [(key, 1, 1)] } : State).l3Total key < key.toNat / 2 ^ 32 ∧
      key.toNat / 2 ^ 32 ≤ ({ s with l3 := [(key, 1, 2)] } : State).l3Total key := by decide +kernel
/-- FabricEvents: an entry of the duplicate table that is old and done. -/
theorem witness_duplicate : let d : DupEntry := ⟨1, 0, 7, [(7, .done .ok 3 false)], 0⟩
    let s := { State.reset with dups := [d], tnow := 0x80000 }
    s.dupOf 1 0 = some d ∧ (∀ e ∈ d.seen, e.2 ≠ .held) ∧ s.heldOps = [] ∧ 2 ^ 19 ≤ (s.tnow - d.last).toNat := by decide +kernel

-- Time, power, host ---------------------------------------------------------------------------------------------------

/-- ClockAndPowerEvents: a step at the last cycle of the pause and the first after it, a TNOW that may be loaded, the last source, and a
machine without power with something on its agenda. -/
theorem witness_clock : (0 : Nat) + 1023 < 0 + 1024 ∧ State.reset.boot = .none ∧ ({ Clock.reset with flock := true }).flock = true ∧ State.reset.clock.loaded = false ∧ State.reset.clock.launched = false ∧ (9 : BitVec 8).toNat ≤ 9 ∧
    State.reset.tnow.toNat % 64 = 0 ∧ State.reset.turn = .core 0 ∧ State.reset.power.hot = false ∧ { Power.reset with hot := true }.hot = true ∧
    (let s : State := { State.reset with tnow := 65, power := { Power.reset with window := 0 } }; s.tnow.toNat / 64 ≠ s.power.window) ∧
    (let s : State := { State.reset with power := { Power.reset with on := false }, agenda := [.referenceLoss] }
     s.alive = false ∧ s.orders = [] ∧ s.agenda = [.referenceLoss] ∧ isReset .referenceLoss = false) ∧
    { State.reset with boot := .rom }.boot ≠ .none ∧ ({ Clock.reset with loaded := true } : Clock).loaded = true ∧
    (bootStop .pll ≠ .none ∧ bootStop .pll ≠ .management) := by decide +kernel
/-- A message of 64 bytes: code, bytes 20 on. -/
def msg (code : Nat) (body : List Byte) : HostMsg := ⟨0, bytesOf code 2 ++ List.replicate 18 0 ++ body ++ List.replicate (44 - body.length) 0, []⟩
/-- A running partition 0 of every core with function 0, a handle of 128 bytes at page 0 and its rkey. -/
def hosted (f : Part → Part) : State :=
  { State.reset with
    vfs := [(0, 1)], pages := [(0, 3)], handles := [(0, BitVec.ofNat 256 (128 * 2 ^ 128 + 0x1F01))], rkeys := [⟨77, 0, 0⟩], tnow := 1,
    parts := State.reset.parts.set 0 (f { Part.empty with state := .running, quays := 0xFFFFFFFF }) }
/-- HostRequests: an access that its handle allows to the last byte, one past it, a key of nobody, and an access in progress. -/
theorem witness_host_access : let s := hosted id
    s.boot = .none ∧ s.rkeyHandle 0 77 = some (0, 0) ∧ s.handleOkFor 0 0 96 32 .hostWrite = true ∧ s.handleOkFor 0 0 97 32 .hostRead = false ∧ s.rkeyHandle 0 78 = none ∧
    (let o : HostOp := ⟨0, 0, 1, 0, 0, 0, 32, true, [1, 2], 2, 0, none, none⟩
     hGen (s.handle o.part o.handle) = o.gen ∧ hSpace (s.handle o.part o.handle) = 1 ∧ (hBase (s.handle 0 0) + 32) % 32 + o.len ≤ 32 ∧
       s.translate 32 true 0 none = .ok 32 ∧ s.hbm.wf = true ∧ (s.part 0).flags.getLsbD 0 = false) := by decide +kernel
/-- HostRequests: a message of each code that is processed now, one of a reserved code, with a reserved byte, and of no partition. -/
theorem witness_host_messages : (∀ code ∈ List.range 13, let m := msg code []; let s := hosted id
      s.boot = .none ∧ m.bytes.length = 64 ∧ fieldAt m.bytes 0 2 = code ∧ zeros m.bytes 2 2 = true ∧ s.vfPart m.vf = some 0 ∧ s.hostWait = [] ∧ s.hostOps = []) ∧
    (let s : State := { hosted id with hostOps := [⟨0, 0, 1, 0, 0, 0, 0, true, [1], 1, 0, none, none⟩], nextHost := 1 }
     ∃ h ∈ s.hostOps, h.vf = (msg 1 []).vf ∧ h.qp = 1 ∧ h.write = true ∧ h.no < s.nextHost) ∧
    (let s : State := { hosted id with hostOps := [⟨0, 0, 1, 0, 0, 0, 0, false, [], 98304, 0, none, some (msg 1 [])⟩], nextHost := 1 }
     ∃ h ∈ s.hostOps, h.vf = (msg 1 []).vf ∧ h.qp = 1 ∧ h.load.isSome = true ∧ h.no < s.nextHost) ∧
    (∀ h ∈ [(⟨0, 0, 2, 0, 0, 0, 0, true, [1], 1, 0, none, none⟩ : HostOp), ⟨1, 0, 1, 0, 0, 0, 0, false, [], 1, 0, none, none⟩],
      h.qp = 1 → h.write = false ∧ h.load = none) ∧
    12 < fieldAt (msg 13 []).bytes 0 2 ∧ zeros [1, 0, 1, 0] 2 2 = false ∧ State.reset.vfPart 0 = none ∧ ((hosted id).part 0).state ≠ .stopped := by decide +kernel
/-- HostRequests: a rectangle of one core, free or busy, a semaphore, an entry of each table. -/
theorem witness_host_cores : let s := hosted id; let m := msg 1 []
    (rectCores m = [0] ∧ s.ownsCore 0 0 = true ∧ fieldAt m.bytes 22 1 ≤ 63 ∧ (s.core 0).swreq = false ∧ (s.core 0).loading = none ∧ (s.part 0).measure = none) ∧
    (let s := one (fun k => { k with swreq := true }); (s.core 0).swreq = true) ∧
    (let m := msg 1 ([0, 0, 0, 0, 1] ++ List.replicate 7 0 ++ bytesOf 0x2000000000000000 8)
     fieldAt m.bytes 24 1 = 1 ∧ zeros m.bytes 28 4 = true ∧ (BitVec.ofNat 64 (fieldAt m.bytes 32 8) : Word).toNat / 2 ^ 60 = 2) ∧
    (State.reset.ownsCore 0 0 = false ∧ fieldAt (msg 11 [0xFF, 7, 63]).bytes 20 2 < 2048 ∧ fieldAt (msg 11 [0xFF, 7, 63]).bytes 22 1 < 64) := by decide +kernel
/-- HostRequests: a plane image that fits its handle. -/
theorem witness_plane_handle : ({ hosted id with handles := [(0, BitVec.ofNat 256 (98304 * 2 ^ 128 + 0x1F01))] } : State).handleOkFor 0 0 0 98304 .src = true ∧
    hSpace (({ hosted id with handles := [(0, BitVec.ofNat 256 (98304 * 2 ^ 128 + 0x1F01))] } : State).handle 0 0) = 1 ∧
    hSpace (({ hosted id with handles := [(0, BitVec.ofNat 256 (98304 * 2 ^ 128 + 0x1F04))] } : State).handle 0 0) ≠ 1 := by
  decide +kernel
/-- HostRequests: an entry of the handle table that may be bound, of another owner, that LAUNCH fixed, and that is over the snapshot set;
and a capability entry. -/
theorem witness_host_tables : let e : BitVec 256 := BitVec.ofNat 256 (64 * 2 ^ 128 + 0x1F01)
    handleFormOk e = true ∧ hOwner e = 0 ∧ (hosted id).handleInside 0 e = true ∧ hOwner (e ||| 0x10000) ≠ 0 ∧ fixedBits e ≠ fixedBits ((hosted id).handle 0 0) ∧
    SMap.wf 0 (hosted id).handles = true ∧ ((hosted id).part 0).overSet e = false ∧
    (let p := (faulted none).part 0
     let e6 : BitVec 256 := BitVec.ofNat 256 (64 * 2 ^ 128 + 0x10000 * 2 ^ 64 + 0x1F06)
     handleFormOk e6 = true ∧ p.overSet e6 = true) ∧
    capFormOk 0x00000000000000400000000000000007 = true ∧ (0x00000000000000400000000000000007 : BitVec 128).toNat / 2 ^ 16 % 2 ^ 5 = (0 : BitVec 5).toNat := by decide +kernel
/-- HostRequests: a ring of two cores of one package, of the partition and of the four basins. -/
theorem witness_host_rings : (let body := bytesOf 0 4 ++ bytesOf 0x200000 4
      body.length = 4 * (1 + 1) ∧ SMap.wf [] (hosted id).ringTables = true) ∧
    State.reset.basinRing (ringEntries (bytesOf 0 4 ++ bytesOf (32 * 2 ^ 21) 4 ++ bytesOf (1024 * 2 ^ 21) 4 ++ bytesOf (1056 * 2 ^ 21) 4)) = true ∧
    ((hosted (fun p => { p with flags := 2 })).part 0).flags.getLsbD 1 = true := by decide +kernel
/-- A partition with 64 pages for a snapshot buffer. -/
def snapped (f : Part → Part) : State := { hosted f with pages := (List.range 64).map (fun i => (i, BitVec.ofNat 64 (65536 * i + 3))) }
/-- HostRequests: a snapshot set that is taken, one whose buffer is too small, a cut that is going on, another target. -/
theorem witness_host_set : let rs : List SnapRange := [⟨true, 0, 0, 2048⟩]
    let body := [1] ++ List.replicate 15 0 ++ bytesOf 2048 8
    (List.range 1).map (rangeAt body) = rs ∧ rangeFormOk body 0 = true ∧ (snapped id).setRefused 0 rs 0 4194304 = false ∧ (snapped id).setRefused 0 rs 0 65536 = true ∧
      ((snapped (fun p => { p with cut := some (cut 0) })).part 0).cut ≠ none ∧ (snapped id).vfPart 1 ≠ some 0 := by decide +kernel

-- Storage and status --------------------------------------------------------------------------------------------------

/-- HostRequests: a manifest whose fields are those of the set of a stopped partition; whether its signatures verify and its segment opens is
for the standards' functions to say. -/
def manifest : List Byte :=
  bytesOf 0x4B445844 4 ++ bytesOf 1 4 ++ bytesOf 0 8 ++ bytesOf 7 8 ++ bytesOf 5 8 ++ bytesOf 9 48 ++ List.replicate 56 0 ++ bytesOf 1 8 ++ bytesOf 2048 8 ++
    List.replicate 40 0 ++ (bytesOf 0 4 ++ bytesOf 2048 4 ++ bytesOf 0 40)
/-- The set of that partition. -/
def held : Part → Part := fun p => { p with state := .stopped, snapset := some ⟨[⟨true, 0, 0, 2048⟩], 0, 4194304, 0, 0, 0⟩, measure := some 9 }
/-- HostRequests: RESTORE of a message with no image, and of an image with the right fields and counter; READ_STATUS with a maximum of 65,536. -/
theorem witness_restore : (let m := msg 10 []
      fieldAt m.fetched 0 4 ≠ 0x4B445844 ∧ zeros m.bytes 28 4 = true ∧ zeros m.bytes 40 24 = true ∧ fieldAt m.bytes 20 1 ≤ 191 ∧
        ((hosted held).part 0).state = .stopped ∧ (hosted held).vfPart (BitVec.ofNat 8 (fieldAt m.bytes 20 1)) = some 0) ∧
    (let f := manifest; let s := { hosted held with harbour := { State.reset.harbour with tenants := [⟨0, some [], 3, 5⟩] } }
     fieldAt f 0 4 = 0x4B445844 ∧ fieldAt f 4 2 = 1 ∧ sameLayout f (s.part 0).ranges = true ∧ s.setMapped 0 (s.part 0).ranges = true ∧
       (f.drop 32).take 48 = bytesOf 9 48 ∧ (s.tenantOf 0).secret = some [] ∧ max (s.tenantOf 0).committed.toNat (s.tenantOf 0).insession.toNat ≤ fieldAt f 24 8 ∧
       (s.core 0).hold.wf = true ∧ (s.part 0).marksLeft = [] ∧
       ((hosted (fun p => { held p with cut := some ⟨1, 0, .l1, 0, [], [0], [1], [], [], [], 7⟩ })).part 0).marksLeft ≠ []) ∧
    (fieldAt (msg 12 [0, 0, 0, 0, 0, 0, 1]).bytes 24 4 ≤ 65536 ∧ ((hosted id).part 0).state = .running) := by decide +kernel

-- Requests ------------------------------------------------------------------------------------------------------------

/-- An operator request for this part: code, sequence number 1, fields, no signature. -/
def request (code : Nat) (fields : List Byte) : ReqMsg :=
  ⟨0, (bytesOf code 2 ++ List.replicate 62 0) ++ (packageIdentity ++ (bytesOf 1 8 ++ (fields ++ List.replicate 96 0)))⟩
/-- A service request: its header and what follows it. -/
def service (code : Nat) (body : List Byte) : ReqMsg := ⟨0, bytesOf code 2 ++ List.replicate 62 0 ++ body⟩
/-- The length of a number in bytes. -/
theorem bytesOf_len (v n : Nat) : (bytesOf v n).length = n := by induction n generalizing v <;> simp [bytesOf, *]
/-- The identity has its 48 bytes. -/
theorem identity_len : packageIdentity.length = 48 := bytesOf_len _ _
/-- The bytes of a request from its fields on. -/
theorem request_drop (code : Nat) (fields : List Byte) (o : Nat) :
    (request code fields).bytes.drop (120 + o) = (fields ++ List.replicate 96 0).drop o := by
  have e : (request code fields).bytes = ((bytesOf code 2 ++ List.replicate 62 0) ++ (packageIdentity ++ bytesOf 1 8)) ++ (fields ++ List.replicate 96 0) := by
    simp [request]
  have l : ((bytesOf code 2 ++ List.replicate 62 (0 : Byte)) ++ (packageIdentity ++ bytesOf 1 8)).length = 120 := by simp [bytesOf, identity_len]
  rw [e, ← List.drop_drop, ← l, List.drop_left]
/-- A field of a request. -/
theorem request_field (code : Nat) (fields : List Byte) (o n : Nat) :
    fieldAt (request code fields).bytes (120 + o) n = fieldAt (fields ++ List.replicate 96 0) o n := by simp only [fieldAt, request_drop]
/-- A run of zeros of a request. -/
theorem request_zeros (code : Nat) (fields : List Byte) (o n : Nat) :
    zeros (request code fields).bytes (120 + o) n = zeros (fields ++ List.replicate 96 0) o n := by simp only [zeros, request_drop]
/-- OperatorRequests: an operator request whose signature verifies, whatever its fields; that a signature verifies is for the standard's function
to say. -/
theorem witness_operator (s : State) (code : Nat) (fields : List Byte) (boot : s.boot = .none) (free : s.harbour.busy = none) (first : s.harbour.seq = 0) (small : code < 65536)
    (ok : Config.ecdsaOk s.harbour.operator ((request code fields).bytes.take (120 + fields.length)) ((request code fields).bytes.drop (120 + fields.length)) = true) :
    operatorAsks s (request code fields) code fields.length := by
  refine ⟨⟨boot, free, ?_, ?_, ?_, ?_⟩, ok, ?_, ?_⟩
  · simp only [request, List.length_append, List.length_replicate, bytesOf_len, identity_len]; omega
  · have e : ((request code fields).bytes.drop 0).take 2 = bytesOf code 2 := rfl
    rw [fieldAt, e]; simp only [bytesOf, leNat, BitVec.toNat_ofNat]; omega
  · rfl
  · rfl
  · have e : (request code fields).bytes.drop 64 = packageIdentity ++ (bytesOf 1 8 ++ (fields ++ List.replicate 96 0)) := rfl
    rw [e, ← identity_len, List.take_left]
  · rw [first, fieldAt]
    have e : (request code fields).bytes = ((bytesOf code 2 ++ List.replicate 62 0) ++ packageIdentity) ++ (bytesOf 1 8 ++ (fields ++ List.replicate 96 0)) := by simp [request]
    have l : ((bytesOf code 2 ++ List.replicate 62 (0 : Byte)) ++ packageIdentity).length = 112 := by simp [bytesOf, identity_len]
    rw [e, ← l, List.drop_left]
    simp [bytesOf, leNat]
/-- The fields of CREATE before its frames: partition 0 of quay 0, no function, 704 frames. -/
def createHead : List Byte :=
  bytesOf 0 4 ++ bytesOf 1 4 ++ List.replicate 136 0 ++ bytesOf 0 4 ++ List.replicate 128 0 ++ bytesOf 704 4 ++ bytesOf 0 4
/-- The fields of CREATE with frames 0 to 703. -/
def createFields : List Byte := createHead ++ (List.range' 0 704).flatMap (fun i => bytesOf i 4)
/-- An element of a list of numbers of four bytes. -/
theorem element (z : List Byte) (n a i : Nat) (h : i < n) : (((List.range' a n).flatMap (fun i => bytesOf i 4) ++ z).drop (4 * i)).take 4 = bytesOf (a + i) 4 := by
  induction n generalizing a i with
  | zero => omega
  | succ n ih => cases i with
    | zero => rfl
    | succ i =>
      rw [show a + (i + 1) = a + 1 + i by omega, ← ih (a + 1) i (by omega), show 4 * (i + 1) = 4 * i + 4 by omega]
      rfl
/-- OperatorRequests: CREATE of those fields passes every check after reset; without its quay it does not. -/
theorem witness_create : let m := request 0x101 createFields; let s := State.reset
    createFields.length = 284 + 4 * 704 ∧ fieldAt m.bytes 120 1 = (0 : BitVec 5).toNat ∧ fieldAt m.bytes 396 4 = 704 ∧ fieldAt m.bytes 121 1 < 4 ∧
    zeros m.bytes 122 2 = true ∧ fieldAt m.bytes 264 1 = 0 ∧ zeros m.bytes 265 3 = true ∧ zeros m.bytes (268 + 2 * 0) (128 - 2 * 0) = true ∧ zeros m.bytes 400 4 = true ∧
    (∀ c, (s.core c).queue = [] ∧ (s.core c).sweep = none) ∧ s.boot = .none ∧ s.harbour.seq = 0 ∧ fieldAt m.bytes 124 4 = 1 ∧ (s.part 0).state = .none ∧ (1 : BitVec 32) &&& ~~~ s.quays = 0 ∧
    (∀ r, (s.part r).state = .none) ∧ fieldAt m.bytes 128 24 = 0 ∧
    (let fs := (List.range 704).map (fun i => fieldAt m.bytes (404 + 4 * i) 4); (∀ f ∈ fs, f < 6291456 ∧ SMap.get 0 s.frames f = 0) ∧ fs.Nodup) ∧
    704 * ((List.range 32).filter (fun i => (1 : BitVec 32).getLsbD i)).length ≤ 704 ∧ ¬ (1 : BitVec 32) &&& ~~~ ({ s with quays := 0 } : State).quays = 0 := by
  have f (o n : Nat) := request_field 0x101 createFields o n
  have z (o n : Nat) := request_zeros 0x101 createFields o n
  have fs : (List.range 704).map (fun i => fieldAt (request 0x101 createFields).bytes (404 + 4 * i) 4) = List.range 704 := by
    refine (List.map_congr_left fun i hi => ?_).trans (List.map_id _)
    have e := f (284 + 4 * i) 4
    have l : createHead.length = 284 := by decide +kernel
    rw [show 120 + (284 + 4 * i) = 404 + 4 * i by omega] at e
    rw [e, fieldAt, createFields, List.append_assoc, ← List.drop_drop, ← l, List.drop_left,
      element _ 704 0 i (List.mem_range.mp hi)]
    simp only [bytesOf, leNat, BitVec.toNat_ofNat, id_eq]; have := List.mem_range.mp hi; omega
  have core : ∀ c, (State.reset.core c).queue = [] ∧ (State.reset.core c).sweep = none := by intro c; simp [State.core, State.reset, Core.reset]
  refine ⟨?_, (f 0 1).trans ?_, (f 276 4).trans ?_, ?_, (z 2 2).trans ?_, (f 144 1).trans ?_, (z 145 3).trans ?_, (z 148 128).trans ?_, (z 280 4).trans ?_,
    core, ?_, ?_, (f 4 4).trans ?_, ?_, ?_, ?_, (f 8 24).trans ?_, ?_, ?_, ?_⟩
  case refine_4 => rw [f 1 1]; decide +kernel
  case refine_17 =>
    simp only [fs]; exact ⟨fun x h => ⟨by have := List.mem_range.mp h; omega, rfl⟩, List.nodup_range⟩
  all_goals decide +kernel
/-- OperatorRequests: a core of quay 0 with engine work of a previous owner, for which CREATE waits; a sweep of a partition's core, for which
DESTROY waits, and commands that hold nothing up; and a harbourmaster that waits. -/
theorem witness_waiting : (1 : BitVec 32).getLsbD (coreQuay 0) = true ∧ ((queued (cmd 0 (.cpab cpo) 0 false)).core 0).queue ≠ [] ∧
    (let s := { swept 0 with parts := State.reset.parts.set 0 { Part.empty with state := .running, quays := 1 } }; 0 ∈ s.coresOf 0 ∧ (s.core 0).sweep ≠ none) ∧
    ((cmd 0 (.cpab cpo) 0 false).noReturn = false ∧ (queued (cmd 0 (.cpab cpo) 0 false)).inFlight 0 (cmd 0 (.cpab cpo) 0 false) = false) ∧
    { State.reset.harbour with busy := some ⟨0, []⟩ }.busy ≠ none ∧ State.reset.harbour.busy = none := by decide +kernel
/-- The fields of LAUNCH: partition 0, a catalogue of one digest. -/
def launchFields : List Byte := bytesOf 0 4 ++ bytesOf 1 4 ++ bytesOf 5 48
/-- OperatorRequests: LAUNCH with the clock locked and not, of an OPEN partition and of another; STOP and DESTROY of a running one, RESUME of a
stopped one that restores or does not; and what each refuses. -/
theorem witness_partition_states :
    (let m := request 0x102 launchFields
     launchFields.length = 8 + 48 * 1 ∧ fieldAt m.bytes 120 1 = (0 : BitVec 5).toNat ∧ fieldAt m.bytes 124 4 = 1 ∧ fieldAt m.bytes 121 1 ≤ 1 ∧ zeros m.bytes 122 2 = true) ∧
    (∀ code, let m := request code (bytesOf 0 8); (bytesOf 0 8).length = 8 ∧ fieldAt m.bytes 120 1 = (0 : BitVec 5).toNat ∧ zeros m.bytes 121 7 = true) ∧
    (State.reset.clock.flock = false ∧ ({ State.reset with clock := { Clock.reset with flock := true } } : State).clock.flock = true) ∧
    (((hosted (fun p => { p with state := .open_ })).part 0).state = .open_ ∧ ((hosted id).part 0).state = .running ∧ (State.reset.part 0).state = .none) ∧
    (let p := (hosted (fun p => { p with state := .stopped })).part 0; p.state = .stopped ∧ p.restoring = false) ∧
    (let p := (hosted (fun p => { p with state := .stopped, restoring := true })).part 0; p.state = .stopped ∧ p.restoring = true) ∧
    ((hosted id).hbm.wf = true ∧ SMap.wf 0 (hosted id).frames = true ∧ SMap.wf 0 (hosted id).vfs = true ∧ (hosted id).boot = .none ∧ (hosted id).harbour.seq = 0) := by
  have f (o n : Nat) := request_field 0x102 launchFields o n
  have z (o n : Nat) := request_zeros 0x102 launchFields o n
  refine ⟨⟨?_, (f 0 1).trans ?_, (f 4 4).trans ?_, ?_, (z 2 2).trans ?_⟩, fun code => ⟨?_, (request_field _ _ 0 1).trans ?_, (request_zeros _ _ 1 7).trans ?_⟩, ?_⟩
  case refine_4 => rw [f 1 1]; decide +kernel
  all_goals decide +kernel
/-- OperatorRequests: INJECT of a stack, of a core, of a port and of an interface, with a seed of zero; the target owned or not; every partition
with TEST or not. -/
theorem witness_inject : (∀ kind ∈ List.range 4, let fs := bytesOf 0 1 ++ bytesOf kind 1 ++ bytesOf 0 1 ++ bytesOf 5 1 ++ bytesOf 0 20
      let m := request 0x106 fs
      fs.length = 24 ∧ fieldAt m.bytes 120 1 = (0 : BitVec 5).toNat ∧ fieldAt m.bytes 121 1 = kind ∧ injectFormOk m = true ∧ fieldAt m.bytes 136 8 = 0 ∧
        fieldAt m.bytes 127 1 < 16) ∧
    (let s := hosted (fun p => { p with flags := 1 })
     SMap.wf ⟨0, 0, 0⟩ s.inj = true ∧ (s.part 0).state ≠ .none ∧ (s.part 0).flags.getLsbD 0 = true ∧ s.ownsCore 0 0 = true ∧
       ∀ r, (s.part r).state = .none ∨ (s.part r).flags.getLsbD 0 = true) ∧
    (let s := hosted (fun p => { p with flags := 1, quays := 0 }); s.ownsCore 0 0 = false ∧ (s.part 0).flags.getLsbD 0 = true) ∧
    ((hosted id).part 0).flags.getLsbD 0 = false ∧
    (let s := hosted (fun p => { p with flags := 1 })
     let s2 : State := { s with parts := s.parts.set 1 { Part.empty with state := .running } }
     (s2.part 0).flags.getLsbD 0 = true ∧ ¬ ∀ r, (s2.part r).state = .none ∨ (s2.part r).flags.getLsbD 0 = true) := by
  refine ⟨fun kind hk => ?_, ?_⟩
  · have f (o n : Nat) := request_field 0x106 (bytesOf 0 1 ++ bytesOf kind 1 ++ bytesOf 0 1 ++ bytesOf 5 1 ++ bytesOf 0 20) o n
    have z (o n : Nat) := request_zeros 0x106 (bytesOf 0 1 ++ bytesOf kind 1 ++ bytesOf 0 1 ++ bytesOf 5 1 ++ bytesOf 0 20) o n
    have f0 := f 0 1; have f1 := f 1 1; have f2 := f 2 1; have f3 := f 3 1; have f4 := f 4 2; have f6 := f 6 1; have f7 := f 7 1; have f16 := f 16 8; have z12 := z 12 4
    clear f z
    simp only [injectFormOk, reqNum, opField, Nat.reduceAdd] at *
    simp only [f0, f1, f2, f3, f4, f6, f7, f16, z12]
    clear f0 f1 f2 f3 f4 f6 f7 f16 z12
    revert kind; decide +kernel
  · decide +kernel
/-- OperatorRequests: requests with a reserved code, a non-zero reserved byte, and the sequence number accepted before. -/
theorem witness_request_checks : fieldAt (service 0x200 []).bytes 0 2 = 0x200 ∧ (0x200 ∉ [0x101, 0x102, 0x103, 0x104, 0x105, 0x106, 0x110, 0x111, 0x112, 0x113]) ∧
    (service 0x200 []).bytes.length = 64 ∧ zeros ([1, 1, 1, 0] ++ List.replicate 60 0) 2 2 = false ∧ fieldAt (service 0x103 (List.replicate 56 0)).bytes 112 8 = 0 := by decide +kernel
/-- A sequence number no higher than the last is not authentic, whatever the signature. -/
theorem witness_request_old (n : Nat) : State.reset.operatorOk (service 0x103 (List.replicate 56 0)) n = false := by
  have : decide (reqNum (service 0x103 (List.replicate 56 0)) 112 8 > State.reset.harbour.seq.toNat) = false := by decide +kernel
  unfold State.operatorOk
  rw [this, Bool.and_false]
/-- OperatorRequests: ATTEST, RELEASE, COMMIT and CAPS of a running partition; a report that is young and one that is old; a tenant. -/
theorem witness_services : (let s := hosted id
      s.boot = .none ∧ asks s (service 0x110 (List.replicate 56 0)) 0x110 120 ∧ fieldAt (service 0x110 (List.replicate 56 0)).bytes 64 1 = 0 ∧
      asks s (service 0x111 (List.replicate 320 0)) 0x111 384 ∧ asks s (service 0x112 (List.replicate 112 0)) 0x112 176 ∧ asks s (service 0x113 []) 0x113 64 ∧
      (s.part 0).state ≠ .none ∧ (s.part 0).tenant = 0 ∧ (State.reset.part 0).state = .none) ∧
    (let nonce := ((service 0x111 (List.replicate 320 0)).bytes.drop 72).take 48
     let r : Report := ⟨nonce, 0, 0, 0⟩
     let s : State := { hosted id with harbour := { State.reset.harbour with reports := [r], tenants := [⟨0, none, 0, 0⟩] } }
     s.harbour.reports.find? (fun r => r.nonce == nonce && r.part == 0) = some r ∧ (s.tnow - r.made).toNat ≤ 2 ^ 32 ∧
       2 ^ 32 < (({ s with tnow := 0x100000001 } : State).tnow - r.made).toNat ∧ s.harbour.tenants.find? (fun t => t.id == 0) = some ⟨0, none, 0, 0⟩ ∧
       (hosted id).harbour.reports = []) := by
  unfold asks; decide +kernel

-- Steps, decoding, guards ---------------------------------------------------------------------------------------------

/-- Cells of a list of bytes from an address on. -/
def cellsAt (a : Nat) : List Byte → Memory
  | [] => []
  | b :: rest => if b = 0 then cellsAt (a + 1) rest else (a, b) :: cellsAt (a + 1) rest
/-- A machine whose core 0 runs at header 0 of a plane with these words and a code region of 16 bytes. -/
def running (ws : List (BitVec 32)) (f : Core → Core) : State :=
  one (fun k => f ({ k with run := .running }.modPlane false
    (fun p => { p with bytes := cellsAt 0 (ws.flatMap (fun w : BitVec 32 => bytesOf w.toNat 4)) ++ [(0x15008, 16)], marks := [0] })))
/-- The settled core. -/
def settled (s : State) : Core := (s.settle 0).core 0
/-- The premises of StepRunsDecodedBundle for a core that fetches. -/
def fetches (s : State) : Prop :=
  s.orders = [] ∧ s.agenda = [] ∧ s.alive = true ∧ s.turn = .core 0 ∧ (s.core 0).entering = none ∧ (s.core 0).landing = none ∧ s.coreEvent 0 = none ∧
    s.stolen 0 = false ∧ (s.core 0).preemptor = none ∧ (settled s).entering = none ∧
    (settled s).run = .running ∧ (s.settle 0).cowLanding 0 = none ∧ (settled s).rowWait = none ∧ (settled s).freeze = none ∧ (settled s).bubble = false ∧
    (settled s).flipsHere = false
/-- What stands at a program counter of core 0: a whole bundle that is decoded so. -/
def bundleAt (s : State) (off : Nat) (b : Bundle) : Prop :=
  fetches s ∧ (settled s).pc.toNat = off ∧ (settled s).active.marked off = true ∧ off + 4 * bundleWords ((settled s).active.word off) ≤ (settled s).active.codelen ∧
    (decodeBytes ((settled s).active.bytes.readRun off 32)).map (fun r => r.1) = some b
/-- StepRunsDecodedBundle: a header-only bundle, one of one slot that is an instruction or not, one of two slots, one of three, and two slots that name one
destination. -/
theorem witness_fetch : bundleAt (running [0] id) 0 ⟨false, 1, []⟩ ∧ bundleAt (running [0x80000000, 0] id) 0 ⟨false, 2, [(.sc, some (.nop (at_ .sc)))]⟩ ∧
    bundleAt (running [0x80000000, 0xFC000000] id) 0 ⟨false, 2, [(.sc, none)]⟩ ∧
    (let b : Bundle := ⟨false, 3, [(.sc, some (.tagset (at_ .sc) 2 2 3)), (.ad, some (.movi (at_ .ad) 10 0))]⟩
     bundleAt (running [0xC0000000, 0x6C042003, 0x38140000] id) 0 b ∧ b.conflict 0 = false) ∧
    (let b : Bundle := ⟨false, 4, [(.sc, some (.tagset (at_ .sc) 2 2 3)), (.ad, some (.movi (at_ .ad) 10 0)), (.va, some (.vadd ⟨at_ .va, .full, .f32, 1, 2, 3, 0⟩))]⟩
     bundleAt (running [0xE0000600, 0x6C042003, 0x38140000, 0x04202218] id) 0 b ∧ b.conflict 0 = false ∧ b.slots ≠ []) ∧
    (let b : Bundle := ⟨false, 3, [(.sc, some (.alu (at_ .sc) .add 5 6 7)), (.ad, some (.addi (at_ .ad) 5 8 64))]⟩
     bundleAt (running [0xC0000000, 0x040A6380, 0x100A8040] id) 0 b ∧ b.conflict 0 = true ∧ (settled (running [0] id)).first = none ∧
       (settled (running [0] (fun k => { k with first := some ⟨0, 0, none⟩ }))).first = some ⟨0, 0, none⟩) := by
  unfold bundleAt fetches settled; and_intros <;> decide +kernel
/-- StepRunsDecodedBundle: an offset that is no header, a bundle past the code, words that are no bundle, an event of the core that is due. -/
theorem witness_no_fetch : (let s := running [0] (fun k => { k with pc := 4 }); fetches s ∧ (settled s).active.marked 4 = false) ∧
    (let s := running [0, 0, 0, 0x80000000, 0] (fun k => { k with pc := 12 }.modPlane false (fun p => { p with marks := [0, 4, 8, 12] }))
     fetches s ∧ (settled s).active.marked 12 = true ∧ (settled s).active.codelen < 12 + 4 * bundleWords ((settled s).active.word 12)) ∧
    (let s := running [0x00000001] id
     fetches s ∧ (settled s).active.marked 0 = true ∧ decodeBytes ((settled s).active.bytes.readRun 0 32) = none) ∧
    (running [0] (fun k => { k with pend := [⟨.x 3, 7, false, 0, false, 0⟩] })).coreEvent 0 = some (.resultLanding 0 0) ∧
    (let s := frozen (.sem 63 1) (fun k => { k with csr := { k.csr with latemax := 100 } })
     s.turn = .core 0 ∧ (s.core 0).entering = none ∧ s.coreEvent 0 = some (.latemaxExpiry 0)) := by
  unfold fetches settled; decide +kernel
/-- StepRunsDecodedBundle: the turn of a trimmer thread whose word is TMEND, with no command left. -/
theorem witness_sweep_turn : let w := { sweep with prog := [0xA0000000, 0] }
    let s : State := { one (fun k => { k with sweep := some w }) with turn := .trim 0 }
    s.orders = [] ∧ s.agenda = [] ∧ s.alive = true ∧ s.turn = .trim 0 ∧ (s.core 0).sweep = some w ∧ w.checked = true ∧ w.delay = 0 ∧ w.stop = none ∧ w.thread.live = true ∧
      (s.core 0).cmd w.cmd = none ∧ decodeTrim (w.prog.getD w.thread.ip 0) = some .tmend := by decide +kernel
/-- EmptyAndGuardedBundles: a poisoned guard, a false one, and AR with no level and with a level without a domain. -/
theorem witness_guards : (Instr.nop ⟨.sc, 1, false⟩).ctl? = some ⟨.sc, 1, false⟩ ∧ State.reset.me.bundle = none ∧
    (one (fun k => { k with regs := { k.regs with pp := 2 } })).me.poisonP 1 = true ∧ (State.reset.me.poisonP 1 = false ∧ State.reset.me.readP 1 = false) ∧
    (State.reset.me.poisonP 0 = false ∧ State.reset.me.readP 0 = true ∧ (Instr.nop (arr .sc)).ctl? = some (arr .sc) ∧ State.reset.me.csr.ardom = 0) ∧
    (let s := one (fun k => { k with csr := { k.csr with ardom := 3 } })
     s.me.csr.ardom.toNat = (2 : Fin 3).val + 1 ∧ (s.me.csr.dom[(2 : Fin 3)]).getLsbD 31 = false) := by decide +kernel
/-- SlotRoundTrip, TrimmerRoundTrip: instructions with a lend and with a literal, and a trimmer instruction. -/
theorem witness_round_trip : (let i := Instr.mtbl ⟨at_ .mx, 0, 5, 0⟩ true; i.wf = true ∧ i.slot? = some .mx ∧ (encodeSlot i).isSome = true) ∧
    (let i := Instr.movl (at_ .sc) 5 0x03E977D2B4F0; i.wf = true ∧ i.slot? = some .sc ∧ (encodeSlot i).isSome = true) ∧
    ((Instr.tmrnd true false 0 2).wf = true ∧ (encodeTrim (.tmrnd true false 0 2)).isSome = true) := by decide +kernel
/-- StepKeepsMemories: the forms hold after reset. -/
theorem witness_kept : State.reset.keptForm ∧ State.reset.memWf ∧ State.reset.mapsWf ∧ State.reset.tablesForm := by
  have (c : CoreId) : State.reset.core c = Core.reset := by simp [State.core, State.reset]
  unfold State.keptForm State.memWf State.mapsWf State.tablesForm
  simp only [this]
  and_intros
  any_goals intro c
  any_goals and_intros
  all_goals first | decide +kernel | rfl | exact fun u h => nomatch h
/-- StoredBytes: the memories of a core after reset are in canonical form and no granule has an error pending. -/
theorem witness_stores : State.reset.me.sp.wf = true ∧ State.reset.me.hold.wf = true ∧ (SMap.get 0 State.reset.me.holdErr 0).toNat = 0 := by decide +kernel
/-- ClockAndPowerEvents: a step at the last cycle in which another is too early, and the first in which it is not. -/
theorem witness_discipline : (let k := { Clock.reset with lastStep := some 0, cycle := 1023 }; k.lastStep = some 0 ∧ k.cycle < 0 + 1024 ∧ { k with loaded := true }.loaded = true) ∧
    (let k := { Clock.reset with lastStep := some 0, cycle := 1024 }; ¬ k.cycle < 0 + 1024) ∧ Clock.reset.lastStep = none := by decide +kernel

-- Results the spec works out ------------------------------------------------------------------------------------------

/-- Vector register of core 0 after an instruction and the landing of its results. -/
def vAfter (i : Instr) (s : State) (n : Reg) : BitVec 1024 := (((after i s).core 0).landAll).readV n
/-- Core 0 with the first eight bytes of V2 and V3 set. -/
def vs (a b : Word) : State := one (fun k => { k with regs := (k.regs.setV 2 0 a false).setV 3 0 b false })
/-- R102, R103: a sum and a difference wrap, a 32-bit sum is sign-extended, and a product by two is the two high halves. -/
theorem test_alu : let s := one (xs [(6, 0xFFFFFFFFFFFFFFFF), (7, 2), (8, 0x7FFFFFFF)])
    (xAfter (.alu (at_ .sc) .add 5 6 7) s 5).val = 1 ∧ (xAfter (.alu (at_ .sc) .addW 5 8 7) s 5).val = 0xFFFFFFFF80000001 ∧
    (xAfter (.muldiv (at_ .sc) .mulh 5 6 7) s 5).val = 0xFFFFFFFFFFFFFFFF ∧ (xAfter (.muldiv (at_ .sc) .mulhn 5 6 7) s 5).val = 1 := by decide +kernel
/-- R118: TAGSET of 3 into a pointer of zeros, chapter 4's counted loop. -/
theorem test_tagset : (xAfter (.tagset (at_ .sc) 2 2 3) State.reset 2).val = 0x3000000000000000 := by decide +kernel
/-- Table 6 of chapter 5: three lgm lanes of VMUL. -/
theorem test_lgm_lanes :
    (vAfter (.vmul ⟨at_ .va, .full, .lgm, 1, 2, 3, 0⟩) (vs 0x00007F004257 0x80007F004400) 1).setWidth 48 = (0x80007FFF4657 : BitVec 48) := by decide +kernel
/-- R59, R60: LG6 elements packed and unpacked, chapter 2's example. -/
theorem test_pack6 : (vAfter (.vpk6 ⟨at_ .va, .full, .i8, 1, 2, 0, 0⟩) (vs 0x1520013F 0) 1).setWidth 32 = (0x0056007F : BitVec 32) ∧
    (vAfter (.vupk6 ⟨at_ .va, .full, .i8, 1, 2, 0, 0⟩) (vs 0x56007F 0) 1).setWidth 32 = (0x1520013F : BitVec 32) := by decide +kernel
end Sys2Proof.Tests
end

section
/-! Registers and their granules: what a write of one leaves in it and in the others (O41). -/
namespace Sys2Proof.Machine
open Sys2Proof

@[simp] theorem getLsbD_putBit {n : Nat} (v : BitVec n) (i j : Nat) (b : Bool) :
    (putBit v i b).getLsbD j = if j = i ∧ j < n then b else v.getLsbD j := by
  unfold putBit
  rcases Nat.lt_or_ge j n with hj | hj
  · rcases Nat.lt_trichotomy j i with h | rfl | h
    · cases b <;> simp [hj, h, h.ne]
    · cases b <;> simp [hj]
    · have after : ¬ j < i := by omega
      have : j - i ≠ 0 := by omega
      cases b <;> simp [hj, h.ne', after, this]
  · have : ¬ j < n := by omega
    cases b <;> simp [hj, this, BitVec.getLsbD_of_ge]

/-- Granule `h` of a vector value in which granule `g` has been replaced. -/
theorem extractLsb'_insert_granule (old : BitVec 1024) (v : Word) (g h : BitVec 4) :
    ((old &&& ~~~ ((BitVec.ofNat 1024 (2 ^ 64 - 1)) <<< (64 * g.toNat))) ||| (v.setWidth 1024 <<< (64 * g.toNat))).extractLsb' (64 * h.toNat) 64
      = if h = g then v else old.extractLsb' (64 * h.toNat) 64 := by
  have ones : BitVec.ofNat 1024 (2 ^ 64 - 1) = (BitVec.allOnes 64).setWidth 1024 :=
    (BitVec.setWidth_ofNat_of_le_of_lt (by decide) (by decide)).symm
  rw [ones]
  ext i hi
  simp only [BitVec.getElem_extractLsb', BitVec.getLsbD_or, BitVec.getLsbD_and, BitVec.getLsbD_not, BitVec.getLsbD_shiftLeft,
    BitVec.getLsbD_setWidth, BitVec.getLsbD_allOnes]
  have hh := h.isLt
  have hg := g.isLt
  have inside : 64 * h.toNat + i < 1024 := by omega
  rcases Nat.lt_trichotomy h.toNat g.toNat with hlt | heq | hgt
  · have below : 64 * h.toNat + i < 64 * g.toNat := by omega
    have ne : h ≠ g := fun e => by simp [e] at hlt
    simp [inside, below, ne, BitVec.getElem_extractLsb']
  · obtain rfl := BitVec.eq_of_toNat_eq heq
    simp [inside, hi, show i < 1024 by omega, BitVec.getLsbD_eq_getElem]
  · have above : ¬ 64 * h.toNat + i < 64 * g.toNat := by omega
    have past : ¬ 64 * h.toNat + i - 64 * g.toNat < 64 := by omega
    have ne : h ≠ g := fun e => by simp [e] at hgt
    have zero : v.getLsbD (64 * h.toNat + i - 64 * g.toNat) = false := BitVec.getLsbD_of_ge _ _ (by omega)
    simp [inside, above, past, ne, zero, BitVec.getElem_extractLsb']

theorem Core.writeDest_x (k : Core) {n : Reg} (v : Gran) (p : Bool) (hn : n ≠ 0) :
    k.writeDest (.x n) v p = { k with regs := k.regs.setX n (v.setWidth 64) p } := if_neg hn

theorem Regs.setK_of_ne (r : Regs) {n : BitVec 3} (v : BitVec 128) (p : Bool) (hn : n ≠ 0) :
    r.setK n v p = { r with k := r.k.set n.toNat v n.isLt, kp := putBit r.kp n.toNat p } := if_neg hn

/-- What a register granule holds after a result has been written to a granule (R85). -/
theorem Core.readDest_writeDest_x (k : Core) (n : Reg) (v : Gran) (p : Bool) (hn : n ≠ 0) (d : PDest) :
    (k.writeDest (.x n) v p).readDest d = if d = .x n then some ((v.setWidth 64 : Word).setWidth 256, p) else k.readDest d := by
  cases d with
  | x m =>
    simp only [Core.writeDest_x k v p hn, Core.readDest, Regs.setX, PDest.x.injEq, getLsbD_putBit, m.isLt, and_true]
    by_cases h : m = n
    · subst h; simp
    · have : n.toNat ≠ m.toNat := fun e => h (BitVec.eq_of_toNat_eq e.symm)
      simp [h, this, this.symm]
  | _ => simp [Core.writeDest_x k v p hn, Core.readDest, Regs.setX, Core.readV, Core.poisonV]

theorem Core.readDest_writeDest_hx (k : Core) (n : BitVec 3) (v : Gran) (p : Bool) (d : PDest) :
    (k.writeDest (.hx n) v p).readDest d = if d = .hx n then some ((v.setWidth 64 : Word).setWidth 256, p) else k.readDest d := by
  cases d with
  | hx m =>
    simp only [Core.writeDest, Core.readDest, PDest.hx.injEq, getLsbD_putBit, m.isLt, and_true]
    by_cases h : m = n
    · subst h; simp
    · have : n.toNat ≠ m.toNat := fun e => h (BitVec.eq_of_toNat_eq e.symm)
      simp [h, this, this.symm]
  | _ => simp [Core.writeDest, Core.readDest, Core.readV, Core.poisonV]

theorem Core.readDest_writeDest_k (k : Core) (n : BitVec 3) (v : Gran) (p : Bool) (hn : n ≠ 0) (d : PDest) :
    (k.writeDest (.k n) v p).readDest d = if d = .k n then some ((v.setWidth 128 : BitVec 128).setWidth 256, p) else k.readDest d := by
  cases d with
  | k m =>
    simp only [Core.writeDest, Core.readDest, Regs.setK_of_ne _ _ _ hn, PDest.k.injEq, getLsbD_putBit, m.isLt, and_true]
    by_cases h : m = n
    · subst h; simp
    · have : n.toNat ≠ m.toNat := fun e => h (BitVec.eq_of_toNat_eq e.symm)
      simp [h, this, this.symm]
  | _ => simp [Core.writeDest, Core.readDest, Regs.setK_of_ne _ _ _ hn, Core.readV, Core.poisonV]

theorem Core.readDest_writeDest_v (k : Core) (n : Reg) (g : BitVec 4) (v : Gran) (p : Bool) (d : PDest) :
    (k.writeDest (.v n g) v p).readDest d = if d = .v n g then some ((v.setWidth 64 : Word).setWidth 256, p) else k.readDest d := by
  cases d with
  | v m h =>
    simp only [Core.writeDest, Core.readDest, Regs.setV, Core.readV, Core.poisonV, PDest.v.injEq]
    by_cases hm : m = n
    · subst hm
      simp only [Vector.getElem_set_self, extractLsb'_insert_granule, getLsbD_putBit, h.isLt, and_true, true_and]
      by_cases hg : h = g
      · simp [hg]
      · have : h.toNat ≠ g.toNat := fun e => hg (BitVec.eq_of_toNat_eq e)
        simp [hg, this]
    · have : n.toNat ≠ m.toNat := fun e => hm (BitVec.eq_of_toNat_eq e.symm)
      simp only [hm, false_and, if_false, Vector.getElem_set_ne _ _ this]
  | _ => simp [Core.writeDest, Core.readDest, Regs.setV]

/-- A register granule that a landing can write: an X register but X0, one of the handler's bank, a granule of a vector register, or a lane
mask but K0. -/
def PDest.isRegister (d : PDest) : Prop :=
  (∃ n, d = .x n ∧ n ≠ 0) ∨ (∃ n, d = .hx n) ∨ (∃ n g, d = .v n g) ∨ (∃ n, d = .k n ∧ n ≠ 0)

theorem PDest.isRegister.not_gran {d : PDest} (h : d.isRegister) : ∀ b g m, d ≠ .gran b g m := by
  rintro b g m rfl
  simp [PDest.isRegister] at h

/-- What a result in a register granule reads as: 128 bits of a mask, 64 of any other (R85). -/
def PDest.landed (d : PDest) (v : Gran) (p : Bool) : Gran × Bool :=
  match d with
  | .k _ => ((v.setWidth 128 : BitVec 128).setWidth 256, p)
  | _ => ((v.setWidth 64 : Word).setWidth 256, p)

theorem Core.readDest_writeDest (k : Core) {d : PDest} (h : d.isRegister) (v : Gran) (p : Bool) (e : PDest) :
    (k.writeDest d v p).readDest e = if e = d then some (d.landed v p) else k.readDest e := by
  rcases h with ⟨n, rfl, hn⟩ | ⟨n, rfl⟩ | ⟨n, g, rfl⟩ | ⟨n, rfl, hn⟩
  · exact k.readDest_writeDest_x n v p hn e
  · exact k.readDest_writeDest_hx n v p e
  · exact k.readDest_writeDest_v n g v p e
  · exact k.readDest_writeDest_k n v p hn e

/-- A register write leaves the mode, the results on their way and the memories of the core as they are. -/
theorem Core.writeDest_register_frame (k : Core) {d : PDest} (h : d.isRegister) (v : Gran) (p : Bool) :
    (k.writeDest d v p).csr = k.csr ∧ (k.writeDest d v p).pend = k.pend ∧ (k.writeDest d v p).sp = k.sp ∧ (k.writeDest d v p).hold = k.hold := by
  rcases h with ⟨n, rfl, hn⟩ | ⟨n, rfl⟩ | ⟨n, g, rfl⟩ | ⟨n, rfl, hn⟩
  · simp [Core.writeDest_x k v p hn]
  · exact ⟨rfl, rfl, rfl, rfl⟩
  · exact ⟨rfl, rfl, rfl, rfl⟩
  · exact ⟨rfl, rfl, rfl, rfl⟩

/-- What a write to a register granule supersedes is what is on its way to that granule (R85). -/
theorem Pend.under_of_not_gran (e : Pend) {d : PDest} (h : ∀ b g m, d ≠ .gran b g m) : e.under d = if e.dest = d then none else some e := by
  unfold Pend.under
  split
  · exact absurd rfl (h _ _ _)
  · rfl

theorem supersede_eq_filter (ps : List Pend) {d : PDest} (h : ∀ b g m, d ≠ .gran b g m) :
    supersede ps d = ps.filter (fun p => p.dest != d) := by
  have guard : (fun e : Pend => e.under d) = Option.guard (fun p => p.dest != d) := by
    funext e
    by_cases he : e.dest = d <;> simp [Pend.under_of_not_gran e h, Option.guard, he]
  rw [supersede, guard, List.filterMap_eq_filter]

/-- Writing an X register (R16, R19, R85): one case for each place the result can go. -/
theorem Core.writeX_zero (k : Core) (v : XW) (bound : Nat) : k.writeX 0 v bound = k := if_pos rfl

theorem Core.writeX_later (k : Core) {n : Reg} (v : XW) {bound : Nat} (hn : n ≠ 0) (hb : 1 < bound) :
    k.writeX n v bound = { k with pend := k.pend ++ [⟨k.xDest n, v.val.setWidth 256, v.poison, k.ct + bound, false, 0⟩] } := by
  rw [Core.writeX, if_neg hn, Core.land, if_neg (by omega)]

/-- A core without the results on their way that a write to `d` supersedes (R85). -/
def Core.without (k : Core) (d : PDest) : Core := { k with pend := supersede k.pend d }

theorem Core.writeX_now (k : Core) {n : Reg} (v : XW) {bound : Nat} (hn : n ≠ 0) (hb : bound ≤ 1) :
    k.writeX n v bound =
      (k.without (k.xDest n)).writeDest ((k.without (k.xDest n)).xDest n) (v.val.setWidth 256) v.poison := by
  rw [Core.writeX, if_neg hn, Core.land, if_pos hb]
  rfl

/-- An X register is read at the place its results go to (R19). -/
theorem Core.readX_eq_readDest (k : Core) {n : Reg} (hn : n ≠ 0) :
    (k.readDest (k.xDest n)) = some ((k.readX n).val.setWidth 256, (k.readX n).poison) := by
  unfold Core.readX Core.xDest
  rw [if_neg hn]
  split <;> simp [Core.readDest]

/-- Different X registers have different places. -/
theorem Core.xDest_injective (k : Core) {m n : Reg} (h : m ≠ n) : k.xDest m ≠ k.xDest n := by
  have distinct : m.toNat ≠ n.toNat := fun e => h (BitVec.eq_of_toNat_eq e)
  unfold Core.xDest Core.banked bankIx
  split <;> split
  · have low (r : Reg) : (r.extractLsb' 0 3 : BitVec 3).toNat = r.toNat % 8 := by simp
    simp only [Bool.and_eq_true, decide_eq_true_eq] at *
    intro e
    have e' : m.toNat % 8 = n.toNat % 8 := by rw [← low m, ← low n, PDest.hx.inj e]
    omega
  all_goals simp [h]

theorem Core.xDest_banked {k : Core} {n : Reg} (h : k.banked n = true) : k.xDest n = .hx (bankIx n) := if_pos h

theorem Core.xDest_isRegister (k : Core) {n : Reg} (hn : n ≠ 0) : (k.xDest n).isRegister := by
  unfold Core.xDest
  split
  · exact .inr (.inl ⟨_, rfl⟩)
  · exact .inl ⟨n, rfl, hn⟩

/-- What reads as an X register reads is 64 bits wide. -/
theorem Core.landed_xDest (k : Core) (n : Reg) (v : Gran) (p : Bool) : (k.xDest n).landed v p = ((v.setWidth 64 : Word).setWidth 256, p) := by
  unfold Core.xDest
  split <;> rfl

/-- A write to the place of an X register leaves the mode as it is, and with it where every register is. -/
theorem Core.xDest_writeDest (k : Core) {n : Reg} (v : Gran) (p : Bool) (hn : n ≠ 0) (m : Reg) :
    (k.writeDest (k.xDest n) v p).xDest m = k.xDest m := by
  have mode := (k.writeDest_register_frame (k.xDest_isRegister hn) v p).1
  rw [Core.xDest, Core.banked, mode]
  rfl

theorem XW.eq_of_readDest {a b : XW} (h : (some (a.val.setWidth 256, a.poison) : Option (Gran × Bool)) = some (b.val.setWidth 256, b.poison)) :
    a = b := by
  obtain ⟨av, ap⟩ := a
  obtain ⟨bv, bp⟩ := b
  simp only [Option.some.injEq, Prod.mk.injEq] at h
  obtain ⟨hv, rfl⟩ := h
  have low := congrArg (BitVec.setWidth 64) hv
  simp only [BitVec.setWidth_setWidth_of_le, Nat.reduceLeDiff, BitVec.setWidth_eq] at low
  rw [low]

/-- The register written reads the value, and every other one what it read before. -/
theorem Core.readX_writeDest_xDest (k : Core) {n : Reg} (v : XW) (hn : n ≠ 0) (m : Reg) :
    (k.writeDest (k.xDest n) (v.val.setWidth 256) v.poison).readX m = if m = n then v else k.readX m := by
  by_cases hm : m = 0
  · subst hm
    rw [if_neg (Ne.symm hn)]
    rfl
  · apply XW.eq_of_readDest
    rw [← Core.readX_eq_readDest _ hm, Core.xDest_writeDest k _ _ hn, Core.readDest_writeDest k (k.xDest_isRegister hn)]
    by_cases h : m = n
    · subst h; simp [Core.landed_xDest]
    · rw [if_neg (k.xDest_injective h), if_neg h, Core.readX_eq_readDest k hm]

/-- Nothing stays on its way to a granule that a write has superseded (R85). -/
theorem dest_ne_of_mem_supersede {ps : List Pend} {d : PDest} (h : ∀ b g m, d ≠ .gran b g m) {e : Pend} (he : e ∈ supersede ps d) : e.dest ≠ d := by
  rw [supersede_eq_filter ps h, List.mem_filter] at he
  simpa using he.2

/-- In handler mode X24 to X31 are the bank's, so the task's file is left as it is (R19). -/
theorem Core.regs_writeDest_banked (k : Core) {n : Reg} (v : Gran) (p : Bool) (h : k.banked n = true) :
    (k.writeDest (k.xDest n) v p).regs = k.regs := by rw [Core.xDest_banked h, Core.writeDest]

theorem registerWrite : Claim.RegisterWrite := by
  intro k n v bound
  refine ⟨fun hn => hn ▸ k.writeX_zero v bound, fun hn hb => ?_, fun hn hb => ?_⟩
  · have written := k.writeX_now v hn hb
    refine ⟨?_, fun m hm => ?_, ?_, fun hh hb' => ?_⟩
    · rw [written, Core.readX_writeDest_xDest _ v hn, if_pos rfl]
    · rw [written, Core.readX_writeDest_xDest _ v hn, if_neg hm]
      rfl
    · rw [written, (Core.writeDest_register_frame _ (Core.xDest_isRegister _ hn) _ _).2.1]
      exact fun e he => dest_ne_of_mem_supersede (k.xDest_isRegister hn).not_gran he
    · have banked : k.banked n = true := by rw [Core.banked, hh, decide_eq_true hb', Bool.and_self]
      rw [written]
      exact Core.regs_writeDest_banked (k.without (k.xDest n)) _ _ banked
  · rw [k.writeX_later v hn hb]
    exact ⟨rfl, rfl, rfl⟩

-- The landing of a result ---------------------------------------------------------------------------------------------

/-- The event of a landing lands a register result at once: no copy of a marked granule holds it back. -/
theorem exec_resultLanding_register {s : State} {c : CoreId} {i : Nat} {e : Pend} (hi : (s.core c).pend[i]? = some e) (h : e.dest.isRegister) :
    exec (.resultLanding c i) s = .next (s.modCore c (fun k => k.landAt i)) := by
  have free : s.landBlocked c e = none := by
    unfold State.landBlocked
    split
    · rename_i g m hd
      exact absurd hd (h.not_gran _ _ _)
    · rfl
  have inside : i < (s.core c).pend.length := (List.getElem?_eq_some_iff.mp hi).1
  show execResultLanding c i s = _
  simp only [execResultLanding, hi, free, Option.isSome_none, Bool.false_eq_true, if_false, State.modCore, inside, if_true]

theorem resultLanding : Claim.ResultLanding := by
  intro s c i e hi h k
  have hd : e.dest.isRegister := h
  refine ⟨_, exec_resultLanding_register hi hd, ?_⟩
  have landed : k.landAt i = ({ k with pend := supersede (k.pend.take i) e.dest ++ k.pend.drop (i + 1) } : Core).writeDest e.dest e.val e.poison := by
    simp only [Core.landAt, k, hi]
  obtain ⟨-, hpend, hsp, hhold⟩ := Core.writeDest_register_frame { k with pend := supersede (k.pend.take i) e.dest ++ k.pend.drop (i + 1) } hd e.val e.poison
  rw [State.core_modCore, landed, hpend, hsp, hhold]
  refine ⟨?_, fun d hne => ?_, ?_, rfl, rfl, rfl, fun c' hc => State.core_modCore_ne s _ hc⟩
  · rw [Core.readDest_writeDest _ hd, if_pos rfl]
    rfl
  · rw [Core.readDest_writeDest _ hd, if_neg hne]
    rfl
  · rw [supersede_eq_filter _ hd.not_gran]

/-- Settles O41: a register write changes its register alone, and so does the landing of a register result. -/
theorem scalarRegisterWrite : Obligations.ScalarRegisterWrite := ⟨registerWrite, resultLanding⟩

end Sys2Proof.Machine
end

section
/-! The control and status registers: what a write leaves in each (O20). -/
namespace Sys2Proof.Machine
open Sys2Proof

section writes
variable (k : Core) (v : Word)

/-- The registers a write sets whole in either mode (R20): those of the task's own, and the handler's save registers. -/
theorem Core.writeCsr_whole :
    k.writeCsr 0x005#12 v = { k with bank := { k.bank with save := k.bank.save.set 0 v } } ∧
    k.writeCsr 0x006#12 v = { k with bank := { k.bank with save := k.bank.save.set 1 v } } ∧
    k.writeCsr 0x007#12 v = { k with bank := { k.bank with save := k.bank.save.set 2 v } } ∧
    k.writeCsr 0x008#12 v = { k with bank := { k.bank with save := k.bank.save.set 3 v } } ∧
    k.writeCsr 0x018#12 v = { k with csr := { k.csr with lc := k.csr.lc.set 0 v } } ∧
    k.writeCsr 0x019#12 v = { k with csr := { k.csr with lc := k.csr.lc.set 1 v } } ∧
    k.writeCsr 0x0A0#12 v = { k with csr := { k.csr with phbase := v } } ∧
    k.writeCsr 0x0C0#12 v = { k with csr := { k.csr with srseed := v } } :=
  ⟨rfl, rfl, rfl, rfl, rfl, rfl, rfl, rfl⟩

/-- The registers narrower than a word that a write sets in either mode (R20). -/
theorem Core.writeCsr_narrow :
    k.writeCsr 0x015#12 v = { k with csr := { k.csr with latemax := v.setWidth 32 } } ∧
    k.writeCsr 0x01A#12 v = { k with csr := { k.csr with le := k.csr.le.set 0 (v.setWidth 33) } } ∧
    k.writeCsr 0x01B#12 v = { k with csr := { k.csr with le := k.csr.le.set 1 (v.setWidth 33) } } ∧
    k.writeCsr 0x020#12 v = { k with csr := { k.csr with ardom := v.setWidth 2 } } ∧
    k.writeCsr 0x030#12 v = { k with csr := { k.csr with fpmode := v.setWidth 5 } } ∧
    k.writeCsr 0x050#12 v = { k with csr := { k.csr with bndmode := v.setWidth 32 } } ∧
    k.writeCsr 0x0D0#12 v = { k with csr := { k.csr with collto := v.setWidth 32 } } :=
  ⟨rfl, rfl, rfl, rfl, rfl, rfl, rfl⟩

/-- The registers whose bits a write of ones clears (R20). -/
theorem Core.writeCsr_clearing :
    k.writeCsr 0x031#12 v = { k with csr := { k.csr with fpflags := k.csr.fpflags &&& ~~~ v.setWidth 7 } } ∧
    k.writeCsr 0x051#12 v = { k with csr := { k.csr with bndhit := k.csr.bndhit &&& ~~~ v.setWidth 16 } } := ⟨rfl, rfl⟩

/-- A write in handler mode of the registers that tasks may only read (R20, R21). -/
theorem Core.writeCsr_handler (hm : k.csr.hm = true) :
    k.writeCsr 0x000#12 v = { k with csr := { k.csr with hvx := bit v 2, hmx := bit v 1 } } ∧
    k.writeCsr 0x001#12 v = { k with csr := { k.csr with cause := v &&& 0x00000000FFFF07FF#64 } } ∧
    k.writeCsr 0x002#12 v = { k with csr := { k.csr with epc := v } } ∧
    k.writeCsr 0x003#12 v = { k with csr := { k.csr with faddr := v } } ∧
    k.writeCsr 0x004#12 v = { k with csr := { k.csr with hvec := v } } ∧
    k.writeCsr 0x014#12 v = { k with csr := { k.csr with slip := v } } := by
  have allowed (a : BitVec 12) : ¬ (csrHandlerOnly a && !k.csr.hm) = true := by simp [hm]
  and_intros
  all_goals exact if_neg (allowed _)

theorem Core.writeCsr_dom (hm : k.csr.hm = true) (l : Level) : k.writeCsr (BitVec.ofNat 12 (0x021 + l.ix.val)) v = k.writeDom l v := by
  have allowed (a : BitVec 12) : ¬ (csrHandlerOnly a && !k.csr.hm) = true := by simp [hm]
  cases l <;> exact if_neg (allowed _)

/-- A bound is set by its number (R20). -/
theorem Core.writeCsr_bnd {i : Nat} (hi : i < 16) :
    k.writeCsr (BitVec.ofNat 12 (0x040 + i)) v = { k with csr := { k.csr with bnd := k.csr.bnd.set i v hi } } := by
  interval_cases i <;> rfl

/-- A task's write of a register that tasks may only read changes nothing (R20, R21). -/
theorem Core.writeCsr_task {a : BitVec 12} (hm : k.csr.hm = false) (ha : csrHandlerOnly a = true) : k.writeCsr a v = k :=
  if_pos (by rw [hm, ha]; rfl)

end writes

section dom
variable (k : Core) (l : Level) (v : Word)

theorem Core.writeDom_same (h : k.csr.domOf l = domMask l v) : k.writeDom l v = k := if_pos h

theorem Core.writeDom_new (h : k.csr.domOf l ≠ domMask l v) :
    k.writeDom l v = { k with csr := { k.csr with dom := k.csr.dom.set l.ix (domMask l v), dph := k.csr.dph.set l.ix 0 },
                              lastArr := k.lastArr.set l.ix none } := if_neg h

/-- A write of DOM leaves in it the value with its reserved bits clear (R8, R296). -/
theorem Core.domOf_writeDom : (k.writeDom l v).csr.domOf l = domMask l v := by
  by_cases h : k.csr.domOf l = domMask l v
  · rw [k.writeDom_same l v h, h]
  · rw [k.writeDom_new l v h]
    simp [Csrs.domOf]

theorem Level.ix_ne {l m : Level} (h : m ≠ l) : l.ix.val ≠ m.ix.val := by
  cases l <;> cases m <;> simp_all [Level.ix]

/-- It leaves the DOM and the phase of the other levels as they are. -/
theorem Core.domOf_writeDom_other {m : Level} (hm : m ≠ l) :
    (k.writeDom l v).csr.domOf m = k.csr.domOf m ∧ (k.writeDom l v).csr.dphOf m = k.csr.dphOf m := by
  by_cases h : k.csr.domOf l = domMask l v
  · rw [k.writeDom_same l v h]
    exact ⟨rfl, rfl⟩
  · rw [k.writeDom_new l v h]
    have distinct := Level.ix_ne hm
    simp [Csrs.domOf, Csrs.dphOf, distinct]

end dom

theorem setWidth_setWidth_eq_ofNat_mod (v : Word) (n : Nat) : ((v.setWidth n).setWidth 64 : Word) = BitVec.ofNat 64 (v.toNat % 2 ^ n) := by
  apply BitVec.eq_of_toNat_eq
  simp [BitVec.toNat_setWidth]

section reads
variable (s : State) (c : CoreId) (v : Word)

/-- What a CSR of core `c` reads once `v` has been written to the one at address `a`. -/
abbrev State.csrAfter (a : Nat) : Option Word := (s.modCore c (fun k => k.writeCsr (BitVec.ofNat 12 a) v)).csrRead c (BitVec.ofNat 12 a)

theorem State.csrAfter_handler (hm : (s.core c).csr.hm = true) :
    ∀ a ∈ [0x002, 0x003, 0x004, 0x005, 0x006, 0x007, 0x008, 0x014], s.csrAfter c v a = some v := by
  obtain ⟨h5, h6, h7, h8, -⟩ := (s.core c).writeCsr_whole v
  obtain ⟨-, -, h2, h3, h4, h14⟩ := (s.core c).writeCsr_handler v hm
  simp only [List.forall_mem_cons]
  and_intros
  all_goals simp [State.csrRead, h2, h3, h4, h5, h6, h7, h8, h14]

theorem State.csrAfter_whole : ∀ a ∈ [0x018, 0x019, 0x0A0, 0x0C0], s.csrAfter c v a = some v := by
  obtain ⟨-, -, -, -, h18, h19, hA0, hC0⟩ := (s.core c).writeCsr_whole v
  simp only [List.forall_mem_cons]
  and_intros
  all_goals simp [State.csrRead, h18, h19, hA0, hC0]

theorem State.csrAfter_narrow :
    (∀ a ∈ [0x015, 0x050, 0x0D0], s.csrAfter c v a = some ((v.setWidth 32).setWidth 64)) ∧
    (∀ a ∈ [0x01A, 0x01B], s.csrAfter c v a = some ((v.setWidth 33).setWidth 64)) ∧
    s.csrAfter c v 0x020 = some ((v.setWidth 2).setWidth 64) ∧ s.csrAfter c v 0x030 = some ((v.setWidth 5).setWidth 64) := by
  obtain ⟨h15, h1A, h1B, h20, h30, h50, hD0⟩ := (s.core c).writeCsr_narrow v
  simp only [List.forall_mem_cons]
  and_intros
  all_goals simp [State.csrRead, h15, h1A, h1B, h20, h30, h50, hD0]

theorem State.csrRead_bnd (t : State) {i : Nat} (hi : i < 16) : t.csrRead c (BitVec.ofNat 12 (0x040 + i)) = some (t.core c).csr.bnd[i] := by
  have inside : (BitVec.ofNat 12 (0x040 + i)).toNat = 0x040 + i := by rw [BitVec.toNat_ofNat]; omega
  have range : (0x040 ≤ 0x040 + i && 0x040 + i ≤ 0x04F) = true := by simp; omega
  simp only [State.csrRead, inside, range, if_true]
  simp [hi]

theorem State.csrAfter_bnd {i : Nat} (hi : i < 16) : s.csrAfter c v (0x040 + i) = some v := by
  rw [State.csrAfter, State.csrRead_bnd c _ hi, State.core_modCore, Core.writeCsr_bnd _ v hi]
  simp

theorem State.csrRead_dom (t : State) (l : Level) : t.csrRead c (BitVec.ofNat 12 (0x021 + l.ix.val)) = some ((t.core c).csr.domOf l) := by
  cases l <;> rfl

theorem State.csrAfter_dom (hm : (s.core c).csr.hm = true) (l : Level) : s.csrAfter c v (0x021 + l.ix.val) = some (domMask l v) := by
  rw [State.csrAfter, State.csrRead_dom, State.core_modCore, Core.writeCsr_dom _ v hm, Core.domOf_writeDom]

/-- Bits of FPFLAGS and BNDHIT that are written as ones are cleared (R20). -/
theorem State.csrAfter_clearing : ∀ e ∈ [(0x031, 7), (0x051, 16)],
    ∃ w, s.csrRead c (BitVec.ofNat 12 e.1) = some w ∧ s.csrAfter c v e.1 = some (w &&& ~~~ BitVec.ofNat 64 (v.toNat % 2 ^ e.2)) := by
  obtain ⟨h31, h51⟩ := (s.core c).writeCsr_clearing v
  have cleared (n : Nat) (hn : n ≤ 64) (a b : BitVec n) : (a &&& ~~~ b).setWidth 64 = (a.setWidth 64 &&& ~~~ b.setWidth 64 : Word) := by
    ext i hi
    by_cases h : i < n
    · simp [h]
    · simp [BitVec.getLsbD_of_ge _ _ (Nat.le_of_not_lt h)]
  simp only [List.forall_mem_cons]
  and_intros
  · refine ⟨_, rfl, ?_⟩
    rw [← setWidth_setWidth_eq_ofNat_mod, ← cleared 7 (by decide)]
    simp [State.csrRead, h31]
  · refine ⟨_, rfl, ?_⟩
    rw [← setWidth_setWidth_eq_ofNat_mod, ← cleared 16 (by decide)]
    simp [State.csrRead, h51]
  · exact fun _ h => nomatch h

/-- STATUS as a number: PHA, HVX, HMX and HM from bit 3 down (Table 3). -/
theorem Csrs.status_toNat (r : Csrs) : r.status.toNat = 8 * r.pha.toNat + 4 * r.hvx.toNat + 2 * r.hmx.toNat + r.hm.toNat := by
  unfold Csrs.status
  cases r.pha <;> cases r.hvx <;> cases r.hmx <;> cases r.hm <;> rfl

theorem bit_toNat (v : Word) (i : Nat) : (bit v i).toNat = v.toNat / 2 ^ i % 2 := by
  rw [bit, BitVec.getLsbD, Nat.testBit_eq_decide_div_mod_eq]
  rcases Nat.mod_two_eq_zero_or_one (v.toNat / 2 ^ i) with h | h <;> simp [h]

theorem State.csrAfter_status (hm : (s.core c).csr.hm = true) :
    s.csrAfter c v 0x000 = some (BitVec.ofNat 64 ((s.core c).csr.status.toNat / 8 * 8 + v.toNat / 2 % 4 * 2 + 1)) := by
  have written : s.csrAfter c v 0x000 = some ({ (s.core c).csr with hvx := bit v 2, hmx := bit v 1 } : Csrs).status := by
    simp [State.csrRead, ((s.core c).writeCsr_handler v hm).1]
  rw [written, Option.some.injEq]
  apply BitVec.eq_of_toNat_eq
  simp only [Csrs.status_toNat, BitVec.toNat_ofNat, bit_toNat, hm, Bool.toNat_true]
  have := (s.core c).csr.hvx.toNat_le
  have := (s.core c).csr.hmx.toNat_le
  have := (s.core c).csr.pha.toNat_le
  omega

theorem State.csrAfter_cause (hm : (s.core c).csr.hm = true) : s.csrAfter c v 0x001 = some (v &&& 0xFFFF07FF) := by
  simp [State.csrRead, ((s.core c).writeCsr_handler v hm).2.1]

/-- In task mode a write of a register that tasks may only read changes nothing (R20, R21). -/
theorem State.writeCsr_task (hm : (s.core c).csr.hm = false) :
    ∀ a ∈ [0x000, 0x001, 0x002, 0x003, 0x004, 0x014, 0x021, 0x022, 0x023], s.modCore c (fun k => k.writeCsr (BitVec.ofNat 12 a) v) = s := by
  have listed : ∀ a ∈ [0x000, 0x001, 0x002, 0x003, 0x004, 0x014, 0x021, 0x022, 0x023], csrHandlerOnly (BitVec.ofNat 12 a) = true := by decide
  intro a ha
  rw [State.modCore, Core.writeCsr_task _ v hm (listed a ha), State.setCore_core]

/-- A write of a register that is read-only in both modes changes nothing (R20). -/
theorem Core.writeCsr_readOnly (k : Core) :
    ∀ a ∈ [0x010, 0x011, 0x012, 0x013, 0x025, 0x026, 0x027, 0x060, 0x061, 0x070, 0x090, 0x091, 0x0B0], k.writeCsr (BitVec.ofNat 12 a) v = k := by
  simp only [List.forall_mem_cons]
  exact ⟨rfl, rfl, rfl, rfl, rfl, rfl, rfl, rfl, rfl, rfl, rfl, rfl, rfl, fun _ h => nomatch h⟩

/-- The bits of a DOM value that exist (R8, R296). -/
theorem domMask_eq (l : Level) : domMask l v = v &&& (if l = .l3 then 0xFFFFFFFFC000FFFF else 0xFFFFFFFFDF3F1F3F) := by cases l <;> rfl

end reads

/-- Settles O20: one clause for each kind of register. -/
theorem csrWriteRules : Obligations.CsrWriteRules := by
  intro s c v wr rd reads
  have reads_of {a n : Nat} (h : s.csrAfter c v a = some ((v.setWidth n).setWidth 64)) : reads a n := by
    rw [setWidth_setWidth_eq_ofNat_mod] at h
    exact h
  have reads_whole {a : Nat} (h : s.csrAfter c v a = some v) : reads a 64 := reads_of (by simpa using h)
  obtain ⟨h32, h33, h2, h5⟩ := s.csrAfter_narrow c v
  refine ⟨fun hm => ⟨fun a ha => reads_whole (s.csrAfter_handler c v hm a ha), s.csrAfter_status c v hm, s.csrAfter_cause c v hm⟩,
    fun a ha => reads_whole (s.csrAfter_whole c v a ha), fun a ha => reads_of (h32 a ha), fun a ha => reads_of (h33 a ha), reads_of h2, reads_of h5,
    fun i hi => reads_whole (s.csrAfter_bnd c v hi), s.csrAfter_clearing c v, fun hm l => ?_, s.writeCsr_task c v, fun a ha => ?_⟩
  · intro a kept r
    have masked : domMask l v = kept := domMask_eq v l
    have written : (wr a).core c = (s.core c).writeDom l v := by
      rw [State.core_modCore, Core.writeCsr_dom _ v hm]
    refine ⟨masked ▸ s.csrAfter_dom c v hm l, fun m hml => ?_, fun same => ?_, fun new => ?_⟩
    · simp only [r, written]
      exact (s.core c).domOf_writeDom_other l v hml
    · rw [← masked] at same
      show s.modCore c _ = s
      rw [State.modCore, Core.writeCsr_dom _ v hm, Core.writeDom_same _ l v same, State.setCore_core]
    · rw [← masked] at new
      simp only [r, written, Core.writeDom_new _ l v new]
      simp [Csrs.dphOf]
  · show s.modCore c _ = s
    rw [State.modCore, Core.writeCsr_readOnly v _ a ha, State.setCore_core]

end Sys2Proof.Machine
end

section
/-! The machine after reset: its values, and the form of its memories (O1). -/
namespace Sys2Proof.Machine
open Sys2Proof

@[simp] theorem State.core_reset (c : CoreId) : State.reset.core c = Core.reset := by
  simp [State.core, State.reset]

/-- A cleared memory reads zero everywhere and is clean. -/
@[simp] theorem PMem.read_empty (a : Nat) : PMem.empty.read a = 0 := rfl
@[simp] theorem PMem.poisoned_empty (g : Nat) : PMem.empty.poisoned g = false := rfl

theorem Core.reset_memWf : Core.reset.memWf = true := by decide
theorem Core.reset_mapsWf : Core.reset.mapsWf = true := by decide
theorem Core.reset_tablesForm : Core.reset.mx.tablesForm = true := by decide

theorem State.reset_memWf : State.reset.memWf :=
  ⟨PMem.empty_wf, PMem.empty_wf, PMem.empty_wf, fun c => (State.core_reset c).symm ▸ Core.reset_memWf⟩

theorem State.reset_mapsWf : State.reset.mapsWf :=
  ⟨rfl, rfl, rfl, rfl, rfl, rfl, rfl, fun c => (State.core_reset c).symm ▸ Core.reset_mapsWf⟩

theorem State.reset_keptForm : State.reset.keptForm :=
  ⟨rfl, rfl, fun c => by rw [State.core_reset]; exact ⟨rfl, rfl, rfl⟩⟩

theorem State.reset_tablesForm : State.reset.tablesForm :=
  fun c => by rw [State.core_reset]; exact ⟨Core.reset_tablesForm, fun _ h => nomatch h⟩

-- The registers and tables of a core after reset -----------------------------------------------------------------------

theorem Core.readX_reset (n : Reg) : Core.reset.readX n = ⟨0, false⟩ := by
  simp [Core.readX, Core.banked, Core.reset, Csrs.reset, Regs.reset]

theorem Core.readV_reset (n : Reg) : Core.reset.readV n = 0 := by simp [Core.readV, Core.reset, Regs.reset]

theorem Core.plane_reset (b : Bool) : Core.reset.plane b = Plane.empty := by cases b <;> rfl

theorem Core.sem_reset (n : BitVec 6) : Core.reset.sem n = .reset := by simp [Core.sem, Core.reset]

theorem Core.berth_reset (n : BitVec 5) : Core.reset.berth n = .reset := by simp [Core.berth, Core.reset]

theorem State.part_reset (p : BitVec 5) : State.reset.part p = .empty := by simp [State.part, State.reset]

theorem resetValues : Claim.ResetValues := by
  refine ⟨rfl, fun _ => rfl, fun _ _ => rfl, fun _ => rfl, fun p => ?_, fun a => ⟨rfl, rfl⟩, State.reset_memWf, fun c => ?_⟩
  · rw [State.part_reset]; rfl
  · rw [State.core_reset]
    refine ⟨rfl, rfl, rfl, rfl, rfl, rfl, rfl, rfl, Core.readX_reset, Core.readV_reset, rfl, rfl, rfl, rfl, fun a => ⟨rfl, rfl, rfl, rfl⟩,
      fun b o => ?_, Core.sem_reset, fun n => ?_, rfl, rfl, rfl, rfl, rfl, rfl, fun i => ?_⟩
    · rw [Core.plane_reset]; exact ⟨rfl, rfl⟩
    · rw [Core.berth_reset]; exact ⟨rfl, rfl, rfl⟩
    · simp [Core.reset]

/-- Settles O1: the values of the reset state, and the form of its memories, maps and tables. -/
theorem resetState : Obligations.ResetState :=
  ⟨State.reset_memWf, resetValues, State.reset_keptForm, State.reset_mapsWf, State.reset_tablesForm⟩

end Sys2Proof.Machine
end

section
/-! The forms that every step keeps (O6), as one family of predicates: what each part of the state is asked, and the operations on memories, maps
and tables that keep it. -/
namespace Sys2Proof.Machine
open Sys2Proof

/-- The three forms of O6: of the bytes kept by themselves, of every memory and map, and of the tables of arrays. -/
inductive Form where
  | ofBytes | ofAll | ofTables

/-- What a form asks of a scratchpad and of HBM. -/
def Form.mem : Form → PMem → Prop
  | .ofAll, m => m.wf = true
  | _, _ => True
/-- What a form asks of a hold, of host memory and of the memories of peers. -/
def Form.kept : Form → PMem → Prop
  | .ofAll, m => m.wf = true
  | .ofBytes, m => m.cells.wf = true
  | .ofTables, _ => True
/-- What a form asks of the bytes of a plane. -/
def Form.bytes : Form → Memory → Prop
  | .ofTables, _ => True
  | _, m => m.wf = true
/-- What a form asks of a sparse map. -/
def Form.map {α : Type} [DecidableEq α] : Form → α → SMap α → Prop
  | .ofAll, d, m => SMap.wf d m = true
  | _, _, _ => True
/-- What a form asks of a table of an array. -/
def Form.table : Form → List (BitVec 16) → Prop
  | .ofTables, t => t.length = 16
  | _, _ => True

-- Lists that rise -------------------------------------------------------------------------------------------------------

/-- What is put between the elements of a rising list below `a` and those from `b` on, rising itself and between the two, leaves it rising. -/
theorem splice_sorted {l mid : List Nat} {a b : Nat} (hab : a ≤ b) (hl : l.Pairwise (· < ·)) (hm : mid.Pairwise (· < ·))
    (hlo : ∀ x ∈ mid, a ≤ x) (hhi : ∀ x ∈ mid, x < b) :
    (l.takeWhile (fun g => g < a) ++ (mid ++ l.dropWhile (fun g => g < b))).Pairwise (· < ·) := by
  have below : ∀ x ∈ l.takeWhile (fun g => decide (g < a)), x < a := fun x hx => by simpa using List.mem_takeWhile_imp hx
  have above : ∀ x ∈ l.dropWhile (fun g => decide (g < b)), b ≤ x := by
    clear hm hlo hhi below
    induction l with
    | nil => simp
    | cons c rest ih =>
      obtain ⟨hc, hr⟩ := List.pairwise_cons.mp hl
      by_cases h : c < b
      · simpa [List.dropWhile, h] using ih hr
      · simp only [List.dropWhile, h, decide_false, List.mem_cons, forall_eq_or_imp]
        exact ⟨by omega, fun x hx => by have := hc x hx; omega⟩
  refine List.pairwise_append.mpr ⟨hl.sublist (List.takeWhile_sublist _), List.pairwise_append.mpr ⟨hm, hl.sublist (List.dropWhile_sublist _), ?_⟩, ?_⟩
  · exact fun x hx y hy => Nat.lt_of_lt_of_le (hhi x hx) (above y hy)
  · intro x hx y hy
    have hxa := below x hx
    rcases List.mem_append.mp hy with hy | hy
    · exact Nat.lt_of_lt_of_le hxa (hlo y hy)
    · exact Nat.lt_of_lt_of_le hxa (hab.trans (above y hy))

/-- A canonical map is one whose keys rise from `lo` on and that lists no default. -/
theorem SMap.wfFrom_iff {α : Type} [DecidableEq α] {d : α} {lo : Nat} {m : SMap α} :
    SMap.wfFrom d lo m = true ↔ (m.map (·.1)).Pairwise (· < ·) ∧ ∀ p ∈ m, lo ≤ p.1 ∧ p.2 ≠ d := by
  induction m generalizing lo with
  | nil => simp [SMap.wfFrom]
  | cons p rest ih =>
    obtain ⟨a, v⟩ := p
    simp only [SMap.wfFrom, Bool.and_eq_true, decide_eq_true_eq, ih, List.map_cons, List.pairwise_cons, List.mem_map, List.mem_cons,
      forall_exists_index, and_imp, forall_eq_or_imp, forall_apply_eq_imp_iff₂]
    constructor
    · rintro ⟨⟨h1, h2⟩, h3, h4⟩
      exact ⟨⟨fun p hp => (h4 p hp).1, h3⟩, ⟨h1, h2⟩, fun p hp => ⟨by have := (h4 p hp).1; omega, (h4 p hp).2⟩⟩
    · rintro ⟨⟨h1, h2⟩, ⟨h3, h4⟩, h5⟩
      exact ⟨⟨h3, h4⟩, h2, fun p hp => ⟨h1 p hp, (h5 p hp).2⟩⟩

theorem SMap.wf_iff {α : Type} [DecidableEq α] {d : α} {m : SMap α} :
    SMap.wf d m = true ↔ (m.map (·.1)).Pairwise (· < ·) ∧ ∀ p ∈ m, p.2 ≠ d := by
  simp [SMap.wf, SMap.wfFrom_iff]

/-- Leaving out entries of a canonical map keeps its form. -/
theorem SMap.wf_filter {α : Type} [DecidableEq α] {d : α} {m : SMap α} (p : Nat × α → Bool) (h : SMap.wf d m = true) :
    SMap.wf d (m.filter p) = true := by
  obtain ⟨hs, hd⟩ := SMap.wf_iff.mp h
  exact SMap.wf_iff.mpr ⟨hs.sublist (List.filter_sublist.map _), fun e he => hd e (List.mem_of_mem_filter he)⟩

/-- A map listed along rising numbers, the defaults left out, is canonical. -/
theorem SMap.wf_filterMap {α : Type} [DecidableEq α] {d : α} {l : List Nat} (f : Nat → α) (h : l.Pairwise (· < ·)) :
    SMap.wf d (l.filterMap (fun i => if f i = d then none else some (i, f i))) = true := by
  have keys : (l.filterMap (fun i => if f i = d then none else some (i, f i))).map (·.1) = l.filter (fun i => decide (f i ≠ d)) := by
    rw [List.map_filterMap, ← List.filterMap_eq_filter]
    congr 1
    funext i
    by_cases hi : f i = d <;> simp [hi, Option.guard]
  refine SMap.wf_iff.mpr ⟨keys ▸ h.sublist List.filter_sublist, fun p hp => ?_⟩
  obtain ⟨i, -, hi⟩ := List.mem_filterMap.mp hp
  split at hi
  · simp at hi
  · cases hi
    assumption

-- Memories ----------------------------------------------------------------------------------------------------------------

/-- Replacing a run of bytes by cells that lie in it keeps the canonical form. -/
theorem PMem.splice_cells_wf {m : PMem} {a n : Nat} {cells : Memory} {bad : List Nat} (h : m.cells.wf = true)
    (hc : SMap.wfFrom Memory.unlisted a cells = true) (hn : ∀ p ∈ cells, p.1 < a + n) : (m.splice a n cells bad).cells.wf = true := by
  have tail : SMap.wfFrom Memory.unlisted a (cells ++ m.cells.from (a + n)) = true := by
    obtain ⟨hs, hp⟩ := SMap.wfFrom_iff.mp hc
    obtain ⟨hs', hp'⟩ := SMap.wfFrom_iff.mp (Memory.from_wfFrom (a := a + n) (SMap.wfFrom_mono _ h (Nat.zero_le 0)))
    refine SMap.wfFrom_iff.mpr ⟨?_, fun p hm => ?_⟩
    · rw [List.map_append]
      refine List.pairwise_append.mpr ⟨hs, hs', fun x hx y hy => ?_⟩
      obtain ⟨p, hpm, rfl⟩ := List.mem_map.mp hx
      obtain ⟨q, hqm, rfl⟩ := List.mem_map.mp hy
      exact Nat.lt_of_lt_of_le (hn p hpm) (hp' q hqm).1
    · rcases List.mem_append.mp hm with hm | hm
      · exact hp p hm
      · exact ⟨by have := (hp' p hm).1; omega, (hp' p hm).2⟩
  exact Memory.takeWhile_append_wfFrom h (by rwa [Nat.zero_max])

theorem Memory.lt_of_mem_cells {a : Nat} {bs : List Byte} : ∀ p ∈ Memory.cells a bs, p.1 < a + bs.length := by
  induction bs generalizing a with
  | nil => simp [Memory.cells]
  | cons b rest ih =>
    intro p hp
    unfold Memory.cells at hp
    rw [List.length_cons]
    split at hp
    · have := ih p hp
      omega
    · rcases List.mem_cons.mp hp with rfl | hp
      · simp
      · have := ih p hp
        omega

/-- A memory spliced with cells and poisoned granules that lie in the run is canonical. -/
theorem PMem.splice_wf {m : PMem} {a n : Nat} {cells : Memory} {bad : List Nat} (h : m.wf = true)
    (hc : SMap.wfFrom Memory.unlisted a cells = true) (hn : ∀ p ∈ cells, p.1 < a + n) (hb : bad.Pairwise (· < ·))
    (hlo : ∀ g ∈ bad, a / 32 ≤ g) (hhi : ∀ g ∈ bad, g < (a + n) / 32) : (m.splice a n cells bad).wf = true := by
  simp only [PMem.wf, Bool.and_eq_true, decide_eq_true_eq] at h ⊢
  exact ⟨PMem.splice_cells_wf h.1 hc hn, splice_sorted (Nat.div_le_div_right (Nat.le_add_right _ _)) h.2 hb hlo hhi⟩

theorem PMem.put_wf {m : PMem} (a : Nat) (bs : List Byte) (h : m.wf = true) : (m.put a bs).wf = true :=
  PMem.splice_wf h (Memory.cells_wfFrom a bs) Memory.lt_of_mem_cells .nil (fun _ h => nomatch h) (fun _ h => nomatch h)

/-- What a predicate on memories must allow for the operations of the machine to keep it. -/
structure Stable (P : PMem → Prop) : Prop where
  empty : P .empty
  writeBytes : ∀ {m : PMem} (a : Nat) (bs : List Byte), P m → P (m.writeBytes a bs)
  setPoison : ∀ {m : PMem} (g : Nat) (b : Bool), P m → P (m.setPoison g b)
  put : ∀ {m : PMem} (a : Nat) (bs : List Byte), P m → P (m.put a bs)

theorem stable_true : Stable (fun _ => True) := ⟨trivial, fun _ _ _ => trivial, fun _ _ _ => trivial, fun _ _ _ => trivial⟩

theorem stable_wf : Stable (fun m => m.wf = true) := ⟨rfl, PMem.writeBytes_wf, PMem.setPoison_wf, PMem.put_wf⟩

theorem stable_cells : Stable (fun m => m.cells.wf = true) :=
  ⟨rfl, fun a bs h => Memory.writeRun_wf a bs h, fun _ _ h => h,
   fun a bs h => PMem.splice_cells_wf h (Memory.cells_wfFrom a bs) Memory.lt_of_mem_cells⟩

namespace Stable
variable {P : PMem → Prop} (hP : Stable P) {m : PMem}
include hP

theorem mergeGran (g : Nat) (v : Gran) (mask : BitVec 32) (q : Option Bool) (h : P m) : P (m.mergeGran g v mask q) := by
  unfold PMem.mergeGran
  cases q with
  | none => exact hP.writeBytes _ _ h
  | some b => exact hP.setPoison _ _ (hP.writeBytes _ _ h)

theorem writeRun (a : Nat) (bs : List Byte) (bad : Bool) (h : P m) : P (m.writeRun a bs bad) := by
  unfold PMem.writeRun
  generalize granSplit a bs.length = ps
  induction ps generalizing m with
  | nil => exact h
  | cons p rest ih => exact ih (hP.mergeGran _ _ _ _ h)

omit hP in
theorem foldl {α : Type} {f : PMem → α → PMem} (_ : Stable P) (hf : ∀ {m : PMem} (a : α), P m → P (f m a)) (l : List α) (h : P m) : P (l.foldl f m) := by
  induction l generalizing m with
  | nil => exact h
  | cons a rest ih => exact ih (hf a h)

end Stable

variable {F : Form}

theorem Form.mem_stable (F : Form) : Stable F.mem := by
  cases F
  · exact stable_true
  · exact stable_wf
  · exact stable_true

theorem Form.kept_stable (F : Form) : Stable F.kept := by
  cases F
  · exact stable_cells
  · exact stable_wf
  · exact stable_true

-- Bytes of planes, maps and tables -----------------------------------------------------------------------------------------

theorem Form.bytes_of_wf {m : Memory} (h : m.wf = true) : F.bytes m := by
  cases F
  · exact h
  · exact h
  · trivial

theorem Form.map_of_wf {α : Type} [DecidableEq α] {d : α} {m : SMap α} (h : SMap.wf d m = true) : F.map d m := by
  cases F
  · trivial
  · exact h
  · trivial

theorem Form.table_of_length {t : List (BitVec 16)} (h : t.length = 16) : F.table t := by
  cases F
  · trivial
  · trivial
  · exact h

theorem Form.map_nil {α : Type} [DecidableEq α] {d : α} : F.map d [] := Form.map_of_wf rfl

theorem Form.map_set {α : Type} [DecidableEq α] {d : α} {m : SMap α} (k : Nat) (v : α) (h : F.map d m) : F.map d (SMap.set d m k v) := by
  cases F
  · trivial
  · exact SMap.set_wf d k v h
  · trivial

theorem Form.map_filter {α : Type} [DecidableEq α] {d : α} {m : SMap α} (p : Nat × α → Bool) (h : F.map d m) : F.map d (m.filter p) := by
  cases F
  · trivial
  · exact SMap.wf_filter p h
  · trivial

/-- A run of writes to a map keeps its form. -/
theorem Form.map_foldl_set {α β : Type} [DecidableEq α] {d : α} {m : SMap α} (key : β → Nat) (val : SMap α → β → α) (l : List β) (h : F.map d m) :
    F.map d (l.foldl (fun m b => SMap.set d m (key b) (val m b)) m) := by
  induction l generalizing m with
  | nil => exact h
  | cons b rest ih => exact ih (Form.map_set _ _ h)

theorem tableOf_length (bs : List Byte) : (tableOf bs).length = 16 := by simp [tableOf]

end Sys2Proof.Machine
end

section
/-! The array and its queue: what they do keeps the form of the accumulator store, the weight planes and the tables (O6). -/
namespace Sys2Proof.Machine
open Sys2Proof
variable {F : Form}

/-- A queued MTBL holds a whole table (R177). -/
def MxItem.Formed (F : Form) (it : MxItem) : Prop := ∀ o t, it.ins = .mtbl o t → F.table it.tbl

/-- The tables of an array, and those of the MTBLs of its queue and of its parked work. -/
def Mx.Tabled (F : Form) (m : Mx) : Prop :=
  F.table m.t0 ∧ F.table m.t1 ∧ (∀ it ∈ m.items, it.Formed F) ∧ ∀ it ∈ m.parked, it.Formed F

/-- The form of an array: of its stores and of its tables. -/
def Mx.Formed (F : Form) (m : Mx) : Prop :=
  F.map .zero m.acc ∧ F.map .zeroCell m.w0 ∧ F.map .zeroCell m.w1 ∧ m.Tabled F

/-- An item that names no table is formed, whatever stands in its place. -/
theorem MxItem.Formed.of_ne {it : MxItem} (h : ∀ o t, it.ins ≠ .mtbl o t) : it.Formed F := fun o t e => absurd e (h o t)

theorem MxItem.formed_map {l : List MxItem} {f : MxItem → MxItem} (hf : ∀ it, it.Formed F → (f it).Formed F)
    (h : ∀ it ∈ l, it.Formed F) : ∀ it ∈ l.map f, it.Formed F := by
  intro it hit
  obtain ⟨j, hj, rfl⟩ := List.mem_map.mp hit
  exact hf j (h j hj)

theorem MxItem.formed_filter {l : List MxItem} (p : MxItem → Bool) (h : ∀ it ∈ l, it.Formed F) : ∀ it ∈ l.filter p, it.Formed F :=
  fun it hit => h it (List.mem_of_mem_filter hit)

theorem MxItem.formed_append {l l' : List MxItem} (h : ∀ it ∈ l, it.Formed F) (h' : ∀ it ∈ l', it.Formed F) :
    ∀ it ∈ l ++ l', it.Formed F := fun it hit => (List.mem_append.mp hit).elim (h it) (h' it)

theorem MxItem.formed_set {l : List MxItem} {i : Nat} {x : MxItem} (h : ∀ it ∈ l, it.Formed F) (hx : x.Formed F) :
    ∀ it ∈ l.set i x, it.Formed F := fun it hit => (List.mem_or_eq_of_mem_set hit).elim (h it) (fun e => e ▸ hx)

theorem MxItem.formed_nil : ∀ it ∈ ([] : List MxItem), it.Formed F := fun _ h => nomatch h

theorem MxItem.formed_one {x : MxItem} (hx : x.Formed F) : ∀ it ∈ [x], it.Formed F := fun _ h => List.mem_singleton.mp h ▸ hx

namespace Mx.Formed
variable {m : Mx}

theorem tabled (h : m.Formed F) : m.Tabled F := h.2.2.2
theorem items (h : m.Formed F) : ∀ it ∈ m.items, it.Formed F := h.tabled.2.2.1
theorem parked (h : m.Formed F) : ∀ it ∈ m.parked, it.Formed F := h.tabled.2.2.2

/-- The form depends on the queue only through its items. -/
theorem withItems {l : List MxItem} (h : m.Formed F) (hl : ∀ it ∈ l, it.Formed F) : ({ m with items := l } : Mx).Formed F := by
  obtain ⟨ha, h0, h1, ht0, ht1, -, hp⟩ := h
  exact ⟨ha, h0, h1, ht0, ht1, hl, hp⟩

theorem withParked {l : List MxItem} (h : m.Formed F) (hl : ∀ it ∈ l, it.Formed F) : ({ m with parked := l } : Mx).Formed F := by
  obtain ⟨ha, h0, h1, ht0, ht1, hi, -⟩ := h
  exact ⟨ha, h0, h1, ht0, ht1, hi, hl⟩

theorem withTables {t0 t1 : List (BitVec 16)} (h : m.Formed F) (ht0 : F.table t0) (ht1 : F.table t1) :
    ({ m with t0 := t0, t1 := t1 } : Mx).Formed F := by
  obtain ⟨ha, h0, h1, -, -, hi, hp⟩ := h
  exact ⟨ha, h0, h1, ht0, ht1, hi, hp⟩

theorem withStores {acc : SMap AccEl} {w0 w1 : SMap EForm} (h : m.Tabled F) (ha : F.map .zero acc) (h0 : F.map .zeroCell w0)
    (h1 : F.map .zeroCell w1) : ({ m with acc := acc, w0 := w0, w1 := w1 } : Mx).Formed F := ⟨ha, h0, h1, h⟩

theorem reset : Mx.reset.Formed F :=
  ⟨Form.map_nil, Form.map_nil, Form.map_nil, Form.table_of_length rfl, Form.table_of_length rfl, MxItem.formed_nil, MxItem.formed_nil⟩

-- Elements and cells

theorem setEl (i : Nat) (e : AccEl) (h : m.Formed F) : (m.setEl i e).Formed F := by
  obtain ⟨ha, h0, h1, ht⟩ := h
  exact ⟨Form.map_set _ _ ha, h0, h1, ht⟩

theorem plane (b : Bool) (h : m.Formed F) : F.map .zeroCell (m.plane b) := by
  cases b
  · exact h.2.1
  · exact h.2.2.1

theorem setPlane (b : Bool) {w : SMap EForm} (h : m.Formed F) (hw : F.map .zeroCell w) : (m.setPlane b w).Formed F := by
  obtain ⟨ha, h0, h1, ht⟩ := h
  cases b
  · exact ⟨ha, hw, h1, ht⟩
  · exact ⟨ha, h0, hw, ht⟩

theorem foldl {α : Type} {f : Mx → α → Mx} (hf : ∀ {m : Mx} (a : α), m.Formed F → (f m a).Formed F) (l : List α) (h : m.Formed F) :
    (l.foldl f m).Formed F := by
  induction l generalizing m with
  | nil => exact h
  | cons a rest ih => exact ih (hf a h)

theorem stick (b : BitVec 8) (h : m.Formed F) : (m.stick b).Formed F := h

theorem applyRow (r : RowWork) (h : m.Formed F) : (m.applyRow r).Formed F := h.foldl (fun _ h => (h.setEl _ _).stick _) _

theorem clearRow (row semi : Nat) (h : m.Formed F) : (m.clearRow row semi).Formed F := h.foldl (fun _ h => h.setEl _ _) _

theorem landRows (p : RowWork → Bool) (h : m.Formed F) : (m.landRows p).Formed F := foldl (fun r h => h.applyRow r) _ h

theorem landRow (i : Nat) (h : m.Formed F) : (m.landRow i).Formed F := by
  unfold Mx.landRow
  split
  · exact h
  · exact foldl (fun r h => h.applyRow r) _ h

-- The queue

theorem overwrite (hold : Bool) (g : Nat) (mask : BitVec 32) (h : m.Formed F) : (m.overwrite hold g mask).Formed F :=
  h.withItems (MxItem.formed_map (fun _ hit => hit) h.items)

theorem setItem (i : Nat) {it : MxItem} (h : m.Formed F) (hit : it.Formed F) : (m.setItem i it).Formed F :=
  h.withItems (MxItem.formed_set h.items hit)

/-- A queued MTBL enters with a whole table. -/
theorem enqueue (t : Nat) {i : Instr} (xa xn xn1 : Word) {tbl : List (BitVec 16)} (ar : BitVec 2)
    (hi : ∀ o b, i = .mtbl o b → F.table tbl) (h : m.Formed F) : (m.enqueue t i xa xn xn1 tbl ar).Formed F :=
  h.withItems (MxItem.formed_append h.items (MxItem.formed_one hi))

theorem requeue (t : Nat) (h : m.Formed F) : (m.requeue t).Formed F := by
  have hi := h.items
  unfold Mx.requeue
  have start : ({ m with items := [] } : Mx).Formed F := h.withItems MxItem.formed_nil
  generalize ({ m with items := [] } : Mx) = m0 at start
  generalize m.items = l at hi
  induction l generalizing m0 with
  | nil => exact start
  | cons it rest ih =>
    have hit : it.Formed F := hi it (by simp)
    refine ih _ ?_ (fun j hj => hi j (by simp [hj]))
    dsimp only
    split
    · exact start.withItems (MxItem.formed_append start.items (MxItem.formed_one hit))
    · exact start.withItems (MxItem.formed_append start.items (MxItem.formed_one hit))

theorem keepRows (rows : List Nat) (h : m.Formed F) : (m.keepRows rows).Formed F := by
  refine h.withItems (MxItem.formed_map (fun it hit => ?_) h.items)
  split
  · split
    · exact hit
    · exact hit
  · exact hit

theorem clearRows (rows : List Nat) (semi : Nat) (h : m.Formed F) : (m.clearRows rows semi).Formed F :=
  foldl (fun r h => h.clearRow r semi) _ (h.keepRows rows)

/-- An entry of a matrix record that is an MTBL has the table of its 32 bytes (R195). -/
theorem itemOf_formed {bs : List Byte} {tail : BitVec 32} {ardom : BitVec 2} {t0 t1 : List (BitVec 16)} {seq : Nat} {it : MxItem}
    (h : itemOf bs tail ardom t0 t1 seq = some it) : it.Formed F := by
  unfold itemOf at h
  obtain ⟨i, -, rfl⟩ := Option.map_eq_some_iff.mp h
  intro o t hi
  dsimp only at hi ⊢
  subst hi
  exact Form.table_of_length (tableOf_length _)

theorem restore_tabled (bs : List Byte) (ardom : BitVec 2) (h : m.Tabled F) : (m.restore bs ardom).Tabled F := by
  obtain ⟨-, -, hi, -⟩ := h
  refine ⟨Form.table_of_length (tableOf_length (bs.drop 0x20)), Form.table_of_length (tableOf_length (bs.drop 0x40)), hi, fun it hit => ?_⟩
  obtain ⟨i, -, hi⟩ := List.mem_filterMap.mp hit
  exact itemOf_formed hi

theorem restore (bs : List Byte) (ardom : BitVec 2) (h : m.Formed F) : (m.restore bs ardom).Formed F :=
  ⟨h.1, h.2.1, h.2.2.1, restore_tabled bs ardom h.tabled⟩

theorem launch (h : m.Formed F) : m.launch.Formed F := withStores (m := Mx.reset) reset.tabled h.1 h.2.1 h.2.2.1

end Mx.Formed

end Sys2Proof.Machine
end

section
/-! One core: registers, landing, stores, the array and its gate, and what they leave of the forms of its memories (O6). -/
namespace Sys2Proof.Machine
open Sys2Proof
variable {F : Form}

/-- The form of a plane: of its bytes and of the occurrences of its tides. -/
def Plane.Formed (F : Form) (p : Plane) : Prop := F.bytes p.bytes ∧ F.map .none p.occ

/-- The form of a core's memories: scratchpad, hold with its bit errors, planes, array, and the tables of a suspended task's array. -/
def Core.Formed (F : Form) (k : Core) : Prop :=
  F.mem k.sp ∧ F.kept k.hold ∧ F.map 0 k.holdErr ∧ (∀ p ∈ k.planes, p.Formed F) ∧ k.mx.Formed F ∧
    ∀ u, k.suspended = some u → u.mx.Tabled F

theorem Plane.formed_empty : Plane.empty.Formed F := ⟨Form.bytes_of_wf rfl, Form.map_nil⟩

namespace Core.Formed
variable {k : Core}

-- The parts, and a core with one of them replaced

theorem sp (h : k.Formed F) : F.mem k.sp := h.1
theorem hold (h : k.Formed F) : F.kept k.hold := h.2.1
theorem holdErr (h : k.Formed F) : F.map 0 k.holdErr := h.2.2.1
theorem planes (h : k.Formed F) : ∀ p ∈ k.planes, p.Formed F := h.2.2.2.1
theorem mx (h : k.Formed F) : k.mx.Formed F := h.2.2.2.2.1
theorem suspended (h : k.Formed F) : ∀ u, k.suspended = some u → u.mx.Tabled F := h.2.2.2.2.2

theorem withSp {m : PMem} (h : k.Formed F) (hm : F.mem m) : ({ k with sp := m } : Core).Formed F := ⟨hm, h.2⟩

theorem withHold {m : PMem} (h : k.Formed F) (hm : F.kept m) : ({ k with hold := m } : Core).Formed F := ⟨h.1, hm, h.2.2⟩

theorem withHoldErr {m : SMap (BitVec 2)} (h : k.Formed F) (hm : F.map 0 m) : ({ k with holdErr := m } : Core).Formed F :=
  ⟨h.1, h.2.1, hm, h.2.2.2⟩

theorem withPlanes {ps : Vector Plane 2} (h : k.Formed F) (hp : ∀ p ∈ ps, p.Formed F) : ({ k with planes := ps } : Core).Formed F :=
  ⟨h.1, h.2.1, h.2.2.1, hp, h.2.2.2.2⟩

theorem withMx {m : Mx} (h : k.Formed F) (hm : m.Formed F) : ({ k with mx := m } : Core).Formed F :=
  ⟨h.1, h.2.1, h.2.2.1, h.2.2.2.1, hm, h.2.2.2.2.2⟩

theorem withSuspended {u : Option Suspended} (h : k.Formed F) (hu : ∀ v, u = some v → v.mx.Tabled F) :
    ({ k with suspended := u } : Core).Formed F := ⟨h.1, h.2.1, h.2.2.1, h.2.2.2.1, h.2.2.2.2.1, hu⟩

theorem foldl {α : Type} {f : Core → α → Core} (hf : ∀ {k : Core} (a : α), k.Formed F → (f k a).Formed F) (l : List α) (h : k.Formed F) :
    (l.foldl f k).Formed F := by
  induction l generalizing k with
  | nil => exact h
  | cons a rest ih => exact ih (hf a h)

theorem reset : Core.reset.Formed F :=
  ⟨F.mem_stable.empty, F.kept_stable.empty, Form.map_nil, fun p hp => by rw [(Vector.mem_replicate.mp hp).2]; exact Plane.formed_empty,
   Mx.Formed.reset, fun _ h => nomatch h⟩

-- Memories

/-- Merging bytes into a granule of a core memory keeps its form. -/
theorem merge (hold : Bool) (g : Nat) (v : Gran) (mask : BitVec 32) (q : Option Bool) (h : k.Formed F) :
    (k.setMem hold ((k.mem hold).mergeGran g v mask q)).Formed F := by
  cases hold
  · exact h.withSp (F.mem_stable.mergeGran g v mask q h.sp)
  · exact h.withHold (F.kept_stable.mergeGran g v mask q h.hold)

theorem performHome (hold : Bool) (g : Nat) (v : Gran) (mask : BitVec 32) (q : Option Bool) (h : k.Formed F) :
    (k.performHome hold g v mask q).Formed F := by
  have hs := F.kept_stable
  unfold Core.performHome
  extract_lets errs m0 m1 logs
  split
  · exact h.merge hold g v mask q
  · have h0 : F.kept m0 := by
      unfold m0
      split
      · exact hs.mergeGran _ _ _ _ h.hold
      · exact h.hold
    have h1 : F.kept m1 := hs.mergeGran _ _ _ _ h0
    refine ⟨h.sp, ?_, Form.map_set _ _ h.holdErr, h.2.2.2⟩
    dsimp only
    split
    · exact hs.setPoison _ _ h1
    · exact h1

theorem flush (p : Buffered → Bool) (h : k.Formed F) : (k.flush p).Formed F :=
  foldl (k := { k with buf := mayStay p k.buf }) (fun b h => h.performHome b.hold b.gran b.val b.mask b.poison) _ h

theorem flushAll (h : k.Formed F) : k.flushAll.Formed F := h.flush _

-- Landing

theorem writeDest (d : PDest) (v : Gran) (p : Bool) (h : k.Formed F) : (k.writeDest d v p).Formed F := by
  unfold Core.writeDest
  cases d with
  | x n =>
    dsimp only
    split <;> exact h
  | gran hold g mask =>
    have noted (l : List Nat) : ({ k with notes := l } : Core).Formed F := h
    exact ((noted _).flush _).performHome _ _ _ _ _
  | cell b i => exact h.withMx (h.mx.setPlane b (Form.map_set _ _ (h.mx.plane b)))
  | acc i => exact h.withMx (h.mx.setEl _ _)
  | _ => exact h

theorem landNow (d : PDest) (v : Gran) (p : Bool) (h : k.Formed F) : (k.landNow d v p).Formed F :=
  writeDest (k := { k with pend := supersede k.pend d }) d v p h

theorem land (d : PDest) (v : Gran) (p : Bool) (bound : Nat) (h : k.Formed F) : (k.land d v p bound).Formed F := by
  unfold Core.land
  split
  · exact h.landNow d v p
  · exact h

theorem landAt (i : Nat) (h : k.Formed F) : (k.landAt i).Formed F := by
  unfold Core.landAt
  split
  · exact h
  · exact writeDest _ _ _ h

theorem landAll (h : k.Formed F) : k.landAll.Formed F :=
  foldl (k := { k with pend := [] }) (fun e h => h.writeDest e.dest e.val e.poison) _ h

theorem writeX (n : Reg) (v : XW) (bound : Nat) (h : k.Formed F) : (k.writeX n v bound).Formed F := by
  unfold Core.writeX
  split
  · exact h
  · exact h.land _ _ _ _

theorem writeXm (n : Reg) (v : XW) (bound : Nat) (h : k.Formed F) : (k.writeXm n v bound).Formed F := by
  unfold Core.writeXm
  split <;> exact h

theorem writeK (n : BitVec 3) (v : BitVec 128) (p : Bool) (bound : Nat) (h : k.Formed F) : (k.writeK n v p bound).Formed F := by
  unfold Core.writeK
  split
  · exact h
  · exact h.land _ _ _ _

theorem store (hold : Bool) (g : Nat) (v : Gran) (mask : BitVec 32) (q : Option Bool) (cls : BitVec 4) (now : Word) (late : Bool)
    (h : k.Formed F) : (k.store hold g v mask q cls now late).Formed F := by
  have marked := h.withMx (h.mx.overwrite hold g mask)
  unfold Core.store
  dsimp only
  split
  · exact marked
  · exact performHome (k := { k with pend := supersede k.pend (.gran hold g mask), mx := k.mx.overwrite hold g mask }) hold g v mask q marked

-- Semaphores, berths, planes and injection

theorem modSem (n : BitVec 6) (f : Sem → Sem) (h : k.Formed F) : (k.modSem n f).Formed F := h
theorem modBerth (n : BitVec 5) (f : Berth → Berth) (h : k.Formed F) : (k.modBerth n f).Formed F := h
theorem countRecord (h : k.Formed F) : k.countRecord.Formed F := h

theorem passBerths (ns : List (BitVec 5)) (h : k.Formed F) : (k.passBerths ns).Formed F := h.foldl (fun _ h => h.modBerth _ _) _

theorem modPlane (b : Bool) {f : Plane → Plane} (hf : ∀ p, p.Formed F → (f p).Formed F) (h : k.Formed F) : (k.modPlane b f).Formed F := by
  unfold Core.modPlane
  split
  · exact h.withPlanes fun p hp => (Vector.mem_or_eq_of_mem_set hp).elim (h.planes p) (fun e => e ▸ hf _ (h.planes _ (Vector.getElem_mem _)))
  · exact h.withPlanes fun p hp => (Vector.mem_or_eq_of_mem_set hp).elim (h.planes p) (fun e => e ▸ hf _ (h.planes _ (Vector.getElem_mem _)))

theorem injected (m : InjMem) (g : Nat) (bad : Bool) (h : k.Formed F) : (k.injected m g bad).Formed F := by
  unfold Core.injected
  split
  · exact h.withHold (F.kept_stable.setPoison _ _ h.hold)
  · exact h.withSp (F.mem_stable.setPoison _ _ h.sp)
  · exact h.withMx (h.mx.setEl _ _)
  all_goals exact h

theorem injectRead (m : InjMem) (g : Nat) (h : k.Formed F) : (k.injectRead m g).1.Formed F := by
  unfold Core.injectRead
  split
  · exact h
  · dsimp only
    split
    · exact h
    · exact injected (k := { k with gen := _, inj := _ }) m g _ h

theorem injectReads (m : InjMem) (gs : List Nat) (h : k.Formed F) : (k.injectReads m gs).Formed F := h.foldl (fun g h => h.injectRead m g) _

-- The array

theorem landDueWork (h : k.Formed F) : k.landDueWork.Formed F := h.withMx (h.mx.landRows _)

theorem landBefore (it : MxItem) (h : k.Formed F) : (k.landBefore it).Formed F := h.withMx (h.mx.landRows _)

theorem mx_foldl_stick {α : Type} (f : α → BitVec 8) (l : List α) {m : Mx} (h : m.Formed F) : (l.foldl (fun m o => m.stick (f o)) m).Formed F :=
  h.foldl (fun _ h => h.stick _) _

/-- A drain that starts leaves its item with the table it had. -/
theorem startDrain {it : MxItem} (hold clr : Bool) (h : k.Formed F) (hit : it.Formed F) :
    (k.startDrain it hold clr).1.Formed F ∧ (k.startDrain it hold clr).2.Formed F := by
  refine ⟨?_, hit⟩
  unfold Core.startDrain
  extract_lets mcfg breg mode be sp base stride rows outs pends scales mx1 mx2 hit' mx3 k1
  have h1 : mx1.Formed F := mx_foldl_stick _ _ h.mx
  have h2 : mx2.Formed F := by
    unfold mx2
    split
    · exact h1.clearRows _ _
    · exact h1
  have h3 : mx3.Formed F := by
    unfold mx3
    split <;> exact h2
  exact h.withMx h3

theorem startItem (i : Nat) (h : k.Formed F) : (k.startItem i).Formed F := by
  unfold Core.startItem
  split
  · exact h.landDueWork
  · rename_i it hi
    have hit : it.Formed F := h.mx.items it (List.mem_of_getElem? hi)
    have hk := h.landBefore it
    generalize k.landBefore it = k0 at hk
    have done : ({ it with started := true, mcfg := k0.mx.mcfg } : MxItem).Formed F := hit
    have drained (hold clr : Bool) := (hk.injectReads .acc it.elements).startDrain hold clr hit
    dsimp only
    split
    · exact hk.withMx (Mx.Formed.setItem (m := { k0.mx with mcfg := _ }) i hk.mx done)
    · rename_i o t e
      have table := hit o t e
      obtain ⟨ht0, ht1, -⟩ := hk.mx.tabled
      refine hk.withMx (Mx.Formed.setItem i ?_ done)
      split
      · exact hk.mx.withTables ht0 table
      · exact hk.mx.withTables table ht1
    · exact hk.withMx (Mx.Formed.setItem (m := { k0.mx with act := _ }) i hk.mx done)
    · exact hk.withMx ((hk.mx.clearRows _ _).setItem i done)
    · exact (drained _ _).1.withMx ((drained _ _).1.mx.setItem i (drained _ _).2)
    · exact (drained _ _).1.withMx ((drained _ _).1.mx.setItem i (drained _ _).2)
    · rename_i hne _ _ _ _
      exact hk.withMx ((hk.mx.stick _).setItem i (.of_ne fun o t e => hne o t e))

theorem rowDraws (it : MxItem) (h : k.Formed F) : (k.rowDraws it).Formed F := by
  unfold Core.rowDraws
  split
  · exact h.injectReads _ _
  · exact h.injectReads _ _
  · exact h

theorem enterRow (i : Nat) (late : Bool) (h : k.Formed F) : (k.enterRow i late).Formed F := by
  unfold Core.enterRow
  dsimp only
  split
  · exact h.landDueWork
  · rename_i it hi
    have hit : it.Formed F := h.landDueWork.mx.items it (List.mem_of_getElem? hi)
    have hk := h.landDueWork.rowDraws it
    generalize k.landDueWork.rowDraws it = k0 at hk
    have advanced {m0 : Mx} (hm : m0.Formed F) (st : BitVec 8) : ((m0.stick st).setItem i it.advance).Formed F := (hm.stick st).setItem i hit
    have entered {m0 : Mx} (hm : m0.Formed F) (st : BitVec 8) (c : Prop) [Decidable c] (l : List RowWork) (w : RowWork) :
        (if c then { (m0.stick st).setItem i it.advance with work := l } else ((m0.stick st).setItem i it.advance).applyRow w).Formed F := by
      split
      · exact advanced hm st
      · exact (advanced hm st).applyRow w
    split
    · exact hk.withMx (entered hk.mx _ _ _ _)
    · split
      · exact hk.withMx (entered hk.mx _ _ _ _)
      · exact hk.withMx (entered hk.mx _ _ _ _)
    · split
      · exact hk.withMx (entered hk.mx _ _ _ _)
      · rename_i v p rest e
        have popped : ({ k0.mx with hoist := rest, popAt := k0.mt, popped := k0.popsNow + 1 } : Mx).Formed F := hk.mx
        exact hk.withMx (entered popped _ _ _ _)

theorem retireItems (h : k.Formed F) : k.retireItems.Formed F := h.withMx (h.mx.withItems (MxItem.formed_filter _ h.mx.items))

theorem hasten (spans : List (Nat × Nat)) (due : Nat) (reads : List (Nat × Nat)) (h : k.Formed F) : (k.hasten spans due reads).Formed F := by
  refine h.withMx (h.mx.withItems (MxItem.formed_map (fun it hit => ?_) h.mx.items))
  split <;> exact hit

theorem hastenAwaited (own : Bool) (h : k.Formed F) : (k.hastenAwaited own).Formed F := by
  unfold Core.hastenAwaited
  extract_lets qs spans due reads
  split
  · exact h.hasten _ _ _
  · exact h

-- The gate and parking

theorem gateEnds (g : Gate) (h : k.Formed F) : (k.gateEnds g).Formed F := h

theorem gateCancel (h : k.Formed F) : k.gateCancel.Formed F := by
  unfold Core.gateCancel
  split <;> exact h

theorem gateEffect (h : k.Formed F) : k.gateEffect.Formed F := by
  unfold Core.gateEffect
  split
  · dsimp only
    split
    · exact h
    · exact h.withMx (Mx.Formed.withStores h.mx.tabled Form.map_nil Form.map_nil Form.map_nil)
  · exact h

theorem gateLive (h : k.Formed F) : k.gateLive.Formed F := by
  unfold Core.gateLive
  split
  · dsimp only
    refine h.withMx ?_
    split
    · exact Mx.Formed.requeue _ h.mx
    · exact h.mx
  · exact h

theorem park (h : k.Formed F) : k.park.Formed F := by
  have hm : k.landAll.mx.landAllWork.Formed F := h.landAll.mx.landRows _
  refine h.landAll.withMx ((hm.withItems MxItem.formed_nil).withParked (MxItem.formed_map (fun it hit => hit) (MxItem.formed_filter _ hm.items)))

theorem unpark (h : k.Formed F) : k.unpark.Formed F := by
  have hm := h.gateLive.mx
  have taken : ∀ it ∈ k.gateLive.mx.parked.map (fun it => it.absolute k.gateLive.mt), it.Formed F :=
    MxItem.formed_map (fun it hit => hit) hm.parked
  obtain ⟨ha, h0, h1, ht0, ht1, hi, -⟩ := hm
  exact h.gateLive.withMx ⟨ha, h0, h1, ht0, ht1, MxItem.formed_append hi taken, MxItem.formed_nil⟩

theorem dropArray (h : k.Formed F) : k.dropArray.Formed F := by
  unfold Core.dropArray
  have hm : k.gateLive.landAll.mx.landAllWork.Formed F := h.gateLive.landAll.mx.landRows _
  have dropped := h.gateLive.landAll.withMx ((hm.withItems MxItem.formed_nil).withParked MxItem.formed_nil)
  dsimp only
  split <;> exact dropped

end Core.Formed

end Sys2Proof.Machine
end

section
/-! The package: what its parts keep of the forms (O6), and the shared operations on cores and on the package, file by file of the model. -/
namespace Sys2Proof.Machine
open Sys2Proof
variable {F : Form}

/-- The form of a state: of HBM, of the memories of hosts and peers, of the package's sparse maps, and of every core. -/
def State.Formed (F : Form) (s : State) : Prop :=
  F.mem s.hbm ∧ F.kept s.hostMem ∧ F.kept s.peerMem ∧ F.map 0 s.pages ∧ F.map 0 s.frames ∧ F.map 0 s.handles ∧ F.map 0 s.vfs ∧
    F.map [] s.ringTables ∧ F.map ⟨0, 0, 0⟩ s.inj ∧ F.map false s.tele.filters ∧ ∀ k ∈ s.cores, k.Formed F

-- Operations on a core ------------------------------------------------------------------------------------------------------

/-- The counts of pop landings hold no table. -/
theorem Mx.Formed.age {m : Mx} (h : m.Formed F) : m.age.Formed F := h

namespace Core.Formed
variable {k : Core}

theorem taskCycle (h : k.Formed F) : k.taskCycle.Formed F := by
  unfold Core.taskCycle
  exact ⟨h.sp, h.hold, h.holdErr, h.planes, h.mx.age, h.suspended⟩

theorem slipCycle (h : k.Formed F) : k.slipCycle.Formed F := by
  unfold Core.slipCycle
  exact ⟨h.sp, h.hold, h.holdErr, h.planes, h.mx.age, h.suspended⟩

theorem restCycle (h : k.Formed F) : k.restCycle.Formed F := by
  unfold Core.restCycle
  exact ⟨h.sp, h.hold, h.holdErr, h.planes, h.mx.age, h.suspended⟩

theorem flip (h : k.Formed F) : k.flip.Formed F := h
theorem snapRestore (bs : List Byte) (h : k.Formed F) : (k.snapRestore bs).Formed F := by
  unfold Core.snapRestore
  exact ⟨h.sp, h.hold, h.holdErr, h.planes, h.mx, h.suspended⟩

theorem eret (epc pc : Word) (h : k.Formed F) : (k.eret epc pc).Formed F := h.unpark
theorem freezeRow (f : Freeze) (w : Wait) (now : Word) (h : k.Formed F) : (k.freezeRow f w now).Formed F := h.slipCycle
theorem addCmd (q : Cmd) (now : Word) (h : k.Formed F) : (k.addCmd q now).Formed F := h
theorem setCmd (q : Cmd) (h : k.Formed F) : (k.setCmd q).Formed F := h

theorem boundary (h : k.Formed F) : k.boundary.Formed F := by
  unfold Core.boundary
  split
  · exact h.flip
  · exact h

theorem freezeOn (w : Wait) (slot : Nat) (now : Word) (cyc : Nat) (h : k.Formed F) : (k.freezeOn w slot now cyc).Formed F := by
  unfold Core.freezeOn
  extract_lets since first _ k1
  have h1 : k1.Formed F := h.slipCycle
  clear_value k1
  split
  · exact h1
  · exact h1.gateLive
  · exact h1
  · exact h1
  · exact h1
  · exact h1.hastenAwaited _
  · exact h1.hastenAwaited _

theorem exitTask (h : k.Formed F) : k.exitTask.Formed F := by
  refine boundary ?_
  exact h.flushAll

/-- The phase numbers of a core and of its suspended task say nothing of tables. -/
theorem phaseChange (key : Word) (l : Level) (h : k.Formed F) : (k.phaseChange key l).Formed F := by
  unfold Core.phaseChange
  extract_lets _ k1
  have h1 : k1.Formed F := by
    unfold k1
    split <;> exact h
  split
  · rename_i u hu
    split
    · exact h1.withSuspended fun v hv => by cases hv; exact h1.suspended u hu
    · exact h1
  · exact h1

theorem writeDom (l : Level) (v : Word) (h : k.Formed F) : (k.writeDom l v).Formed F := by
  unfold Core.writeDom
  extract_lets v'
  split <;> exact h

theorem writeCsr (a : BitVec 12) (v : Word) (h : k.Formed F) : (k.writeCsr a v).Formed F := by
  unfold Core.writeCsr
  extract_lets r n
  split
  · exact h
  · split
    · exact h
    · clear_value n
      split
      case h_17 => exact h.writeDom _ _
      case h_18 => exact h.writeDom _ _
      case h_19 => exact h.writeDom _ _
      all_goals exact h

theorem recordHits (task : Nat) (b : BitVec 16) (h : k.Formed F) : (k.recordHits task b).Formed F := by
  unfold Core.recordHits
  split
  · exact h
  · split
    · exact h
    · split
      · rename_i u hu
        split
        · exact h.withSuspended fun v hv => by cases hv; exact h.suspended u hu
        · exact h
      · exact h

theorem writeRecord (q : Cmd) (st : Status) (h : k.Formed F) : (k.writeRecord q st).Formed F := by
  unfold Core.writeRecord
  split
  · exact h.withSp (F.mem_stable.mergeGran _ _ _ _ h.sp)
  · exact h

theorem runMx (n : Nat) (h : k.Formed F) : (k.runMx n).Formed F := by
  induction n generalizing k with
  | zero => exact h
  | succ n ih =>
    unfold Core.runMx
    split
    · exact ih (h.startItem _)
    · split
      · exact h
      · split
        · exact h
        · split
          · exact ih ((h.passBerths _).enterRow _ _)
          · exact h
    · exact h

theorem shadeRow (as : List Action) (h : k.Formed F) : (k.shadeRow as).Formed F := by
  unfold Core.shadeRow
  split
  · split
    · rename_i it hi
      have hit : it.Formed F := h.mx.items it (List.mem_of_getElem? hi)
      exact h.withMx (h.mx.setItem _ hit)
    · exact h
  · exact h

end Core.Formed

-- A state and its parts -------------------------------------------------------------------------------------------------------

namespace State.Formed
variable {s : State}

theorem hbm (h : s.Formed F) : F.mem s.hbm := h.1
theorem hostMem (h : s.Formed F) : F.kept s.hostMem := h.2.1
theorem peerMem (h : s.Formed F) : F.kept s.peerMem := h.2.2.1
theorem pages (h : s.Formed F) : F.map 0 s.pages := h.2.2.2.1
theorem frames (h : s.Formed F) : F.map 0 s.frames := h.2.2.2.2.1
theorem handles (h : s.Formed F) : F.map 0 s.handles := h.2.2.2.2.2.1
theorem vfs (h : s.Formed F) : F.map 0 s.vfs := h.2.2.2.2.2.2.1
theorem ringTables (h : s.Formed F) : F.map [] s.ringTables := h.2.2.2.2.2.2.2.1
theorem inj (h : s.Formed F) : F.map ⟨0, 0, 0⟩ s.inj := h.2.2.2.2.2.2.2.2.1
theorem filters (h : s.Formed F) : F.map false s.tele.filters := h.2.2.2.2.2.2.2.2.2.1
theorem cores (h : s.Formed F) : ∀ k ∈ s.cores, k.Formed F := h.2.2.2.2.2.2.2.2.2.2

theorem withHbm {m : PMem} (h : s.Formed F) (hm : F.mem m) : ({ s with hbm := m } : State).Formed F := ⟨hm, h.2⟩
theorem withHostMem {m : PMem} (h : s.Formed F) (hm : F.kept m) : ({ s with hostMem := m } : State).Formed F := ⟨h.1, hm, h.2.2⟩
theorem withPeerMem {m : PMem} (h : s.Formed F) (hm : F.kept m) : ({ s with peerMem := m } : State).Formed F :=
  ⟨h.1, h.2.1, hm, h.2.2.2⟩
theorem withPages {m : SMap (BitVec 64)} (h : s.Formed F) (hm : F.map 0 m) : ({ s with pages := m } : State).Formed F :=
  ⟨h.hbm, h.hostMem, h.peerMem, hm, h.2.2.2.2⟩
theorem withInj {m : SMap Injector} (h : s.Formed F) (hm : F.map ⟨0, 0, 0⟩ m) : ({ s with inj := m } : State).Formed F :=
  ⟨h.hbm, h.hostMem, h.peerMem, h.pages, h.frames, h.handles, h.vfs, h.ringTables, hm, h.filters, h.cores⟩
theorem withCores {ks : Vector Core 2048} (h : s.Formed F) (hk : ∀ k ∈ ks, k.Formed F) : ({ s with cores := ks } : State).Formed F :=
  ⟨h.hbm, h.hostMem, h.peerMem, h.pages, h.frames, h.handles, h.vfs, h.ringTables, h.inj, h.filters, hk⟩

theorem core (c : CoreId) (h : s.Formed F) : (s.core c).Formed F := h.cores _ (Vector.getElem_mem _)

theorem setCore (c : CoreId) {k : Core} (h : s.Formed F) (hk : k.Formed F) : (s.setCore c k).Formed F :=
  h.withCores fun _ hj => (Vector.mem_or_eq_of_mem_set hj).elim (h.cores _) (fun e => e ▸ hk)

theorem modCore (c : CoreId) {f : Core → Core} (h : s.Formed F) (hf : ∀ {k : Core}, k.Formed F → (f k).Formed F) :
    (s.modCore c f).Formed F := h.setCore c (hf (h.core c))

theorem mapCores {f : Core → Core} (h : s.Formed F) (hf : ∀ {k : Core}, k.Formed F → (f k).Formed F) :
    ({ s with cores := s.cores.map f } : State).Formed F :=
  h.withCores fun _ hj => by
    obtain ⟨k, hk, rfl⟩ := Vector.mem_map.mp hj
    exact hf (h.cores k hk)

theorem foldl {α : Type} {f : State → α → State} (hf : ∀ {s : State} (a : α), s.Formed F → (f s a).Formed F) (l : List α) (h : s.Formed F) :
    (l.foldl f s).Formed F := by
  induction l generalizing s with
  | nil => exact h
  | cons a rest ih => exact ih (hf a h)

-- Access and the torus

theorem chosen (h : s.Formed F) : s.chosen.Formed F := h
theorem postRecord (c : CoreId) (r : FwRecord) (h : s.Formed F) : (s.postRecord c r).Formed F := h.modCore c fun h => h.countRecord
theorem modPort (p : Port) (f : TorusPort → TorusPort) (h : s.Formed F) : (s.modPort p f).Formed F := h

theorem xmit (p : Packet) (h : s.Formed F) : (s.xmit p).Formed F := by
  unfold State.xmit
  split
  · exact h
  · split <;> exact h

theorem sendStrays (h : s.Formed F) : s.sendStrays.Formed F := foldl (s := { s with strays := [] }) (fun p h => h.xmit p) _ h

-- Barriers and completions

theorem phaseChange (key : Word) (l : Level) (h : s.Formed F) : (s.phaseChange key l).Formed F := h.mapCores fun h => h.phaseChange key l

theorem sendPhase (key : Word) (chip : BitVec 21) (h : s.Formed F) : (s.sendPhase key chip).Formed F :=
  xmit (s := { s with out := s.out ++ [OutMsg.phase chip key] }) _ h

theorem sendCount (key : Word) (n : BitVec 32) (h : s.Formed F) : (s.sendCount key n).Formed F :=
  xmit (s := { s with out := s.out ++ [OutMsg.count (s.groupRoot key) key n] }) _ h

theorem l3Decide (key : Word) (h : s.Formed F) : (s.l3Decide key).Formed F := by
  unfold State.l3Decide
  split
  · exact h
  · refine foldl (fun c h => h.sendPhase key c) _ (phaseChange (s := { s with l3 := _, bars := _ }) key .l3 h)

theorem arriveKey (key : Word) (l : Level) (h : s.Formed F) : (s.arriveKey key l).Formed F := by
  unfold State.arriveKey
  extract_lets n s1
  have h1 : s1.Formed F := h
  split
  · split
    · exact h1.l3Decide key
    · exact h1.sendCount key n
  · split
    · exact phaseChange (s := { s with bars := _ }) key l h
    · exact h1

theorem release (c : CoreId) (l : Level) (key : Word) (h : s.Formed F) : (s.release c l key).Formed F := by
  unfold State.release
  extract_lets k
  have hk : k.Formed F := (h.core c).flushAll
  split
  · exact h.setCore c hk
  · exact (h.setCore c hk).arriveKey key l

theorem arrive (c : CoreId) (l : Level) (h : s.Formed F) : (s.arrive c l).Formed F := by
  have hk := h.core c
  exact release c l _ (h.setCore c hk)

theorem arriveBits (c : CoreId) (b : BitVec 2) (h : s.Formed F) : (s.arriveBits c b).Formed F := by
  unfold State.arriveBits
  split
  · exact h
  · exact h.arrive c _

theorem countReleases (c : CoreId) (h : s.Formed F) : (s.countReleases c).Formed F := by
  have hk := h.core c
  exact foldl (fun (r : Release) h => h.arriveKey r.key r.lvl) _ (h.setCore c hk)

theorem makeArrivals (c : CoreId) (h : s.Formed F) : (s.makeArrivals c).Formed F := by
  have hk := h.core c
  exact countReleases c (foldl (fun (a : Arrival) h => h.arriveBits c a.lvl) _ (h.setCore c hk))

theorem arriveAll (c : CoreId) (h : s.Formed F) : (s.arriveAll c).Formed F := by
  have hk := h.core c
  exact countReleases c (foldl (fun (a : Arrival) h => h.arriveBits c a.lvl) _ (h.setCore c hk))

theorem arriveCmd (c : CoreId) (q : Cmd) (h : s.Formed F) : (s.arriveCmd c q).Formed F := by
  unfold State.arriveCmd
  split
  · exact h
  · rename_i l _
    extract_lets k k1
    have hk : k.Formed F := h.core c
    refine (h.setCore c ?_).release c l _
    unfold k1
    split
    · split <;> exact hk
    · split
      · rename_i u hu
        split
        · exact hk.withSuspended fun v hv => by cases hv; exact hk.suspended u hu
        · exact hk
      · exact hk

theorem semAdd (c : CoreId) (n : BitVec 6) (a : Int) (h : s.Formed F) : (s.semAdd c n a).Formed F := h.modCore c fun h => h

theorem returnWeights (c : CoreId) (h : s.Formed F) : (s.returnWeights c).Formed F := by
  have hk := h.core c
  exact foldl (fun (e : ExitWeight) h => h.semAdd _ _ _) _ (h.setCore c hk)

theorem endMigr (c : CoreId) (q : Cmd) (h : s.Formed F) : (s.endMigr c q).Formed F := by
  unfold State.endMigr
  extract_lets late
  have hl {t : State} (ht : t.Formed F) : (late t).Formed F := by
    unfold late
    extract_lets p
    split <;> exact ht
  split
  · exact hl h
  · exact hl (h.withPages (Form.map_foldl_set _ _ _ h.pages))
  · exact h

theorem complete (c : CoreId) (id : Nat) (st : Status) (h : s.Formed F) : (s.complete c id st).Formed F := by
  unfold State.complete
  extract_lets k
  split
  · exact h
  · rename_i q _
    extract_lets k1 s1
    have hk : k.Formed F := h.core c
    have h1 : k1.Formed F := Core.Formed.recordHits q.task q.hits (Core.Formed.writeRecord q st hk)
    exact (((h.endMigr c q).setCore c (h1.modSem _ _)).arriveCmd c q).returnWeights c

theorem abortOne (c : CoreId) (q : Cmd) (h : s.Formed F) : (s.abortOne c q).Formed F := by
  unfold State.abortOne
  extract_lets s1
  have h1 : s1.Formed F := h
  split
  · exact h
  · split
    · exact h.modCore c fun h => h.setCmd _
    · split
      · exact h1.modCore c fun h => h.setCmd _
      · exact h1.complete c _ _

theorem abortAll (c : CoreId) (mask : BitVec 16) (sel : Cmd → Bool) (h : s.Formed F) : (s.abortAll c mask sel).Formed F :=
  foldl (fun q h => h.abortOne c q) _ h

-- Marks, page entries, logs and draws

theorem modPart (p : BitVec 5) (f : Part → Part) (h : s.Formed F) : (s.modPart p f).Formed F := h
theorem countBytes (c : CoreId) (f : Part → Part) (h : s.Formed F) : (s.countBytes c f).Formed F := h
theorem askCopy (p : BitVec 5) (g : Nat) (h : s.Formed F) : (s.askCopy p g).Formed F := h
theorem orEntry (ia : Nat) (b : BitVec 64) (h : s.Formed F) : (s.orEntry ia b).Formed F := h.withPages (Form.map_set _ _ h.pages)

theorem noteCorrected (f : Nat) (key : BitVec 48) (inj hold : Bool) (h : s.Formed F) : (s.noteCorrected f key inj hold).Formed F := by
  unfold State.noteCorrected
  extract_lets t bits r
  split
  · exact h
  · exact ⟨h.hbm, h.hostMem, h.peerMem, h.pages, h.frames, h.handles, h.vfs, h.ringTables, h.inj,
      Form.map_foldl_set _ (fun _ _ => true) _ h.filters, h.cores⟩

theorem noteHold (c : CoreId) (g : Nat) (inj : Bool) (h : s.Formed F) : (s.noteHold c g inj).Formed F := h.noteCorrected _ _ _ _
theorem noteHbm (loc : Nat) (inj : Bool) (h : s.Formed F) : (s.noteHbm loc inj).Formed F := h.noteCorrected _ _ _ _

theorem flushNotes (c : CoreId) (h : s.Formed F) : (s.flushNotes c).Formed F := by
  unfold State.flushNotes
  split
  · exact h
  · exact foldl (fun g h => h.noteHold c g false) _ (h.modCore c fun h => h)

theorem samples (ia loc m : Nat) (write : Bool) (part : BitVec 5) (h : s.Formed F) : (s.samples ia loc m write part).Formed F := h
theorem sample (ia loc : Nat) (write : Bool) (part : BitVec 5) (h : s.Formed F) : (s.sample ia loc write part).Formed F := h
theorem sampleRun (ia loc n : Nat) (write : Bool) (part : BitVec 5) (h : s.Formed F) : (s.sampleRun ia loc n write part).Formed F :=
  foldl (fun _ h => h.samples _ _ _ _ _) _ h

theorem injectReads (c : CoreId) (m : InjMem) (gs : List Nat) (h : s.Formed F) : (s.injectReads c m gs).Formed F := by
  unfold State.injectReads
  split
  · exact h
  · refine foldl (fun g h => ?_) _ h
    have h1 := h.setCore c ((h.core c).injectRead m g)
    dsimp only
    split
    · exact h1.noteHold c g true
    · exact h1

theorem hbmHit (loc : Nat) (hit : Option Bool) (h : s.Formed F) : (s.hbmHit loc hit).Formed F := by
  unfold State.hbmHit
  split
  · exact h.withHbm (F.mem_stable.setPoison _ _ h.hbm)
  · exact h.noteHbm _ _
  · exact h

theorem injectHbm (part : BitVec 5) (loc : Nat) (h : s.Formed F) : (s.injectHbm part loc).Formed F := by
  unfold State.injectHbm
  split
  · exact h
  · extract_lets key j _ s1
    have h1 : s1.Formed F := by
      unfold s1
      split
      · exact (h.withInj (Form.map_set _ _ h.inj)).hbmHit _ _
      · exact h
    split
    · split
      · exact hbmHit _ _ (h1.modCore _ fun h => h)
      · exact h1
    · exact h1

theorem holdRead (c : CoreId) (g : Nat) (h : s.Formed F) : (s.holdRead c g).Formed F := by
  unfold State.holdRead
  refine injectReads c .hold [g] ?_
  split
  · exact h.noteHold c g false
  · exact h

theorem granuleReads (p : BitVec 5) (r : SnapRange) (a : Nat) (h : s.Formed F) : (s.granuleReads p r a).Formed F := by
  unfold State.granuleReads
  split
  · refine foldl (fun i h => ?_) _ h
    split
    · exact h.holdRead _ _
    · exact h
  · extract_lets loc s1
    have h1 : s1.Formed F := h.sampleRun _ _ _ _ _
    split
    · exact foldl (fun i h => h.injectHbm p _) _ h1
    · exact h1

theorem unmarkPage (p : BitVec 5) (a : Nat) (h : s.Formed F) : (s.unmarkPage p a).Formed F := by
  unfold State.unmarkPage
  extract_lets k big held
  split
  · exact h
  · split
    · exact h
    · split
      · exact h.withPages (Form.map_set _ _ h.pages)
      · split
        · exact h.withPages (Form.map_set _ _ h.pages)
        · exact h

theorem makeCopy (p : BitVec 5) (g : Nat) (h : s.Formed F) : (s.makeCopy p g).Formed F := by
  unfold State.makeCopy
  split
  · split
    · exact h
    · extract_lets t c1 s1
      have h1 : s1.Formed F := (h.granuleReads p _ _).modPart p _
      split
      · exact h1
      · exact h1.unmarkPage p _
  · exact h

theorem askPending (c : CoreId) (h : s.Formed F) : (s.askPending c).Formed F := by
  refine foldl (fun e h => ?_) _ h
  split
  · exact h.askCopy _ _
  · exact h

end State.Formed

end Sys2Proof.Machine
end

section
/-! What a bundle does to the forms (O6): traps, effects of slots, and the completion of a bundle. -/
namespace Sys2Proof.Machine
open Sys2Proof
variable {F : Form}

/-- An effect that enters an MTBL into the matrix queue enters its whole table. -/
def Action.Formed (F : Form) : Action → Prop
  | .mx i _ _ _ tbl _ => ∀ o b, i = .mtbl o b → F.table tbl
  | _ => True

/-- The effects of a slot enter whole tables alone. -/
def SlotOut.Formed (F : Form) (o : SlotOut) : Prop := ∀ a ∈ o.acts, a.Formed F

namespace State.Formed
variable {s : State}

-- Traps

theorem dropTask (c : CoreId) (h : s.Formed F) : (s.dropTask c).Formed F := by
  unfold State.dropTask
  exact modCore c (((h.abortAll c _ _).modCore c fun h => h.dropArray).arriveAll c) fun h => h

theorem abandon (c : CoreId) (cause epc : Word) (h : s.Formed F) : (s.abandon c cause epc).Formed F := (h.postRecord c _).dropTask c

theorem enterTrap (c : CoreId) (t : Entering) (h : s.Formed F) : (s.enterTrap c t).Formed F := by
  unfold State.enterTrap
  dsimp only
  split
  · exact h.dropTask c
  · split
    · exact h.abandon c _ _
    · have parked := (h.core c).park
      exact h.setCore c parked

theorem takeTrap (c : CoreId) (code : BitVec 8) (slot : Nat) (detail : BitVec 16) (epc faddr : Word) (h : s.Formed F) :
    (s.takeTrap c code slot detail epc faddr).Formed F := by
  unfold State.takeTrap
  dsimp only
  split
  · exact h.modCore c fun h => h
  · exact h.enterTrap c _

theorem spawnOn (c target : CoreId) (pc : BitVec 16) (arg : Word) (w : BitVec 32) (h : s.Formed F) :
    (s.spawnOn c target pc arg w).Formed F := by
  have hk := h.core c
  exact modCore target (h.setCore c hk) fun h => h

-- Effects

theorem apply (c : CoreId) (a : Action) (ha : a.Formed F) (h : s.Formed F) : (s.apply c a).Formed F := by
  have hk := h.core c
  unfold State.apply
  dsimp only
  cases a with
  | x n v bound => exact h.setCore c (hk.writeX n v bound)
  | xm n v bound => exact h.setCore c (hk.writeXm n v bound)
  | k n v q bound => exact h.setCore c (hk.writeK n v q bound)
  | v n gs bound => exact h.setCore c (hk.foldl (fun _ h => h.land _ _ _ _) _)
  | store hold g v m q cls => exact chosen (h.setCore c (hk.store hold g v m q cls _ _))
  | passBerths ns => exact h.setCore c (hk.passBerths ns)
  | accStore i v q => exact h.setCore c (hk.withMx (hk.mx.setEl i _))
  | fence mask => exact h.setCore c (hk.flush _)
  | csr a v => exact h.setCore c (hk.writeCsr a v)
  | arrive l bound ds =>
    dsimp only
    split
    · exact h.arriveBits c l
    · exact h.setCore c hk
  | spawn t pc arg w => exact h.spawnOn c t pc arg w
  | snapRestore bs => exact h.setCore c (hk.snapRestore bs)
  | mx i xa xn xn1 tbl ar => exact h.setCore c (hk.withMx (hk.mx.enqueue _ _ _ _ _ ha))
  | gateOn ret =>
    have hg := hk.gateLive
    dsimp only
    split
    · exact h.setCore c hg
    · exact h.setCore c hg
    · exact h.setCore c hg
    · exact h
  | gateOff =>
    have hg := hk.gateLive
    dsimp only
    split
    · exact h.setCore c (hg.gateEnds _)
    · exact h.setCore c hg
    · exact h
  | gateCancel =>
    refine h.setCore c ?_
    split
    · exact hk.gateLive.gateCancel
    · exact hk
  | gateArrive l =>
    dsimp only
    split
    · exact h
    · split
      · exact h.setCore c hk
      · exact h.setCore c hk
  | mrest bs ps => exact h.setCore c (hk.withMx (hk.mx.restore bs _))
  | note g => exact h.noteHold c g false
  | drawn m gs => exact h.injectReads c m gs
  | command q => exact h.setCore c (hk.addCmd q _)
  | looked w => exact h
  | transfer t => exact h
  | trapAfter n => exact h
  | eret => exact h
  | exit => exact h
  | _ => exact h.setCore c hk

theorem applyAll (c : CoreId) (as : List Action) (ha : ∀ a ∈ as, a.Formed F) (h : s.Formed F) : (s.applyAll c as).Formed F := by
  induction as generalizing s with
  | nil => exact h
  | cons a rest ih => exact ih (fun b hb => ha b (List.mem_cons_of_mem a hb)) (h.apply c a (ha a List.mem_cons_self))

-- A bundle

theorem perform (c : CoreId) (pc next : Word) (as : List Action) (ha : ∀ a ∈ as, a.Formed F) (h : s.Formed F) :
    (s.perform c pc next as).Formed F := by
  have picked (p : Action → Bool) : ∀ a ∈ as.filter p, a.Formed F := fun a hm => ha a (List.mem_of_mem_filter hm)
  have hk := h.core c
  unfold State.perform
  extract_lets k r taken lp back k0 s1 s2 s3 go s4
  have h1 : s1.Formed F := applyAll c _ (picked _) (applyAll c _ (picked _) (h.setCore c hk))
  have h2 : s2.Formed F := by
    unfold s2
    split
    · exact h1.modCore c fun h => (h.runMx 4).shadeRow as
    · exact h1
  have h3 : s3.Formed F := (h2.applyAll c _ (picked _)).modCore c fun h => h.taskCycle
  have h4 : s4.Formed F := h3.modCore c fun h => h
  split
  · exact (((h4.modCore c fun h => h.dropArray).arriveAll c).modCore c fun h => h.exitTask).returnWeights c
  · split
    · split
      · exact h4.modCore c fun h => h.eret _ _
      · exact h4.takeTrap c _ _ _ _ _
    · split
      · exact h4.takeTrap c _ _ _ _ _
      · exact h4

theorem holdEffect (c : CoreId) (w : Wait) (h : s.Formed F) : (s.holdEffect c w).Formed F := by
  unfold State.holdEffect
  split
  · split
    · exact h.askCopy _ _
    · exact h
  · exact h.abortAll c _ _
  · exact h

theorem seeFirst (c : CoreId) (outs : List (Slot × SlotOut)) (h : s.Formed F) : (s.seeFirst c outs).Formed F := h.modCore c fun h => h

theorem commit (c : CoreId) (b : OpenBundle) (hb : ∀ p ∈ b.outs, p.2.Formed F) (h : s.Formed F) : (s.commit c b).Formed F := by
  unfold State.commit
  extract_lets trap hold
  have trapped (sl : Slot) (f : SlotFault) : (trap sl f).Formed F := ((h.seeFirst c b.outs).takeTrap c _ _ _ _ _).modCore c fun h => h.taskCycle
  have held (sl : Slot) (w : Wait) : (hold sl w).Formed F :=
    modCore c (h.holdEffect c w) fun h => h.freezeOn w _ _ _
  split
  · split
    · exact trapped _ _
    · exact held _ _
  · split
    · exact trapped _ _
    · split
      · exact held _ _
      · refine h.perform c _ _ _ fun a ha => ?_
        obtain ⟨p, hp, hap⟩ := List.mem_flatMap.mp ha
        exact hb p hp a hap

end State.Formed

end Sys2Proof.Machine
end

section
/-! Engine work and the forms (O6): paths to memory, units of work, and what a command's own record does. -/
namespace Sys2Proof.Machine
open Sys2Proof
variable {F : Form}

/-- The state a unit of work leaves, whatever it comes to, has the form. -/
def Res.Formed {α : Type} (F : Form) : Res α → Prop
  | .ok s _ => s.Formed F
  | .stop s _ => s.Formed F
  | .hold s _ => s.Formed F

namespace Res.Formed
variable {α β : Type}

theorem ite {c : Prop} [Decidable c] {r r' : Res α} (h : r.Formed F) (h' : r'.Formed F) : (if c then r else r').Formed F := by
  split
  · exact h
  · exact h'

theorem bind {r : Res α} {f : State → α → Res β} (h : r.Formed F) (hf : ∀ {s : State} (a : α), s.Formed F → (f s a).Formed F) :
    (r.bind f).Formed F := by
  cases r with
  | ok s a => exact hf a h
  | stop s st => exact h
  | hold s g => exact h

theorem foldl {f : Res α → β → Res α} (hf : ∀ {r : Res α} (b : β), r.Formed F → (f r b).Formed F) (l : List β) {r : Res α} (h : r.Formed F) :
    (l.foldl f r).Formed F := by
  induction l generalizing r with
  | nil => exact h
  | cons b rest ih => exact ih (hf b h)

/-- A run of work, one piece after another. -/
theorem foldl_bind {f : β → State → α → Res α} (hf : ∀ {s : State} (b : β) (a : α), s.Formed F → (f b s a).Formed F) (l : List β) {r : Res α}
    (h : r.Formed F) : (l.foldl (fun r b => r.bind (f b)) r).Formed F := h.foldl (fun b h => h.bind (hf b)) l

theorem whole {r : Res α} {s : State} (h : r.Formed F) (hs : s.Formed F) : (r.whole s).Formed F := by
  cases r with
  | ok s1 a => exact h
  | stop s1 st => exact hs
  | hold s1 g => exact hs

end Res.Formed

namespace State.Formed
variable {s : State}

theorem ite {c : Prop} [Decidable c] {t : State} (h : s.Formed F) (h' : t.Formed F) : (if c then s else t).Formed F := by
  split
  · exact h
  · exact h'

-- Paths

theorem touch (ia loc : Nat) (write : Bool) (part : BitVec 5) (h : s.Formed F) : (s.touch ia loc write part).Formed F :=
  (h.orEntry ia _).sample ia loc write part

theorem readColumn (c : CoreId) (g : Nat) (h : s.Formed F) : (s.readColumn c g).1.Formed F := h.holdRead c g

theorem outcome {α : Type} (x : Xl) (part : BitVec 5) (ia : Nat) (write : Bool) (since : Option MWait) (h : s.Formed F) :
    (x.outcome s part ia write since : Res α).Formed F := by cases x <;> exact h

theorem remote {α : Type} (peer : Option (BitVec 21)) {s1 : State} (a : α) (h : s.Formed F) (h1 : s1.Formed F) :
    (s.remote peer s1 a).Formed F := by
  unfold State.remote
  split
  · exact h
  · split
    · exact h1
    · exact h
    · split <;> exact h
    · exact h

theorem readG (pl : Place) (since : Option MWait) (h : s.Formed F) : (s.readG pl since).Formed F := by
  unfold State.readG
  cases pl with
  | sp c a => exact h.injectReads c _ _
  | hold c a => exact h.readColumn c _
  | const c b a => exact h
  | ia part a =>
    dsimp only
    split
    · exact (h.touch _ _ _ _).injectHbm _ _
    · exact h
    · exact h.outcome _ _ _ _ _
  | peer chip part a => exact h.remote _ _ h
  | host vf a => exact h.remote _ _ h

theorem writeG (pl : Place) (v : Gran) (mask : BitVec 32) (bad : Bool) (since : Option MWait) (h : s.Formed F) :
    (s.writeG pl v mask bad since).Formed F := by
  unfold State.writeG
  extract_lets g q
  cases pl with
  | sp c a => exact h.modCore c fun h => h.withSp (F.mem_stable.mergeGran _ _ _ _ h.sp)
  | hold c a =>
    dsimp only
    split
    · exact h
    · exact (h.modCore c fun h => h.performHome _ _ _ _ _).flushNotes c
  | const c b a => exact h
  | ia part a =>
    dsimp only
    split
    · rename_i loc _
      have ht := h.touch a loc true part
      exact ht.withHbm (F.mem_stable.mergeGran _ _ _ _ ht.hbm)
    · exact h.outcome _ _ _ _ _
  | peer chip part a => exact h.remote _ _ (h.withPeerMem (F.kept_stable.mergeGran _ _ _ _ h.peerMem))
  | host vf a => exact h.remote _ _ (h.withHostMem (F.kept_stable.mergeGran _ _ _ _ h.hostMem))

theorem readBytes (pl : Place) (n : Nat) (since : Option MWait) (h : s.Formed F) : (s.readBytes pl n since).Formed F := by
  refine Res.Formed.foldl_bind (fun _ _ h => ?_) _ h
  exact (h.readG _ since).bind fun _ h => h

theorem writeBytes (pl : Place) (bs : List Byte) (bad : Bool) (since : Option MWait) (h : s.Formed F) : (s.writeBytes pl bs bad since).Formed F :=
  Res.Formed.foldl_bind (fun _ _ h => h.writeG _ _ _ _ _) _ h

theorem postFault (part : BitVec 5) (ia : Nat) (write : Bool) (core : CoreId) (op : BitVec 8) (cls : BitVec 4) (h : s.Formed F) :
    (s.postFault part ia write core op cls).Formed F := h

theorem report (g : Holding) (core : CoreId) (op : BitVec 8) (cls : BitVec 4) (h : s.Formed F) : (s.report g core op cls).Formed F := by
  unfold State.report
  split
  · exact h.postFault _ _ _ _ _ _
  · exact h.askCopy _ _
  · exact h

theorem reportOwn (g : Holding) (core : CoreId) (op : BitVec 8) (cls : BitVec 4) (h : s.Formed F) : (s.reportOwn g core op cls).Formed F := by
  have hr := h.report g core op cls
  unfold State.reportOwn
  dsimp only
  split
  · exact hr.modCore core fun h => h.countRecord
  · exact hr

theorem dropFault (w : Option Held) (h : s.Formed F) : (s.dropFault w).Formed F := by
  unfold State.dropFault
  split <;> exact h

-- Commands

theorem begin (c : CoreId) (q : Cmd) (h : s.Formed F) : (s.begin c q).Formed F := h.modCore c fun h => (h.flush _).setCmd _
theorem modCmd (c : CoreId) (id : Nat) (f : Cmd → Cmd) (h : s.Formed F) : (s.modCmd c id f).Formed F := h.modCore c fun h => h
theorem finish (c : CoreId) (id : Nat) (met : List Status) (h : s.Formed F) : (s.finish c id met).Formed F := h.modCmd c id _
theorem forget (c : CoreId) (q : Cmd) (h : s.Formed F) : (s.forget c q).Formed F := h.modCmd c q.id _

theorem startChecked (c : CoreId) (q : Cmd) (ts : List Touch) (h : s.Formed F) : (s.startChecked c q ts).Formed F := by
  unfold State.startChecked
  dsimp only
  split
  · exact modCore c ((h.begin c q).modCmd c _ _) fun h => h
  · exact (h.begin c q).finish c _ _

/-- What a unit of work leaves is carried into its command without a touch of memory. -/
theorem settleUnit (c : CoreId) (q : Cmd) {r : Res Cmd} (h : r.Formed F) : (settleUnit c q r).Formed F := by
  cases r with
  | ok s1 q1 => exact (dropFault q.hold h).modCmd c _ _
  | stop s1 st => exact (dropFault q.hold h).finish c _ _
  | hold s1 g => exact (modCmd c _ _ h).reportOwn _ _ _ _

theorem unit (c : CoreId) (q : Cmd) {f : State → Option MWait → Res Cmd} (hf : ∀ since, (f s since).Formed F) (h : s.Formed F) :
    (s.unit c q f).Formed F := by
  unfold State.unit
  split
  · exact h
  · exact (h.dropFault _).finish c _ _
  · exact settleUnit c q (hf _)

theorem via (c : CoreId) (q : Cmd) (p : Word) (off : Int) (h : s.Formed F) : (s.via c q p off).Formed F := by
  unfold State.via
  split <;> exact h

theorem readOnce (c : CoreId) (q : Cmd) (pl : Place) (since : Option MWait) (h : s.Formed F) : (s.readOnce c q pl since).Formed F := by
  unfold State.readOnce
  split
  · exact h
  · exact (h.readG pl since).bind fun _ h => h.modCmd c _ _

theorem readSrc (c : CoreId) (q : Cmd) (p : Word) (off : Int) (n : Nat) (since : Option MWait) (h : s.Formed F) :
    (s.readSrc c q p off n since).Formed F := by
  refine (h.via c q p off).bind fun _ h => Res.Formed.foldl_bind (fun _ _ h => ?_) _ h
  exact (h.readOnce c q _ since).bind fun _ h => h

theorem writeDst (c : CoreId) (q : Cmd) (p : Word) (off : Int) (bs : List (Byte × Bool)) (since : Option MWait) (h : s.Formed F) :
    (s.writeDst c q p off bs since).Formed F :=
  (h.via c q p off).bind fun _ h => Res.Formed.foldl_bind (fun _ _ h => h.writeG _ _ _ _ _) _ h

end State.Formed

end Sys2Proof.Machine
end

section
/-! What copies, deliveries, fabric operations and collectives leave of the forms (O6). -/
namespace Sys2Proof.Machine
open Sys2Proof
variable {F : Form}

/-- Every state an outcome goes on to has the form. -/
def Leaves (F : Form) (o : Host.Outcome State Fault Refusal) : Prop := ∀ t, o = .next t → t.Formed F

theorem leaves_next {t : State} (h : t.Formed F) : Leaves F (.next t) := fun _ e => by cases e; exact h
theorem leaves_refused (r : Refusal) : Leaves F (.refused r) := fun _ e => nomatch e

theorem Leaves.ite {c : Prop} [Decidable c] {o o' : Host.Outcome State Fault Refusal} (h : Leaves F o) (h' : Leaves F o') :
    Leaves F (if c then o else o') := by
  split
  · exact h
  · exact h'

/-- What has been performed of an arrived operation leaves the form, over or held. -/
def Performed.Formed (F : Form) : Performed → Prop
  | .ended s _ => s.Formed F
  | .held s _ _ => s.Formed F

namespace State.Formed
variable {s : State}

-- Copies (R210, R213, R214)

theorem gatherSrc (c : CoreId) (q : Cmd) (src : List Byte) (ix : List Nat) (since : Option MWait) (h : s.Formed F) :
    (s.gatherSrc c q src ix since).Formed F := (h.readSrc c q _ _ _ since).bind fun _ h => h

theorem elemSrc (c : CoreId) (q : Cmd) (src : List Byte) (d0 : Nat) (ix : List Nat) (since : Option MWait) (h : s.Formed F) :
    (s.elemSrc c q src d0 ix since).Formed F := by
  unfold State.elemSrc
  split
  · refine (h.gatherSrc c q src ix since).bind fun r h => ?_
    cases r with
    | at_ jx => exact Res.Formed.ite h h
    | _ => exact h
  · exact h

theorem copyElem (c : CoreId) (q : Cmd) (src dst : List Byte) (n : Nat) (since : Option MWait) (h : s.Formed F) :
    (s.copyElem c q src dst n since).Formed F := by
  refine (h.elemSrc c q src 0 _ since).bind fun r h => ?_
  cases r with
  | at_ jx => exact (h.readSrc c q _ _ _ since).bind fun _ h => h
  | _ => exact h

theorem copyBlock (c : CoreId) (q : Cmd) (src dst : List Byte) (n : Nat) (since : Option MWait) (h : s.Formed F) :
    (s.copyBlock c q src dst n since).Formed F := by
  refine (h.elemSrc c q src 1 _ since).bind fun r h => ?_
  cases r with
  | at_ jx =>
    refine (h.readSrc c q _ _ _ since).bind fun v h => ?_
    dsimp only
    split
    · exact h
    · exact (h.readSrc c q _ _ _ since).bind fun _ h => h
  | pad =>
    dsimp only
    split <;> exact h
  | _ => exact h

theorem copyAt (c : CoreId) (q : Cmd) (src dst : List Byte) (n : Nat) (since : Option MWait) (h : s.Formed F) :
    (s.copyAt c q src dst n since).Formed F := by
  unfold State.copyAt
  split
  · exact h.copyBlock c q src dst n since
  · exact h.copyElem c q src dst n since

theorem copyPatch (c : CoreId) (q : Cmd) (src dst : List Byte) (g : Place) (since : Option MWait) (h : s.Formed F) :
    (s.copyPatch c q src dst g since).Formed F := by
  refine Res.Formed.foldl_bind (fun n a h => ?_) _ h
  exact (h.copyAt c a.1 src dst n since).bind fun _ h => h

theorem copyUnit (c : CoreId) (q : Cmd) (since : Option MWait) (h : s.Formed F) : (s.copyUnit c q since).Formed F := by
  unfold State.copyUnit
  dsimp only
  split
  · exact h
  · refine (h.copyPatch c q _ _ _ since).bind fun r h => ?_
    split
    · exact h
    · refine Res.Formed.ite h (Res.Formed.ite h ?_)
      exact (h.writeG _ _ _ _ since).bind fun _ h => h

theorem linearUnit (c : CoreId) (q : Cmd) (n : Nat) (since : Option MWait) (h : s.Formed F) : (s.linearUnit c q n since).Formed F := by
  unfold State.linearUnit
  split
  · exact h
  · refine (h.readSrc c q _ _ _ since).bind fun r h => (h.writeDst c q _ _ _ since).bind fun _ h => ?_
    exact (h.forget c q).countBytes c _

-- Deliveries (R215-R219, R379)

theorem acceptAt (c : CoreId) (q : Cmd) (d : Delivery) (t : CoreId) (i : Nat) (h : s.Formed F) : (s.acceptAt c q d t i).Formed F := by
  unfold State.acceptAt
  refine ite (h.modCmd c _ _) (ite ?_ ?_)
  · exact h.modCmd c _ _
  · exact (h.modCmd c _ _).finish c _ _

theorem execDeliveryAcceptance (core : CoreId) (q : Nat) (target : CoreId) (h : s.Formed F) :
    Leaves F (execDeliveryAcceptance core q target s) := by
  unfold Machine.execDeliveryAcceptance
  split
  · exact leaves_next h
  · split
    · exact leaves_next h
    · split
      · exact leaves_next h
      · exact Leaves.ite (leaves_next (h.acceptAt core _ _ _ _)) (leaves_next h)

theorem modBerth (c : CoreId) (n : BitVec 5) (f : Berth → Berth) (h : s.Formed F) : (s.modCore c (fun k => k.modBerth n f)).Formed F :=
  h.modCore c fun h => h

theorem deliver (q : Cmd) (d : Delivery) (h : s.Formed F) : (s.deliver q d).Formed F := by
  have tagged := foldl (f := fun s b => s.modCore b.1 (fun k => k.modBerth d.berth (fun x => { x with atag := d.tag })))
    (fun (b : CoreId × Nat) h => h.modBerth b.1 _ _) q.bufs h
  unfold State.deliver
  dsimp only
  split
  · exact tagged.semAdd _ _ _
  · exact tagged

theorem payload (q : Cmd) (n : Nat) (bs : List Byte) (bad : Bool) (h : s.Formed F) : (s.payload q n bs bad).Formed F :=
  Res.Formed.foldl_bind (fun _ _ h => h.writeBytes _ _ _ _) _ h

theorem deliveryUnit (c : CoreId) (q : Cmd) (d : Delivery) (since : Option MWait) (h : s.Formed F) : (s.deliveryUnit c q d since).Formed F := by
  unfold State.deliveryUnit
  split
  · exact (h.readSrc c q _ _ _ since).bind fun _ h => h
  · split
    · exact h
    · refine (h.readSrc c q _ _ _ since).bind fun r h => ((h.forget c q).payload q _ _ _).bind fun {s0} _ h => ?_
      extract_lets s1 q1
      have h1 : s1.Formed F := by
        unfold s1
        split
        · exact h.countBytes c _
        · exact h
      split
      · exact h1.deliver q d
      · exact h1

theorem delayFlit (f : LaneFlit) (n : Nat) (h : s.Formed F) : (s.delayFlit f n).Formed F := h.modCmd _ _ _

theorem passRouter (f : LaneFlit) (h : s.Formed F) : (s.passRouter f).1.Formed F := by
  unfold State.passRouter
  extract_lets u k out plan demoted s1 s2
  have h1 : s1.Formed F := by
    unfold s1
    split
    · exact h.modCore u fun h => h
    · exact h
  show s2.Formed F
  unfold s2
  split
  · exact delayFlit f _ h1.chosen
  · exact h1

theorem laneTick (h : s.Formed F) : s.laneTick.Formed F := by
  refine foldl (s := { s with lanes := [] }) (fun f h => ?_) _ h
  dsimp only
  split
  · exact h.passRouter f
  · exact h

theorem execLaneFlitInject (core : CoreId) (q : Nat) (h : s.Formed F) : Leaves F (execLaneFlitInject core q s) := by
  unfold Machine.execLaneFlitInject
  split
  · exact leaves_next h
  · split
    · dsimp only
      split
      · refine leaves_next (h.unit core _ fun since => (h.readSrc core _ _ _ _ since).bind fun b h => ?_)
        exact h.forget core _
      · exact leaves_next h
    · exact leaves_next h

theorem laneUnit (q : Cmd) (d : Delivery) (h : s.Formed F) : (s.laneUnit q d).Formed F := by
  unfold State.laneUnit
  split
  · exact h
  · split
    · exact h
    · split
      · exact h
      · have paid := fun n => Res.Formed.foldl_bind (f := fun i s _ => s.payload q (q.wrote + i) ((q.data.bytes.drop (32 * (q.wrote + i))).take 32)
          (q.data.bad.contains (q.wrote + i))) (fun _ _ h => h.payload q _ _ _) (List.range n) (r := Res.ok s ()) h
        refine (paid _).bind fun _ h => ?_
        dsimp only
        split
        · exact h.deliver q d
        · exact h

theorem startSemr (c : CoreId) (q : Cmd) (h : s.Formed F) : (s.startSemr c q).Formed F := by
  unfold State.startSemr
  dsimp only
  split
  · exact ((h.begin c q).semAdd _ _ _).finish c _ _
  · exact (h.begin c q).finish c _ _

-- Fabric operations (R220-R223, R384, R385)

theorem sendCopy (e : Sent) (h : s.Formed F) : (s.sendCopy e).Formed F := by
  unfold State.sendCopy
  split
  · split
    · exact h
    · exact finish (s := { s with sent := _ }) _ _ _ h
  · exact xmit (s := { s with sent := _, out := _ }) _ h

theorem pump (chip : BitVec 21) (core : CoreId) (n : Nat) (h : s.Formed F) : (s.pump chip core n).Formed F := by
  induction n generalizing s with
  | zero => exact h
  | succ n ih =>
    unfold State.pump
    split
    · exact h
    · split
      · exact ih (sendCopy (s := { s with sent := _ }) _ h)
      · exact h

theorem pumpAll (chip : BitVec 21) (core : CoreId) (h : s.Formed F) : (s.pumpAll chip core).Formed F := h.pump chip core _

theorem sendOp (c : CoreId) (q : Cmd) (chip : BitVec 21) (part : BitVec 5) (kind : FabKind) (h : s.Formed F) :
    (s.sendOp c q chip part kind).Formed F := by
  have hk := h.core c
  unfold State.sendOp
  extract_lets k n op s1 e
  have h1 : s1.Formed F := h.setCore c hk
  exact pump (s := { s1 with sent := _ }) chip c 1 h1

theorem launchOp (c : CoreId) (q : Cmd) (kind : FabKind) (h : s.Formed F) : (s.launchOp c q kind).Formed F := by
  unfold State.launchOp
  dsimp only
  split
  · exact h
  · split
    · exact h
    · exact h.sendOp c q _ _ kind

theorem fabricUnit (c : CoreId) (q : Cmd) (since : Option MWait) (h : s.Formed F) : (s.fabricUnit c q since).Formed F := by
  unfold State.fabricUnit
  extract_lets e ia n read
  have hread (kind : Blob → FabKind) : (read kind).Formed F := by
    unfold read
    dsimp only
    split
    · exact h.launchOp c q _
    · exact (h.readSrc c q _ _ _ since).bind fun _ h => h.forget c q
  split
  · exact h
  · split
    · exact hread _
    · exact hread _
    · exact h.launchOp c q _
    · split
      · split
        · exact h.launchOp c q _
        · exact h
      · exact h
    · split
      · split
        · exact h.launchOp c q _
        · exact h
      · exact h
    · exact h

theorem mirror (chip : BitVec 21) (op : FabOp) (old : Word) (h : s.Formed F) : (s.mirror chip op old).Formed F := by
  have put (m : PMem) (a : Nat) (bs : List Byte) (bad : Bool) (hm : F.kept m) : F.kept (m.writeRun a bs bad) := F.kept_stable.writeRun a bs bad hm
  unfold State.mirror
  dsimp only
  split
  · exact h.withPeerMem (F.kept_stable.foldl (fun _ hm => put _ _ _ _ hm) _ h.peerMem)
  · exact h
  · exact h.withPeerMem (put _ _ _ _ h.peerMem)
  · exact h.withPeerMem (put _ _ _ _ h.peerMem)
  · exact h.withPeerMem (put _ _ _ _ h.peerMem)
  · exact h

theorem execE2eResponseArrival (r : Response) (h : s.Formed F) : Leaves F (execE2eResponseArrival r s) := by
  unfold Machine.execE2eResponseArrival
  split
  · exact leaves_next h
  · rename_i e _
    extract_lets s1 s2 bad s3
    have h2 : s2.Formed F := by
      unfold s2
      split
      · exact mirror (s := { s with sent := _ }) _ _ _ h
      · exact h
    have h3 : s3.Formed F := by
      unfold s3
      split
      · dsimp only
        refine finish _ _ _ ?_
        split
        · exact h2.modCore _ fun h => h.withSp (F.mem_stable.mergeGran _ _ _ _ h.sp)
        · exact h2
      · exact h2
      · exact h2.finish _ _ _
      · exact h2
    exact leaves_next (h3.pumpAll _ _)

theorem resendCopy (e : Sent) (h : s.Formed F) : (s.resendCopy e).Formed F := by
  unfold State.resendCopy
  split
  · exact sendCopy e (h.modPort _ _)
  · exact (h.sendCopy e).pumpAll _ _

theorem execE2eResendTimeout (n : Notice) (h : s.Formed F) : Leaves F (execE2eResendTimeout n s) := by
  unfold Machine.execE2eResendTimeout
  split
  · exact leaves_next h
  · split
    · exact leaves_next (h.resendCopy _)
    · exact leaves_next h

theorem execE2eLinkTimeout (n : Notice) (h : s.Formed F) : Leaves F (execE2eLinkTimeout n s) := by
  unfold Machine.execE2eLinkTimeout
  split
  · exact leaves_next h
  · dsimp only
    split
    · exact leaves_next (pumpAll _ _ (finish (s := { s with sent := _ }) _ _ _ h))
    · exact leaves_next h

theorem execHoldNotice (incoming : Bool) (n : Notice) (h : s.Formed F) : Leaves F (execHoldNotice incoming n s) := by
  unfold Machine.execHoldNotice
  split
  · split <;> exact leaves_next h
  · split
    · exact leaves_next h
    · split
      · exact leaves_next (xmit (s := { s with heldOps := _, out := _ }) _ h)
      · exact leaves_next h

theorem readWord (part : BitVec 5) (ia : Nat) (since : Option MWait) (h : s.Formed F) : (s.readWord part ia since).Formed F :=
  (h.readG _ since).bind fun _ h => h

theorem writeWord (part : BitVec 5) (ia : Nat) (v : Word) (since : Option MWait) (h : s.Formed F) : (s.writeWord part ia v since).Formed F :=
  h.writeG _ _ _ _ since

theorem updateWord (part : BitVec 5) (ia : Nat) (since : Option MWait) (f : Word → Word) (h : s.Formed F) :
    (s.updateWord part ia since f).Formed F := by
  have hr := h.readWord part ia since
  unfold State.updateWord
  generalize s.readWord part ia since = r at hr
  cases r with
  | stop s1 st => exact hr
  | hold s1 g => exact hr
  | ok s1 v =>
    dsimp only
    split
    · exact hr
    · have hw : ((s1.writeWord part ia (f v.1) since)).Formed F := writeWord part ia _ since hr
      generalize s1.writeWord part ia (f v.1) since = w at hw
      cases w <;> exact hw

theorem putGranules (part : BitVec 5) (ia : Nat) (d : Blob) (since : Option MWait) (pos n : Nat) (h : s.Formed F) :
    (s.putGranules part ia d since pos n).Formed F := by
  induction n generalizing s since pos with
  | zero => exact h
  | succ n ih =>
    unfold State.putGranules
    split
    · exact h
    · have hw := h.writeBytes (.ia part (ia + 32 * pos)) ((d.bytes.drop (32 * pos)).take 32) (d.bad.contains pos) since
      generalize s.writeBytes (.ia part (ia + 32 * pos)) ((d.bytes.drop (32 * pos)).take 32) (d.bad.contains pos) since = w at hw
      cases w with
      | ok s1 a => exact ih _ _ hw
      | stop s1 st => exact hw
      | hold s1 g => exact hw

theorem takeChunk (core : CoreId) (ch : Chunk) (h : s.Formed F) : (s.takeChunk core ch).Formed F := by
  unfold State.takeChunk
  split <;> exact h

theorem performOp (op : FabOp) (pos : Nat) (since : Option MWait) (h : s.Formed F) : (s.performOp op pos since).Formed F := by
  unfold State.performOp
  split
  · exact h.putGranules _ _ _ since pos _
  · split
    · refine modBerth _ _ _ (foldl (fun i h => ?_) _ h)
      exact h.modCore _ fun h => h.withSp (F.mem_stable.writeRun _ _ _ h.sp)
    · exact h
  · exact h.updateWord _ _ since _
  · split
    · exact h.takeChunk _ _
    · exact h
  · have hu (ia : Nat) (f : Word → Word) := h.updateWord op.part ia since f
    split
    · rename_i hs
      exact (hs ▸ hu _ _ : Performed.Formed F (.ended _ _))
    · exact hu _ _

theorem setDup (op : FabOp) (st : DupState) (h : s.Formed F) : (s.setDup op st).Formed F := h

theorem respond (op : FabOp) (a : Answer) (h : s.Formed F) : (s.respond op a).Formed F :=
  xmit (s := { s with out := _ }) _ h

theorem tryOp (op : FabOp) (pos : Nat) (why : Option Held) (notice : Word) (h : s.Formed F) : (s.tryOp op pos why notice).Formed F := by
  unfold State.tryOp
  extract_lets keep drop done
  have kept {t : State} (n : Nat) (w : Held) (ht : t.Formed F) : (keep t n w).Formed F := ht
  have finished {t : State} (a : Answer) (ht : t.Formed F) : (done t a).Formed F := by
    have dropped : (drop (t.dropFault why)).Formed F := ht.dropFault why
    exact (dropped.setDup op _).respond op a
  split
  · exact kept _ _ h
  · split
    · exact h
    · exact finished _ h
    · rename_i since _
      split
      · exact finished _ h
      · have hp := h.performOp op pos since
        split
        · rename_i s1 a e
          exact finished a (e ▸ hp : Performed.Formed F (.ended s1 a))
        · rename_i s1 p g e
          have h1 : s1.Formed F := (e ▸ hp : Performed.Formed F (.held s1 p g))
          exact (kept _ _ (h1.dropFault why)).report _ _ _ _

theorem enterOp (d : DupEntry) (op : FabOp) (h : s.Formed F) : (s.enterOp d op).Formed F :=
  tryOp (s := { s with dups := _ }) op 0 none s.tnow h

theorem opArrives (op : FabOp) (h : s.Formed F) : (s.opArrives op).Formed F := by
  unfold State.opArrives
  split
  · split
    · exact h.enterOp _ op
    · split <;> exact h
  · dsimp only
    split
    · exact h.enterOp _ op
    · split
      · exact h
      · split
        · exact h.enterOp _ op
        · exact h
        · exact respond (s := { s with dups := _ }) op _ h

theorem execFabricOperationArrival (op : FabOp) (h : s.Formed F) : Leaves F (execFabricOperationArrival op s) := by
  unfold Machine.execFabricOperationArrival
  split
  · exact leaves_next (h.opArrives op)
  · exact leaves_next h

theorem execDuplicateEntryReplacement (chip : BitVec 21) (core : CoreId) (h : s.Formed F) :
    Leaves F (execDuplicateEntryReplacement chip core s) := by
  unfold Machine.execDuplicateEntryReplacement
  split
  · exact leaves_next h
  · split
    · exact leaves_next h
    · dsimp only
      split
      · exact leaves_next h
      · refine leaves_next (foldl (s := { s with dups := _ }) (fun {t} x h => ?_) _ h)
        exact opArrives (s := { t with heldOps := _ }) _ h

theorem answerBulk (b : Bulk) (st : Status) (data : List Byte) (h : s.Formed F) : (s.answerBulk b st data).Formed F :=
  xmit (s := { s with out := _ }) _ h

theorem bulkStep (b : Bulk) (why : Option Held) (h : s.Formed F) : (s.bulkStep b why).1.Formed F := by
  unfold State.bulkStep
  extract_lets done held
  have finished {t : State} (st : Status) (data : List Byte) (ht : t.Formed F) : (done t st data).1.Formed F := (ht.dropFault why).answerBulk b st data
  have waits {t : State} (g : Holding) (ht : t.Formed F) : (held t g).1.Formed F := (ht.dropFault why).report _ _ _ _
  split
  · exact h
  · exact finished _ _ h
  · rename_i since _
    split
    · exact finished _ _ h
    · split
      · have hw := h.writeG (.ia b.part (b.ia / 32 * 32)) b.data (BitVec.allOnes 32) b.bad since
        generalize s.writeG (.ia b.part (b.ia / 32 * 32)) b.data (BitVec.allOnes 32) b.bad since = w at hw
        cases w with
        | ok s1 a => exact finished _ _ hw
        | stop s1 st => exact finished _ _ hw
        | hold s1 g => exact waits g hw
      · have hr := h.readG (.ia b.part (b.ia / 32 * 32)) since
        generalize s.readG (.ia b.part (b.ia / 32 * 32)) since = r at hr
        cases r with
        | ok s1 a => exact finished _ _ hr
        | stop s1 st => exact finished _ _ hr
        | hold s1 g => exact waits g hr

theorem bulkTick (h : s.Formed F) : s.bulkTick.Formed F := by
  refine foldl (s := { s with bulks := [] }) (fun e h => ?_) _ h
  exact h.bulkStep e.1 e.2

theorem retryOps (h : s.Formed F) : s.retryOps.Formed F := by
  refine foldl (fun e h => ?_) _ h
  split
  · exact h
  · exact h.tryOp _ _ _ _

-- Collectives (R224-R228, R388)

theorem readFlagged (pl : Place) (n : Nat) (since : Option MWait) (h : s.Formed F) : (s.readFlagged pl n since).Formed F := by
  refine Res.Formed.foldl_bind (fun _ _ h => ?_) _ h
  exact (h.readG _ since).bind fun _ h => h

theorem writeFlagged (c : CoreId) (q : Cmd) (pl : Place) (bs : List (Byte × Bool)) (n0 : Nat) (since : Option MWait) (h : s.Formed F) :
    (s.writeFlagged c q pl bs n0 since).Formed F := by
  refine Res.Formed.foldl_bind (fun p _ h => ?_) _ h
  dsimp only
  split
  · exact h
  · exact (h.writeG _ _ _ _ since).bind fun _ h => h.modCmd c _ _

theorem readChunk {read : State → Nat → Nat → Res (List (Byte × Bool))} (d : List Byte) (n : Nat)
    (hr : ∀ {s : State} (a b : Nat), s.Formed F → (read s a b).Formed F) (h : s.Formed F) : (s.readChunk read d n).Formed F := by
  refine (hr _ _ h).bind fun a h => ?_
  split
  · exact h
  · exact (hr _ _ h).bind fun _ h => h

theorem readCollSrc (c : CoreId) (q : Cmd) (since : Option MWait) (off n : Nat) (h : s.Formed F) : (s.readCollSrc c q since off n).Formed F :=
  h.readSrc c q _ _ _ since

theorem readCollDst (c : CoreId) (q : Cmd) (since : Option MWait) (off n : Nat) (h : s.Formed F) : (s.readCollDst c q since off n).Formed F :=
  (h.via c q _ _).bind fun pl h => h.readFlagged pl n since

theorem writeChunk (c : CoreId) (q : Cmd) (d : List Byte) (n : Nat) (x : ChunkData) (since : Option MWait) (h : s.Formed F) :
    (s.writeChunk c q d n x since).Formed F := by
  refine (h.via c q _ _).bind fun pl h => (h.writeFlagged c q pl _ 0 since).bind fun _ h => ?_
  split
  · exact h
  · exact (h.via c q _ _).bind fun pl h => h.writeFlagged c q pl _ _ since

theorem flyChunk (c : CoreId) (q : Cmd) (kind : FabKind) (h : s.Formed F) : (s.flyChunk c q kind).Formed F := by
  have hk := h.core c
  unfold State.flyChunk
  extract_lets k n s1
  have h1 : s1.Formed F := h.setCore c hk
  exact h1

theorem sendChunk {c : CoreId} {q : Cmd} {d : List Byte} {hop : Nat} {x : ChunkData} {t : State} (h : s.Formed F)
    (e : s.sendChunk c q d hop x = some t) : t.Formed F := by
  unfold State.sendChunk at e
  extract_lets nbr ch kind s1 at e
  have h1 : s1.Formed F := h.countBytes c _
  split at e
  · cases e
    exact h1.flyChunk c q kind
  · split at e
    · cases e
    · cases e
      exact h1.sendOp c q _ _ kind

theorem collAfter (c : CoreId) (q : Cmd) (d : List Byte) (st : CollStep) (x : ChunkData) (h : s.Formed F) :
    (s.collAfter c q d st x).Formed F := by
  unfold State.collAfter
  split
  · split
    · rename_i e
      exact h.sendChunk e
    · exact h
  · exact h

theorem collWrite (c : CoreId) (q : Cmd) (d : List Byte) (st : CollStep) (x : ChunkData) (since : Option MWait) (h : s.Formed F) :
    (s.collWrite c q d st x since).Formed F := (h.writeChunk c q d _ x since).bind fun _ h => h.collAfter c _ d st x

theorem taken {α : Type} {r : Res α} (chunks : List (CoreId × Chunk)) (h : r.Formed F) : (r.taken chunks).Formed F := by
  cases r <;> exact h

theorem missChunk (c : CoreId) (d : List Byte) (hop : Nat) (h : s.Formed F) : (s.missChunk c d hop).Formed F := h

theorem collUnit (c : CoreId) (q : Cmd) (since : Option MWait) (h : s.Formed F) : (s.collUnit c q since).Formed F := by
  unfold State.collUnit
  extract_lets d src dst held
  clear_value held
  split
  · exact h
  · rename_i st _
    generalize collPhase q = phase
    rcases phase with _ | _ | n
    · refine Res.Formed.ite (Res.Formed.ite h ?_) (Res.Formed.ite h ?_)
      · refine (h.readChunk _ _ fun _ _ h => h.readCollSrc c q since _ _).bind fun x h => (h.writeChunk c q _ _ x since).bind fun _ h => ?_
        split
        · rename_i e
          exact h.sendChunk e
        · exact h
      · refine Res.Formed.bind (readChunk _ _ (fun _ _ h => ?_) h) fun x h => ?_
        · split
          · exact h.readCollSrc c q since _ _
          · exact h.readCollDst c q since _ _
        · dsimp only
          split
          · rename_i e
            exact h.sendChunk e
          · exact h
    · refine Res.Formed.ite h ?_
      dsimp only
      split
      · exact h
      · exact h
      · refine taken _ (Res.Formed.ite ?_ ?_)
        · exact (h.readChunk _ _ fun _ _ h => h.readCollSrc c q since _ _).bind fun l h => h.collWrite c _ _ st _ since
        · exact h.collWrite c q _ st _ since
    · exact Res.Formed.ite h (h.collWrite c q _ st _ since)

theorem collClock (c : CoreId) (id : Nat) (h : s.Formed F) : (s.collClock c id).Formed F := h.modCmd c id _

theorem startColl (c : CoreId) (q : Cmd) (h : s.Formed F) : (s.startColl c q).Formed F := by
  unfold State.startColl
  extract_lets d s1 s2
  have h1 : s1.Formed F := by
    unfold s1
    split
    · exact h.semAdd c _ _
    · exact h
  have h2 : s2.Formed F := h1.startChecked c q _
  split
  · exact h2
  · exact h2.finish c _ _

theorem execCollChunkArrival (op : FabOp) (h : s.Formed F) : Leaves F (execCollChunkArrival op s) := by
  unfold Machine.execCollChunkArrival
  split
  · split
    · dsimp only
      split
      · refine leaves_next ?_
        split
        · exact takeChunk (s := { s with flying := _ }) _ _ h
        · exact h
      · exact leaves_next h
    · refine leaves_next ?_
      split
      · exact h.opArrives op
      · exact h
  · exact leaves_next h

theorem execCollHopTimeout (core : CoreId) (q : Nat) (h : s.Formed F) : Leaves F (execCollHopTimeout core q s) := by
  unfold Machine.execCollHopTimeout
  split
  · exact leaves_next h
  · dsimp only
    split
    · exact leaves_next h
    · split
      · exact leaves_next (modCmd core q _ (h.missChunk core _ _))
      · exact leaves_next h

theorem execL3ArrivalCount (key : Word) (chip : BitVec 21) (count : BitVec 32) (h : s.Formed F) :
    Leaves F (execL3ArrivalCount key chip count s) := by
  unfold Machine.execL3ArrivalCount
  split
  · exact leaves_next h
  · exact leaves_next (l3Decide (s := { s with l3 := _ }) key h)

theorem execL3PhaseChange (key : Word) (h : s.Formed F) : Leaves F (execL3PhaseChange key s) := by
  refine leaves_next ?_
  split
  · exact phaseChange (s := { s with bars := _ }) key .l3 h
  · exact h

end State.Formed

end Sys2Proof.Machine
end

section
/-! What scans, trimmers, migrations and the life of a command leave of the forms, and the cycle of a core around its instructions (O6). -/
namespace Sys2Proof.Machine
open Sys2Proof
variable {F : Form}

/-- What a fetch comes to has the form. -/
def Fetched.Formed (F : Form) : Fetched → Prop
  | .trapped s => s.Formed F
  | .bundle s _ => s.Formed F

namespace State.Formed
variable {s : State}

-- Scans (R229, R230, R352-R359)

theorem execDredgeScanGranule (core : CoreId) (q : Nat) (engine : BitVec 3) (h : s.Formed F) : Leaves F (execDredgeScanGranule core q engine s) := by
  unfold Machine.execDredgeScanGranule
  split
  · exact leaves_next h
  · rename_i r _
    refine Leaves.ite (leaves_next h) ?_
    split
    · exact leaves_next h
    · rename_i a _
      dsimp only
      refine Leaves.ite (leaves_next ((h.dropFault _).finish core q _)) ?_
      split
      · exact leaves_next h
      · exact leaves_next ((h.dropFault _).finish core q _)
      · rename_i since _
        have hr := h.readG (.ia (s.core core).part a) since
        split
        · rename_i s1 v e
          have h1 : s1.Formed F := (e ▸ hr : Res.Formed F (.ok s1 v))
          exact leaves_next ((h1.dropFault _).modCmd core q _)
        · rename_i s1 st e
          have h1 : s1.Formed F := (e ▸ hr : Res.Formed F (.stop s1 st))
          exact leaves_next ((h1.dropFault _).finish core q _)
        · rename_i s1 w e
          have h1 : s1.Formed F := (e ▸ hr : Res.Formed F (.hold s1 w))
          exact leaves_next ((h1.modCmd core q _).reportOwn w core _ _)

theorem execDredgeMerge (core : CoreId) (q : Nat) (h : s.Formed F) : Leaves F (execDredgeMerge core q s) := by
  unfold Machine.execDredgeMerge
  split
  · exact leaves_next h
  · exact Leaves.ite (leaves_next h) (leaves_next (h.modCmd core q _))

theorem drgUnit (c : CoreId) (q : Cmd) (since : Option MWait) (h : s.Formed F) : (s.drgUnit c q since).Formed F := by
  unfold State.drgUnit
  refine Res.Formed.ite h (Res.Formed.ite ?_ ?_)
  · refine Res.Formed.whole ((h.via c q _ _).bind fun pl h => ?_) h
    exact (h.writeBytes pl _ _ since).bind fun _ h => h
  · split
    · exact h
    · exact (h.writeBytes _ _ _ none).bind fun _ h => h.modBerth _ _ _

theorem startDrg (c : CoreId) (q : Cmd) (h : s.Formed F) : (s.startDrg c q).Formed F :=
  ite ((h.begin c q).finish c _ _) (h.startChecked c q _)

-- Trimmers (R328, R332-R351)

theorem trimTurn {f : State → CoreId → Sweep → Thread → State × TmOut} (hf : ∀ c w t, (f s c w t).1.Formed F) (h : s.Formed F) :
    (s.trimTurn f).Formed F := by
  unfold State.trimTurn
  dsimp only
  split
  · exact h
  · split
    · exact modCore _ (hf _ _ _) fun h => h
    · exact h

theorem trimOp (f : Thread → TmOut) (h : s.Formed F) : (s.trimOp f).Formed F := h.trimTurn fun _ _ _ => h

theorem tmLoad (cb : BitVec 3) (off : BitVec 16) (put : Thread → BitVec 256 → Bool → Thread) (h : s.Formed F) : (s.tmLoad cb off put).Formed F := by
  refine h.trimTurn fun c w t => ?_
  split
  · exact h
  · split
    · exact h
    · exact h.readColumn c _

theorem execTmst (d : BitVec 4) (cb : BitVec 3) (off : BitVec 16) (h : s.Formed F) : Leaves F (execTmst d cb off s) := by
  refine leaves_next (h.trimTurn fun c w t => ?_)
  split
  · exact h
  · split
    · exact h
    · split
      · exact h.askCopy _ _
      · exact h.modCore c fun h => h.performHome _ _ _ _ _

theorem startTrim (c : CoreId) (q : Cmd) (h : s.Formed F) : (s.startTrim c q).Formed F := by
  have hb := h.begin c q
  have hk := hb.core c
  exact hb.setCore c hk

theorem endSweep (c : CoreId) (w : Sweep) (h : s.Formed F) : (s.endSweep c w).Formed F := by
  unfold State.endSweep
  extract_lets none1 ended
  have closed {t : State} (ht : t.Formed F) : (ended t).Formed F := finish c _ _ (ht.modCore c fun h => h)
  clear_value none1
  refine ite (closed h) ?_
  split
  · exact modCore c (h.askCopy _ _) fun h => h
  · exact closed (h.modCore c fun h => h.performHome _ _ _ _ _)

theorem trimIdle (c : CoreId) (h : s.Formed F) : (s.trimIdle c).Formed F := by
  unfold State.trimIdle
  split
  · exact h
  · rename_i w _
    extract_lets put w1
    have hput (w : Sweep) : (put w).Formed F := h.modCore c fun h => h
    exact ite (hput _) (ite (hput _) (ite (h.endSweep c _) (ite (hput _) (hput _))))

-- Migration and the life of a command (R201, R203, R231, R234, R319)

theorem bulk (c : CoreId) (q : Cmd) (write : Bool) (h : s.Formed F) : (s.bulk c q write).Formed F := by
  unfold State.bulk
  split
  · exact xmit (s := { s with out := _ }) _ h
  · exact h

theorem migrUnit (c : CoreId) (q : Cmd) (remap : Bool) (since : Option MWait) (h : s.Formed F) : (s.migrUnit c q remap since).Formed F := by
  unfold State.migrUnit
  refine Res.Formed.ite h (Res.Formed.ite h (Res.Formed.ite h (Res.Formed.ite ?_ ?_)))
  · exact h.withPages (Form.map_set _ _ h.pages)
  · refine (h.readSrc c q _ _ _ since).bind fun r h => (h.writeDst c q _ _ _ since).bind fun _ h => ?_
    exact ((h.bulk c q false).bulk c q true).forget c q

theorem execMigrPageExchange (core : CoreId) (q : Nat) (h : s.Formed F) : Leaves F (execMigrPageExchange core q s) := by
  unfold Machine.execMigrPageExchange
  split
  · exact leaves_next h
  · split
    · refine Leaves.ite (leaves_next h) (Leaves.ite (leaves_next (h.finish core q _)) (leaves_next (modCmd core q _ (ite h ?_))))
      exact h.withPages (Form.map_set _ _ (Form.map_set _ _ h.pages))
    · exact leaves_next h

theorem startMigr (c : CoreId) (q : Cmd) (remap : Bool) (h : s.Formed F) : (s.startMigr c q remap).Formed F := by
  have hs := h.startChecked c q (linearTouches q)
  exact ite (hs.finish c _ _) hs

theorem startSends (c : CoreId) (q : Cmd) (h : s.Formed F) : (s.startSends c q).Formed F :=
  ite ((h.begin c q).modCmd c _ _) (((h.begin c q).modCmd c _ _).finish c _ _)

theorem startCpab (c : CoreId) (q : Cmd) (h : s.Formed F) : (s.startCpab c q).Formed F :=
  modCmd c _ _ (foldl (fun p h => h.abortOne c p) _ (h.begin c q))

theorem startCmd (c : CoreId) (q : Cmd) (h : s.Formed F) : (s.startCmd c q).Formed F := by
  unfold State.startCmd
  split
  · exact h.startChecked c q _
  · exact h.startChecked c q _
  · exact ite ((h.begin c q).finish c _ _) (h.startChecked c q _)
  · exact h.startChecked c q _
  · exact h.startChecked c q _
  · exact h.begin c q
  · exact h.startSends c q
  · exact h.startSemr c q
  · exact h.startColl c q
  · exact h.startDrg c q
  · exact h.startMigr c q false
  · exact h.startMigr c q true
  · exact h.startTrim c q
  · exact h.startCpab c q
  · exact h.begin c q
  · exact h.begin c q
  · exact h.startChecked c q _

theorem execCommandStart (core : CoreId) (q : Nat) (h : s.Formed F) : Leaves F (execCommandStart core q s) := by
  unfold Machine.execCommandStart
  split
  · exact leaves_next h
  · exact Leaves.ite (leaves_next (h.startCmd core _)) (leaves_next h)

theorem execCommandCompletion (core : CoreId) (q : Nat) (h : s.Formed F) : Leaves F (execCommandCompletion core q s) := by
  unfold Machine.execCommandCompletion
  split
  · exact leaves_next h
  · exact Leaves.ite (leaves_next (h.complete core q _)) (leaves_next h)

theorem cmdWork (c : CoreId) (q : Cmd) (h : s.Formed F) : (s.cmdWork c q).Formed F := by
  unfold State.cmdWork
  split
  · exact h.unit c q fun t => h.copyUnit c q t
  · exact h.unit c q fun t => h.copyUnit c q t
  · exact h.unit c q fun t => h.linearUnit c q _ t
  · exact h.unit c q fun t => h.migrUnit c q false t
  · exact h.unit c q fun t => h.migrUnit c q true t
  · exact h.unit c q fun t => h.collUnit c q t
  · exact ite h (h.unit c q fun t => h.drgUnit c q t)
  · split
    · exact h.unit c q fun _ => h.laneUnit q _
    · exact h
  · split
    · exact h.unit c q fun t => h.deliveryUnit c q _ t
    · exact h
  · split
    · exact h.unit c q fun t => h.deliveryUnit c q _ t
    · exact h
  · split
    · exact h.unit c q fun t => h.deliveryUnit c q _ t
    · exact h
  · exact h.unit c q fun t => h.fabricUnit c q t
  · exact h.unit c q fun t => h.fabricUnit c q t
  · exact h.unit c q fun t => h.fabricUnit c q t
  · exact h.unit c q fun t => h.fabricUnit c q t
  · exact h.unit c q fun t => h.fabricUnit c q t
  · exact ite (h.finish c _ _) h
  · exact h

-- The cycle of a core around its instructions (R62-R65, R82, R173, R236)

theorem fetchTrap (c : CoreId) (epc faddr : Word) (h : s.Formed F) : (s.fetchTrap c epc faddr).Formed F :=
  ((h.seeFirst c []).takeTrap c _ _ _ _ _).modCore c fun h => h.taskCycle

theorem fetchOnce (c : CoreId) (h : s.Formed F) : (s.fetchOnce c).Formed F := by
  unfold State.fetchOnce
  dsimp only
  split
  · exact h.fetchTrap c _ _
  · split
    · exact h.fetchTrap c _ _
    · split
      · exact h.fetchTrap c _ _
      · split
        · exact h.fetchTrap c _ _
        · split
          · exact h.fetchTrap c _ _
          · exact h

theorem fetch (c : CoreId) (h : s.Formed F) : (s.fetch c).Formed F := by
  refine fetchOnce c (h.modCore c fun {k} h => ?_)
  split
  · exact h.flip
  · exact h

theorem openBundle (c : CoreId) (b : Bundle) (h : s.Formed F) : (s.openBundle c b).Formed F := h.modCore c fun h => h

theorem endWait (c : CoreId) (ev : Instr) (h : s.Formed F) : (s.endWait c ev).Formed F := by
  have hk := h.core c
  unfold State.endWait
  dsimp only
  split
  · exact ite (h.setCore c hk) h
  · exact h

theorem execLatemaxExpiry (core : CoreId) (h : s.Formed F) : Leaves F (execLatemaxExpiry core s) := by
  unfold Machine.execLatemaxExpiry
  split
  · exact leaves_next ((h.takeTrap core _ _ _ _ _).modCore core fun h => h.taskCycle)
  · exact leaves_next h

theorem execResultLanding (core : CoreId) (idx : Nat) (h : s.Formed F) : Leaves F (execResultLanding core idx s) := by
  refine Leaves.ite (leaves_next h) (leaves_next (h.modCore core fun {k} h => ?_))
  split
  · exact h.landAt idx
  · exact h.withMx (h.mx.landRow _)

theorem execMxQueuedStart (core : CoreId) (h : s.Formed F) : Leaves F (execMxQueuedStart core s) := by
  unfold Machine.execMxQueuedStart
  split
  · exact leaves_next (h.modCore core fun h => h.startItem _)
  · exact leaves_next h

theorem execStreamRowEntry (core : CoreId) (h : s.Formed F) : Leaves F (execStreamRowEntry core s) := by
  unfold Machine.execStreamRowEntry
  dsimp only
  split
  · split
    · exact leaves_next h
    · refine Leaves.ite (leaves_next h) ?_
      split
      · exact leaves_next h
      · exact leaves_next (h.takeTrap core _ _ _ _ _)
      · exact leaves_next (chosen (h.modCore core fun h => (h.passBerths _).enterRow _ _))
  · exact leaves_next h

theorem execDrainBoundTrap (core : CoreId) (h : s.Formed F) : Leaves F (execDrainBoundTrap core s) := by
  have hk := h.core core
  unfold Machine.execDrainBoundTrap
  dsimp only
  split
  · exact leaves_next h
  · exact Leaves.ite (leaves_next h) (leaves_next (takeTrap core _ _ _ _ _ (h.setCore core hk)))

theorem execGateTakesEffect (core : CoreId) (h : s.Formed F) : Leaves F (execGateTakesEffect core s) := by
  refine leaves_next (h.modCore core fun {k} h => ?_)
  split
  · exact h.gateEffect
  · exact h

theorem execWakeEnd (core : CoreId) (h : s.Formed F) : Leaves F (execWakeEnd core s) := by
  refine leaves_next (h.modCore core fun {k} h => ?_)
  split
  · exact h.gateEnds _
  · exact h

end State.Formed

end Sys2Proof.Machine
end

section
/-! The context area (R31, R304): what a save writes there and a resume reads back is in canonical form (O6). -/
namespace Sys2Proof.Machine
open Sys2Proof
variable {F : Form}

-- Runs of a memory moved, and lists of granules ---------------------------------------------------------------------------

theorem Memory.lt_of_mem_takeWhile {m : Memory} {b : Nat} : ∀ c ∈ m.takeWhile (fun c => decide (c.1 < b)), c.1 < b :=
  fun c hc => by simpa using List.mem_takeWhile_imp hc

/-- Cells moved by a distance rise as they did. -/
theorem Memory.wfFrom_map {m : Memory} {lo lo' : Nat} (f : Nat → Nat) (hf : ∀ x y, lo ≤ x → x < y → f x < f y) (hlo : ∀ x, lo ≤ x → lo' ≤ f x)
    (h : SMap.wfFrom Memory.unlisted lo m = true) : SMap.wfFrom Memory.unlisted lo' (m.map (fun c => (f c.1, c.2))) = true := by
  obtain ⟨hs, hp⟩ := SMap.wfFrom_iff.mp h
  refine SMap.wfFrom_iff.mpr ⟨?_, fun p hm => ?_⟩
  · rw [List.pairwise_map] at hs
    rw [List.map_map, List.pairwise_map]
    exact hs.imp_of_mem fun {x y} hx _ hxy => hf x.1 y.1 (hp x hx).1 hxy
  · obtain ⟨c, hc, rfl⟩ := List.mem_map.mp hm
    exact ⟨hlo c.1 (hp c hc).1, (hp c hc).2⟩

theorem Memory.wfFrom_takeWhile {m : Memory} {lo b : Nat} (h : SMap.wfFrom Memory.unlisted lo m = true) :
    SMap.wfFrom Memory.unlisted lo (m.takeWhile (fun c => decide (c.1 < b))) = true := by
  obtain ⟨hs, hp⟩ := SMap.wfFrom_iff.mp h
  exact SMap.wfFrom_iff.mpr ⟨hs.sublist ((List.takeWhile_sublist _).map _), fun p hm => hp p ((List.takeWhile_sublist _).subset hm)⟩

theorem PMem.wf_iff {m : PMem} : m.wf = true ↔ m.cells.wf = true ∧ m.bad.Pairwise (· < ·) := by simp [PMem.wf]

/-- What a sorted list keeps after its elements below a bound are dropped lies at the bound or above. -/
theorem le_of_mem_dropWhile {l : List Nat} {b : Nat} (h : l.Pairwise (· < ·)) : ∀ x ∈ l.dropWhile (fun g => decide (g < b)), b ≤ x := by
  induction l with
  | nil => simp
  | cons c rest ih =>
    obtain ⟨hc, hr⟩ := List.pairwise_cons.mp h
    by_cases hb : c < b
    · simpa [List.dropWhile, hb] using ih hr
    · simp only [List.dropWhile, hb, decide_false, List.mem_cons, forall_eq_or_imp]
      exact ⟨by omega, fun x hx => by have := hc x hx; omega⟩

theorem PMem.moveOut_wf {m : PMem} (a n : Nat) (h : m.wf = true) : (m.moveOut a n).wf = true := by
  obtain ⟨hc, hb⟩ := PMem.wf_iff.mp h
  have sorted := hb.sublist (List.dropWhile_sublist (fun g => decide (g < a / 32)))
  have above := le_of_mem_dropWhile (b := a / 32) hb
  refine PMem.wf_iff.mpr ⟨?_, ?_⟩
  · exact Memory.wfFrom_map (lo := a) (fun x => x - a) (fun x y _ _ => by omega) (fun x _ => Nat.zero_le _)
      (Memory.wfFrom_takeWhile (Memory.from_wfFrom hc))
  · refine List.pairwise_map.mpr ((sorted.sublist (List.takeWhile_sublist _)).imp_of_mem fun {x y} hx _ hxy => ?_)
    have := above x ((List.takeWhile_sublist _).subset hx)
    omega

theorem PMem.moveIn_wf {m src : PMem} (a n : Nat) (h : m.wf = true) (hs : src.wf = true) : (m.moveIn a n src).wf = true := by
  obtain ⟨hc, hb⟩ := PMem.wf_iff.mp hs
  have below (g : Nat) (hg : g ∈ src.bad.takeWhile (fun g => decide (g < n / 32))) : g < n / 32 := by simpa using List.mem_takeWhile_imp hg
  refine PMem.splice_wf h ?_ ?_ ?_ ?_ ?_
  · exact Memory.wfFrom_map (lo := 0) (fun x => x + a) (fun x y _ _ => by omega) (fun x _ => by omega) (Memory.wfFrom_takeWhile hc)
  · intro p hp
    obtain ⟨c, hc, rfl⟩ := List.mem_map.mp hp
    have := Memory.lt_of_mem_takeWhile c hc
    dsimp only
    omega
  · exact List.pairwise_map.mpr ((hb.sublist (List.takeWhile_sublist _)).imp fun hxy => by omega)
  · intro g hg
    obtain ⟨x, -, rfl⟩ := List.mem_map.mp hg
    omega
  · intro g hg
    obtain ⟨x, hx, rfl⟩ := List.mem_map.mp hg
    have := below x hx
    omega

theorem eraseDups_sorted {l : List Nat} (h : l.Pairwise (· ≤ ·)) : l.eraseDups.Pairwise (· < ·) := by
  match l with
  | [] => simp
  | a :: rest =>
    obtain ⟨ha, hr⟩ := List.pairwise_cons.mp h
    rw [List.eraseDups_cons]
    refine List.pairwise_cons.mpr ⟨fun b hb => ?_, eraseDups_sorted (hr.sublist List.filter_sublist)⟩
    obtain ⟨hm, hne⟩ := List.mem_filter.mp (List.mem_eraseDups.mp hb)
    have := ha b hm
    simp at hne
    omega
termination_by l.length
decreasing_by simpa using Nat.lt_succ_of_le (List.length_filter_le _ _)

/-- The granules of listed items rise, and lie where the items do. -/
theorem listedGrans_sorted {α : Type} [DecidableEq α] {d : α} {m : SMap α} (a z : Nat) (f : α → Bool) (h : SMap.wf d m = true) :
    (listedGrans a z m f).Pairwise (· < ·) := by
  refine eraseDups_sorted (List.pairwise_map.mpr ?_)
  have keys := List.pairwise_map.mp ((SMap.wf_iff.mp h).1)
  refine (keys.sublist List.filter_sublist).imp fun {x y} hxy => Nat.div_le_div_right ?_
  have := Nat.mul_le_mul_left z (Nat.le_of_lt hxy)
  omega

theorem mem_listedGrans {α : Type} {m : SMap α} {a z g : Nat} {f : α → Bool} (h : g ∈ listedGrans a z m f) : ∃ e ∈ m, g = (a + z * e.1) / 32 := by
  obtain ⟨e, he, rfl⟩ := List.mem_map.mp (List.mem_eraseDups.mp h)
  exact ⟨e, List.mem_of_mem_filter he, rfl⟩

theorem flatMap_length {α β : Type} {l : List α} {f : α → List β} {n : Nat} (h : ∀ x ∈ l, (f x).length = n) : (l.flatMap f).length = n * l.length := by
  rw [List.length_flatMap, List.map_congr_left h]
  simp [Nat.mul_comm]

theorem bytesOf_length (v n : Nat) : (bytesOf v n).length = n := by
  induction n generalizing v with
  | zero => rfl
  | succ n ih => simp [bytesOf, ih]

-- The parts of the area -------------------------------------------------------------------------------------------------

/-- A weight plane keeps the canonical form of the area it is put into. -/
theorem PMem.putForms_wf {m : PMem} {w : SMap EForm} {a : Nat} (ha : a % 32 = 0) (h : m.wf = true) (hw : SMap.wf .zeroCell w = true) : (m.putForms a w).wf = true := by
  have len : ((List.range 4096).flatMap (fun i => bytesOf (efWritten (SMap.get .zeroCell w i).raw).toNat 2)).length = 2 * 4096 := by
    rw [flatMap_length (n := 2) fun _ _ => bytesOf_length _ _, List.length_range]
  refine PMem.splice_wf h (Memory.cells_wfFrom _ _) (fun p hp => ?_) (listedGrans_sorted a 2 _ (SMap.wf_filter _ hw)) ?_ ?_
  · have := Memory.lt_of_mem_cells p hp
    omega
  · intro g hg
    obtain ⟨e, -, rfl⟩ := mem_listedGrans hg
    omega
  · intro g hg
    obtain ⟨e, he, rfl⟩ := mem_listedGrans hg
    have : e.1 < 4096 := by simpa using List.of_mem_filter he
    omega

theorem padTo_length {n : Nat} {bs : List Byte} (h : bs.length ≤ n) : (padTo n bs).length = n := by simp [padTo, h]

/-- The hoist entries keep the canonical form of the area they are put into. -/
theorem PMem.putHoist_wf {m : PMem} (a : Nat) (es : List (BitVec 1024 × BitVec 16)) (h : m.wf = true) : (m.putHoist a es).wf = true := by
  have len : (padTo 2048 ((es.take 16).flatMap (fun e => bytesOf e.1.toNat 128))).length = 2048 := by
    refine padTo_length ?_
    rw [flatMap_length (n := 128) fun _ _ => bytesOf_length _ _]
    have := List.length_take_le 16 es
    omega
  have place {e : (BitVec 1024 × BitVec 16) × Nat} (he : e ∈ (es.take 16).zip (List.range 16)) : e.2 < 16 := List.mem_range.mp (List.of_mem_zip he).2
  refine PMem.splice_wf h (Memory.cells_wfFrom _ _) (fun p hp => ?_) ?_ ?_ ?_
  · have := Memory.lt_of_mem_cells p hp
    omega
  · refine List.pairwise_flatMap.mpr ⟨fun e _ => ?_, ?_⟩
    · exact List.pairwise_map.mpr ((List.pairwise_lt_range.sublist List.filter_sublist).imp fun hxy => by omega)
    · have rising : ((es.take 16).zip (List.range 16)).Pairwise (fun x y => x.2 < y.2) :=
        List.pairwise_iff_getElem.mpr fun i j _ _ hij => by simpa using hij
      refine rising.imp fun {x y} hxy => ?_
      simp only [List.mem_map, List.mem_filter, List.mem_range, forall_exists_index, and_imp]
      rintro _ g hg - rfl _ g' hg' - rfl
      omega
  · simp only [List.mem_flatMap, List.mem_map, List.mem_filter, List.mem_range, forall_exists_index, and_imp]
    rintro _ e - g hg - rfl
    omega
  · simp only [List.mem_flatMap, List.mem_map, List.mem_filter, List.mem_range, forall_exists_index, and_imp]
    rintro _ e he g hg - rfl
    have := place he
    omega

/-- The cells of listed elements of 8 bytes, in their order. -/
theorem flatMap_cells_wfFrom {α : Type} [DecidableEq α] {d : α} {m : SMap α} (a : Nat) (f : Nat × α → List Byte) (hf : ∀ e, (f e).length = 8)
    (h : SMap.wf d m = true) : SMap.wfFrom Memory.unlisted a (m.flatMap (fun e => Memory.cells (a + 8 * e.1) (f e))) = true := by
  have within (e : Nat × α) (p : Host.Cell) (hp : p ∈ Memory.cells (a + 8 * e.1) (f e)) : a + 8 * e.1 ≤ p.1 ∧ p.1 < a + 8 * e.1 + 8 ∧ p.2 ≠ Memory.unlisted := by
    have above := (SMap.wfFrom_iff.mp (Memory.cells_wfFrom (a + 8 * e.1) (f e))).2 p hp
    have below := Memory.lt_of_mem_cells p hp
    rw [hf e] at below
    exact ⟨above.1, below, above.2⟩
  refine SMap.wfFrom_iff.mpr ⟨?_, fun p hp => ?_⟩
  · rw [List.map_flatMap]
    refine List.pairwise_flatMap.mpr ⟨fun e _ => (SMap.wfFrom_iff.mp (Memory.cells_wfFrom _ _)).1, ?_⟩
    refine (List.pairwise_map.mp (SMap.wf_iff.mp h).1).imp fun {x y} hxy => ?_
    intro u hu v hv
    obtain ⟨p, hp, rfl⟩ := List.mem_map.mp hu
    obtain ⟨q, hq, rfl⟩ := List.mem_map.mp hv
    have := within x p hp
    have := within y q hq
    omega
  · obtain ⟨e, -, he⟩ := List.mem_flatMap.mp hp
    have := within e p he
    exact ⟨by omega, this.2.2⟩

/-- A run of moves into a memory keeps its form when what is moved has it. -/
theorem Form.mem_moveIn {m src : PMem} (a n : Nat) (h : F.mem m) (hs : F.mem src) : F.mem (m.moveIn a n src) := by
  cases F
  · trivial
  · exact PMem.moveIn_wf a n h hs
  · trivial

theorem Form.mem_moveOut {m : PMem} (a n : Nat) (h : F.mem m) : F.mem (m.moveOut a n) := by
  cases F
  · trivial
  · exact PMem.moveOut_wf a n h
  · trivial

/-- The whole area a save writes: runs, hoist entries, weight planes, masks and accumulator, then the scratchpad (R304, Table 12). -/
theorem Form.mem_savedArea {m sp : PMem} {k : Mx} (runs : List (Nat × List Byte)) (b : Bool) (masks : List Byte) (h : F.mem m) (hsp : F.mem sp) (hk : k.Formed F) :
    F.mem ((((((((runs.foldl (fun m r => m.put r.1 r.2) m).putHoist 0x2000 k.hoist).putForms 0x4000 (k.plane b)).putForms 0x6000 (k.plane (!b))).put 0x8000 masks).splice
      0x10000 131072 ((k.acc.filter (fun e => e.1 < 16384)).flatMap (fun e => Memory.cells (0x10000 + 8 * e.1) (bytesOf e.2.val.toNat 8))) [])).moveIn 0x30000 524288 sp) := by
  cases F with
  | ofBytes => trivial
  | ofTables => trivial
  | ofAll =>
    have h0 : (runs.foldl (fun m r => m.put r.1 r.2) m).wf = true := stable_wf.foldl (fun r hm => PMem.put_wf r.1 r.2 hm) runs h
    have h1 := PMem.putForms_wf (a := 0x6000) rfl (PMem.putForms_wf (a := 0x4000) rfl (PMem.putHoist_wf 0x2000 k.hoist h0) (hk.plane b)) (hk.plane (!b))
    refine PMem.moveIn_wf _ _ (PMem.splice_wf (PMem.put_wf 0x8000 masks h1) (flatMap_cells_wfFrom _ _ (fun _ => bytesOf_length _ _) (SMap.wf_filter _ hk.1)) ?_ .nil
      (fun _ h => nomatch h) (fun _ h => nomatch h)) hsp
    intro p hp
    obtain ⟨e, he, hpe⟩ := List.mem_flatMap.mp hp
    have he' : e.1 < 16384 := by simpa using List.of_mem_filter he
    have := Memory.lt_of_mem_cells p hpe
    rw [bytesOf_length] at this
    omega

end Sys2Proof.Machine
end

section
/-! The sequencer, the context engine and the page table, and the forms (O6). -/
namespace Sys2Proof.Machine
open Sys2Proof
variable {F : Form}

-- Planes ------------------------------------------------------------------------------------------------------------------

namespace Plane.Formed
variable {p : Plane}

theorem setOcc (i : BitVec 8) (o : Occ) (h : p.Formed F) : (p.setOcc i o).Formed F := ⟨h.1, Form.map_set _ _ h.2⟩
theorem consume (i : BitVec 8) (h : p.Formed F) : (p.consume i).Formed F := h.setOcc i _

/-- The armed entries of a plane rise, and none of them reads as an entry that is not armed. -/
theorem arm (h : p.Formed F) : p.arm.Formed F := by
  unfold Plane.arm
  refine ⟨h.1, Form.map_of_wf (SMap.wf_iff.mpr ⟨?_, fun e he => ?_⟩)⟩
  · dsimp only
    rw [List.map_map]
    exact List.pairwise_map.mpr (List.pairwise_lt_range.sublist List.filter_sublist)
  · obtain ⟨i, -, rfl⟩ := List.mem_map.mp he
    exact fun e => nomatch congrArg Occ.live e

end Plane.Formed

-- Cores -------------------------------------------------------------------------------------------------------------------

/-- What stays registered with a suspended task keeps the tables. -/
theorem Mx.Formed.keep_tabled {m : Mx} (h : m.Formed F) : m.keep.Tabled F := h.tabled

namespace Core.Formed
variable {k : Core}

theorem launch (pc : Nat) (arg : Word) (r : Csrs) (spawned : Bool) (h : k.Formed F) : (k.launch pc arg r spawned).Formed F := by
  unfold Core.launch
  exact ⟨h.sp, h.hold, h.holdErr, h.planes, h.mx.launch, h.suspended⟩

theorem launchSpawn (e : SpawnEntry) (h : k.Formed F) : (k.launchSpawn e).Formed F :=
  launch _ _ _ _ (boundary (k := { k with spawnq := k.spawnq.drop 1 }) h)

end Core.Formed

-- The sequencer (R286-R294, R305) -----------------------------------------------------------------------------------------

namespace State.Formed
variable {s : State}

theorem execTideOccurrenceDue (core : CoreId) (plane : Bool) (entry : BitVec 8) (h : s.Formed F) :
    Leaves F (execTideOccurrenceDue core plane entry s) := by
  unfold Machine.execTideOccurrenceDue
  extract_lets k p e o n o1 k1
  have h1 : k1.Formed F := by
    unfold k1
    split
    · exact h.core core
    · exact h.core core
  clear_value k1
  have occ (o : Occ) := h1.modPlane plane (f := fun p => p.setOcc entry o) fun p hp => hp.setOcc entry o
  exact Leaves.ite (leaves_next h) (Leaves.ite (leaves_next ((h.setCore core (occ _)).postRecord core _)) (leaves_next (h.setCore core (occ _))))

theorem launchTide (c : CoreId) (e : List Byte) (entry : BitVec 8) (late : Nat) (h : s.Formed F) : (s.launchTide c e entry late).Formed F := by
  unfold State.launchTide
  extract_lets k b dom rv _ r k1 s1
  have hk : k.Formed F := h.core c
  have h1 : k1.Formed F := by
    unfold k1
    split
    · split
      · exact hk.flip
      · exact hk
    · exact hk.boundary
  have hs : s1.Formed F := h.setCore c (h1.launch _ _ _ _)
  exact ite (hs.postRecord c _) hs

theorem select (c : CoreId) (h : s.Formed F) : (s.select c).Formed F := by
  have hk := h.core c
  have consumed (i : BitVec 8) : (s.setCore c ((s.core c).modPlane (s.core c).act (fun p => p.consume i))).Formed F :=
    h.setCore c (hk.modPlane _ fun p hp => hp.consume i)
  unfold State.select
  dsimp only
  split
  · exact ite ((consumed _).postRecord c _) ((consumed _).launchTide c _ _ _)
  · refine ite ?_ ?_
    · have hb := hk.boundary
      exact h.setCore c hb
    · split
      · exact h.setCore c (hk.launchSpawn _)
      · exact h

theorem execSelection (core : CoreId) (h : s.Formed F) : Leaves F (execSelection core s) :=
  Leaves.ite (leaves_next (h.select core)) (leaves_next h)

theorem preempt (c : CoreId) (h : s.Formed F) : (s.preempt c).Formed F := by
  have hk := h.core c
  unfold State.preempt
  dsimp only
  split
  · exact h
  · refine ite (postRecord c _ (h.setCore c (hk.modPlane _ fun p hp => hp.consume _))) ?_
    exact chosen (h.setCore c hk)

theorem landPreempted (c : CoreId) (h : s.Formed F) : (s.landPreempted c).Formed F := by
  refine arriveAll c (h.modCore c fun h => ?_)
  exact h.park

theorem landTick (c : CoreId) (h : s.Formed F) : (s.landTick c).Formed F := modCore c (h.askPending c) fun h => h

theorem execContextSaveBegin (core : CoreId) (h : s.Formed F) : Leaves F (execContextSaveBegin core s) := by
  unfold Machine.execContextSaveBegin
  split
  · refine Leaves.ite (leaves_next h) (leaves_next (h.modCore core fun h => ?_))
    exact h.flushAll.boundary
  · exact leaves_next h

-- The context area (R31, R304-R306)

theorem contextArea (c : CoreId) (h : s.Formed F) : F.mem (s.contextArea c) :=
  F.mem_stable.foldl (fun _ hm => Form.mem_moveIn _ _ hm (Form.mem_moveOut _ _ h.hbm)) _ F.mem_stable.empty

theorem setContextArea (c : CoreId) {a : PMem} (h : s.Formed F) (ha : F.mem a) : (s.setContextArea c a).Formed F :=
  h.withHbm (F.mem_stable.foldl (fun _ hm => Form.mem_moveIn _ _ hm (Form.mem_moveOut _ _ ha)) _ h.hbm)

theorem contextAccess (c : CoreId) (runs : List (Nat × Nat)) (write : Bool) (h : s.Formed F) : (s.contextAccess c runs write).Formed F := by
  refine foldl (fun r h => foldl (fun i h => ?_) _ h) _ h
  exact ite (foldl (fun j h => h.injectHbm _ _) _ (h.sampleRun _ _ _ _ _)) (h.sampleRun _ _ _ _ _)

theorem saveContext (c : CoreId) (p : Word) (plane : Bool) (entry : BitVec 8) (h : s.Formed F) : (s.saveContext c p plane entry).Formed F := by
  have hs := ((h.injectReads c .acc (List.range 16384)).injectReads c .pad (List.range 16384)).contextAccess c
    ((0, 0x1C0) :: (0x200, 0xA40) :: contextImage) true
  unfold State.saveContext
  generalize State.contextAccess _ c _ true = s1 at hs
  exact hs.setContextArea c (Form.mem_savedArea _ _ _ (hs.contextArea c) (hs.core c).sp (hs.core c).mx)

theorem execContextSaveEnd (core : CoreId) (h : s.Formed F) : Leaves F (execContextSaveEnd core s) := by
  unfold Machine.execContextSaveEnd
  split
  · refine leaves_next (modCore core (h.saveContext core _ _ _) fun {k} h => ?_)
    have parked : ({ k.mx with parked := [] } : Mx).Formed F := h.mx.withParked MxItem.formed_nil
    exact ⟨h.sp, h.hold, h.holdErr, h.planes, parked, fun u hu => by cases hu; exact h.mx.keep_tabled⟩
  · exact leaves_next h

/-- What a resume reads back as the state of an array has the form, whatever the area holds. -/
theorem contextMx (m : PMem) {u : Suspended} {now : Mx} (rec' : List Byte) (ardom : BitVec 2) (hu : u.mx.Tabled F) :
    (m.contextMx u now rec' ardom).Formed F := by
  have forms (a : Nat) : F.map .zeroCell (m.contextForms a) := Form.map_of_wf (SMap.wf_filterMap _ List.pairwise_lt_range)
  have accs : F.map .zero m.contextAcc := by
    unfold PMem.contextAcc
    exact Form.map_of_wf (SMap.wf_filterMap _ (List.pairwise_lt_range (n := 16384)))
  unfold PMem.contextMx
  generalize m.contextAcc = acc at accs ⊢
  extract_lets h w _ base
  have hb : base.Tabled F := by
    unfold base
    split
    · exact hu
    · exact Mx.Formed.restore_tabled (m := { u.mx with parkedTraps := [] }) _ _ hu
  obtain ⟨ht0, ht1, hi, hp⟩ := hb
  have hw (x : Bool) : F.map .zeroCell (w x) := forms _
  clear_value w
  exact ⟨accs, hw _, hw _, ht0, ht1, hi, hp⟩

theorem restoreContext (c : CoreId) {u : Suspended} (h : s.Formed F) (hu : u.mx.Tabled F) : (s.restoreContext c u).Formed F := by
  have hs := h.contextAccess c ((0, 0x1C0) :: (0x200, 0x200) :: (0x800, 0x440) :: contextImage) false
  have hk := hs.core c
  have sp := Form.mem_moveOut 0x30000 524288 (hs.contextArea c)
  unfold State.restoreContext
  extract_lets s1 k m rec' pc r arr k1
  have resumed (m : Mx) (hm : m.Formed F) : ({ k1 with mx := m } : Core).Formed F := ⟨sp, hk.hold, hk.holdErr, hk.planes, hm, fun u hu => nomatch hu⟩
  refine ite (takeTrap c _ _ _ _ _ (hs.setCore c (resumed _ hk.mx.launch))) ?_
  exact hs.setCore c (resumed _ (contextMx m rec' _ hu)).unpark

theorem execContextResumeEnd (core : CoreId) (h : s.Formed F) : Leaves F (execContextResumeEnd core s) := by
  unfold Machine.execContextResumeEnd
  dsimp only
  split
  · rename_i u _ hu
    exact leaves_next (h.restoreContext core ((h.core core).suspended u hu))
  · exact leaves_next h

-- The page table and the error filters (R314-R318, R323, R366, R398) ------------------------------------------------------

theorem updateEntry (page : Nat) (pte : BitVec 64) (h : s.Formed F) : (s.updateEntry page pte).Formed F := by
  unfold State.updateEntry
  extract_lets e key p covered base
  have hb : F.map 0 base := Form.map_foldl_set (fun k => k) (fun _ _ => 0) _ h.pages
  exact ite h (ite (modPart p _ (h.withPages (Form.map_set _ _ hb))) (h.withPages (Form.map_set _ _ hb)))

theorem execPageTableUpdate (page : Nat) (pte : Word) (h : s.Formed F) : Leaves F (execPageTableUpdate page pte s) :=
  leaves_next (ite (h.updateEntry page pte) h)

theorem execFaultMap (id : Nat) (pte : Word) (h : s.Formed F) : Leaves F (execFaultMap id pte s) := by
  unfold Machine.execFaultMap
  split
  · exact leaves_next h
  · rename_i f _
    have hu := h.updateEntry (f.ia / 65536) pte
    exact Leaves.ite (leaves_next hu) (leaves_next h)

theorem refuseFault (id : Nat) (h : s.Formed F) : (s.refuseFault id).Formed F := h

theorem execFaultRefuse (id : Nat) (h : s.Formed F) : Leaves F (execFaultRefuse id s) := leaves_next (h.refuseFault id)

theorem execFaultmaxExpiry (id : Nat) (h : s.Formed F) : Leaves F (execFaultmaxExpiry id s) := by
  unfold Machine.execFaultmaxExpiry
  split
  · exact leaves_next h
  · exact Leaves.ite (leaves_next (h.refuseFault id)) (leaves_next h)

theorem withFilters {m : SMap Bool} {t : Telemetry} (h : s.Formed F) (hm : F.map false m) (ht : t.filters = m) : ({ s with tele := t } : State).Formed F :=
  ⟨h.hbm, h.hostMem, h.peerMem, h.pages, h.frames, h.handles, h.vfs, h.ringTables, h.inj, ht ▸ hm, h.cores⟩

theorem execFilterClear (f : BitVec 4) (h : s.Formed F) : Leaves F (execFilterClear f s) :=
  Leaves.ite (leaves_next h) (leaves_next (h.withFilters (Form.map_filter _ h.filters) rfl))

end State.Formed

end Sys2Proof.Machine
end

section
/-! The drydock, the torus links and the time of the package, and the forms (O6). -/
namespace Sys2Proof.Machine
open Sys2Proof
variable {F : Form}

namespace State.Formed
variable {s : State}

-- The drydock (R360-R373)

theorem sendManifest (p : BitVec 5) (c : Cut) (h : s.Formed F) : (s.sendManifest p c).Formed F := by
  unfold State.sendManifest
  split <;> exact h

theorem takeCounter (tenant : Word) (h : s.Formed F) : (s.takeCounter tenant).1.Formed F := by
  unfold State.takeCounter
  split <;> exact h

theorem endSnaps (ws : List (CoreId × Nat)) (st : Status) (h : s.Formed F) : (s.endSnaps ws st).Formed F :=
  foldl (fun w h => h.finish w.1 w.2 _) ws h

theorem makeCut (p : BitVec 5) (l : Level) (ws : List (CoreId × Cmd)) (h : s.Formed F) : (s.makeCut p l ws).Formed F := by
  unfold State.makeCut
  split
  · exact h
  · extract_lets s0 s1 keys sealed n cut s2 s3 s4 s5
    have h0 : s0.Formed F := foldl (fun c h => ite (h.modCore c fun h => h.flushAll) h) _ h
    clear_value s0
    have h1 : s1.1.Formed F := h0.takeCounter _
    have h2 : s2.Formed F := h1.modPart p _
    have h3 : s3.Formed F := h2.withPages (Form.map_foldl_set (fun k => k) (fun m k => (SMap.get 0 m k ||| 4#64) &&& ~~~ 2#64) _ h2.pages)
    have h4 : s4.Formed F := foldl (fun v h => h.modCmd _ _ _) _ h3
    have h5 : s5.Formed F := ite (h4.sendManifest p cut) h4
    exact h5.endSnaps _ _

theorem recordSnaps (p : BitVec 5) (ws : List (CoreId × Cmd)) (h : s.Formed F) : (s.recordSnaps p ws).Formed F :=
  (h.endSnaps _ _).modPart p _

theorem confirmCut (p : BitVec 5) (h : s.Formed F) : (s.confirmCut p).Formed F := by
  unfold State.confirmCut
  dsimp only
  split
  · exact h
  · refine ite h (foldl (fun {t} chip h => ?_) _ (h.modPart p _))
    exact xmit (s := { t with out := _ }) _ h

theorem refuseCut (p : BitVec 5) (h : s.Formed F) : (s.refuseCut p).Formed F := h.recordSnaps p _

theorem execCutInstant (part : BitVec 5) (h : s.Formed F) : Leaves F (execCutInstant part s) := by
  unfold Machine.execCutInstant
  split
  · exact leaves_next h
  · exact Leaves.ite (leaves_next (h.recordSnaps part _)) (leaves_next (h.makeCut part _ _))

theorem execCowCopyDone (part : BitVec 5) (g : Nat) (h : s.Formed F) : Leaves F (execCowCopyDone part g s) := by
  unfold Machine.execCowCopyDone
  split
  · exact Leaves.ite (leaves_next (h.makeCopy part g)) (leaves_next h)
  · exact leaves_next h

theorem sendSegment (p : BitVec 5) (c : Cut) (range off : Nat) (h : s.Formed F) : (s.sendSegment p c range off).Formed F := by
  unfold State.sendSegment
  dsimp only
  split
  · exact h
  · exact modPart (s := { s with out := _ }) p _ h

theorem execDrainGranule (part : BitVec 5) (h : s.Formed F) : Leaves F (execDrainGranule part s) := by
  unfold Machine.execDrainGranule
  extract_lets t
  split
  · extract_lets s0 data c1 s1 s2 off ends s3
    have h0 : s0.Formed F := ite h (h.granuleReads part _ _)
    have h1 : s1.Formed F := h0.modPart part _
    have h2 : s2.Formed F := ite h1 (h1.unmarkPage part _)
    have h3 : s3.Formed F := ite (h2.sendSegment part _ _ _) h2
    split
    · exact Leaves.ite (leaves_next (h3.sendManifest part _)) (leaves_next h3)
    · exact leaves_next h3
  · exact leaves_next h

theorem execImageConfirmed (part : BitVec 5) (h : s.Formed F) : Leaves F (execImageConfirmed part s) := by
  unfold Machine.execImageConfirmed
  dsimp only
  split
  · exact leaves_next h
  · rename_i c _
    have he := (h.modPart part (fun t => { t with cut := none })).endSnaps c.members .ok
    exact Leaves.ite (leaves_next h) (leaves_next he)

theorem execDrainFailure (part : BitVec 5) (unreachable : Bool) (h : s.Formed F) : Leaves F (execDrainFailure part unreachable s) := by
  unfold Machine.execDrainFailure
  dsimp only
  split
  · exact leaves_next h
  · refine leaves_next (endSnaps _ _ (modPart part _ (h.withPages ?_)))
    refine List.foldlRecOn _ _ h.pages fun m hm k _ => ?_
    split
    · exact Form.map_set _ _ hm
    · exact hm

-- The links (R380, R381, R383, R386, R396)

theorem emit (p : Port) (f : BitVec 512) (h : s.Formed F) : (s.emit p f).Formed F :=
  ite h (h.withInj (Form.map_set _ _ h.inj))

theorem sendFlit (p : Port) (vc : BitVec 2) (ty : BitVec 4) (pay : BitVec 448) (h : s.Formed F) : (s.sendFlit p vc ty pay).Formed F :=
  (h.modPort p _).emit p _

theorem sendAck (p : Port) (h : s.Formed F) : (s.sendAck p).Formed F := (h.modPort p _).sendFlit p _ _ _

theorem forward (vc : BitVec 2) (flits : List (BitVec 448)) (h : s.Formed F) : (s.forward vc flits).Formed F := ite h (h.xmit _)

theorem linkPump (p : Port) (h : s.Formed F) : (s.linkPump p).Formed F := by
  unfold State.linkPump
  refine ite h ?_
  extract_lets t0 got s0 s1' t s1
  have h0 : s0.Formed F := h.modPort p _
  have h1' : s1'.Formed F := by
    unfold s1'
    split
    · exact h0.forward _ _
    · exact h0
  have h1 : s1.Formed F := h1'.modPort p _
  split
  · split
    · exact (h1.modPort p _).sendFlit p _ _ _
    · exact h1
  · exact ite h1 (h1.sendFlit p _ _ _)

theorem portDown (p : Port) (h : s.Formed F) : (s.portDown p).Formed F := by
  have down (r : TorusPort) (l : List FwRecord) : ({ s.modPort p (fun _ => r) with fw := l } : State).Formed F := h
  exact foldl (fun e h => h.resendCopy e) _ (foldl (fun k h => h.xmit k) _ (down _ _))

theorem replay (p : Port) (h : s.Formed F) : (s.replay p).Formed F := by
  unfold State.replay
  exact ite h (ite (h.portDown p) (foldl (fun f h => h.emit p f) _ (h.modPort p _)))

theorem acknowledge (p : Port) (seq : BitVec 12) (h : s.Formed F) : (s.acknowledge p seq).Formed F := ite h (h.modPort p _)

theorem sendNak (p : Port) (h : s.Formed F) : (s.sendNak p).Formed F := by
  unfold State.sendNak
  extract_lets t again s1
  have h1 : s1.Formed F := ite h.chosen h
  exact ite h1 ((h1.modPort p _).sendFlit p _ _ _)

theorem acceptFlit (p : Port) (f : BitVec 512) (h : s.Formed F) : (s.acceptFlit p f).Formed F := by
  unfold State.acceptFlit
  exact ite (ite ((h.modPort p _).sendAck p) (h.modPort p _)) (h.sendNak p)

theorem noteBeacon (p : Port) (sent recv : Word) (h : s.Formed F) : (s.noteBeacon p sent recv).Formed F := h

theorem takeFlit (p : Port) (f : BitVec 512) (h : s.Formed F) : (s.takeFlit p f).Formed F := by
  have refilled : (s.modPort p (fun t => t.refill f)).Formed F := h.modPort p _
  unfold State.takeFlit
  dsimp only
  split
  · exact refilled
  · exact refilled.acknowledge p _
  · exact (refilled.acknowledge p _).replay p
  · exact refilled.noteBeacon p _ _
  · exact (ite refilled h).acceptFlit p f

theorem execFlitReceive (p : Port) (flit : BitVec 512) (h : s.Formed F) : Leaves F (execFlitReceive p flit s) := by
  unfold Machine.execFlitReceive
  refine Leaves.ite (leaves_next h) ?_
  extract_lets key j d on s1
  have h1 : s1.Formed F := ite (h.withInj (Form.map_set _ _ h.inj)) h
  exact Leaves.ite (leaves_next ((h1.modPort p _).sendNak p)) (leaves_next (h1.takeFlit p flit))

theorem execAckTimer (p : Port) (h : s.Formed F) : Leaves F (execAckTimer p s) := Leaves.ite (leaves_next (h.sendAck p)) (leaves_next h)

theorem execReplayTimeout (p : Port) (h : s.Formed F) : Leaves F (execReplayTimeout p s) := Leaves.ite (leaves_next (h.replay p)) (leaves_next h)

theorem execPortRetrain (p : Port) (h : s.Formed F) : Leaves F (execPortRetrain p s) := Leaves.ite (leaves_next h) (leaves_next (h.modPort p _))

-- Beacons and time (R284, R389, R395, R396, R415)

theorem execBeaconSend (p : Port) (h : s.Formed F) : Leaves F (execBeaconSend p s) :=
  Leaves.ite (leaves_next h) (leaves_next ((h.modPort p _).sendFlit p _ _ _))

theorem judge (h : s.Formed F) : s.judge.Formed F := ite h h

theorem execBeaconReceive (p : Port) (sent recv : Word) (h : s.Formed F) : Leaves F (execBeaconReceive p sent recv s) :=
  Leaves.ite (leaves_next (h.noteBeacon p sent recv).judge) (leaves_next h)

theorem execPtpEventMessage (port : BitVec 2) (egress : Bool) (seqId : BitVec 16) (h : s.Formed F) : Leaves F (execPtpEventMessage port egress seqId s) :=
  Leaves.ite (leaves_next (judge (s := { s with out := _ }) h)) (leaves_next h)

theorem execDisciplineStep (two : Bool) (h : s.Formed F) : Leaves F (execDisciplineStep two s) := Leaves.ite (leaves_next h) (leaves_next h)
theorem execTnowLoad (v : Word) (h : s.Formed F) : Leaves F (execTnowLoad v s) := Leaves.ite (leaves_next h) (leaves_next h)
theorem execFrequencyLock (src : BitVec 8) (h : s.Formed F) : Leaves F (execFrequencyLock src s) := Leaves.ite (leaves_next h) (leaves_next h)
theorem execReferenceLoss (h : s.Formed F) : Leaves F (execReferenceLoss s) := leaves_next h
theorem ethernetTick (h : s.Formed F) : s.ethernetTick.Formed F := ite h h
theorem execPfcPauseFrame (port : BitVec 2) (pause : Bool) (h : s.Formed F) : Leaves F (execPfcPauseFrame port pause s) := leaves_next h

end State.Formed

end Sys2Proof.Machine
end

section
/-! What the host asks, and the forms (O6). -/
namespace Sys2Proof.Machine
open Sys2Proof
variable {F : Form}

namespace State.Formed
variable {s : State}

-- Accesses and the frame of a command (R390-R392)

theorem hostAccess (vf : BitVec 8) (qp : BitVec 6) (rkey : BitVec 32) (off : Nat) (write : Bool) (data : List Byte) (len : Nat) (h : s.Formed F) :
    (s.hostAccess vf qp rkey off write data len).Formed F := by
  unfold State.hostAccess
  refine ite h ?_
  split
  · exact h
  · exact ite h h

theorem execRdmaWrite (pair : QueuePair) (rkey : BitVec 32) (off : Nat) (data : List Byte) (h : s.Formed F) :
    Leaves F (execRdmaWrite pair rkey off data s) := leaves_next (h.hostAccess _ _ _ _ _ _ _)

theorem execRdmaRead (vf : BitVec 8) (rkey : BitVec 32) (off len : Nat) (h : s.Formed F) : Leaves F (execRdmaRead vf rkey off len s) :=
  leaves_next (h.hostAccess _ _ _ _ _ _ _)

theorem execRdmaAtomicRequest (vf : BitVec 8) (h : s.Formed F) : Leaves F (execRdmaAtomicRequest vf s) := Leaves.ite (leaves_next h) (leaves_next h)

theorem complete32 (m : HostMsg) (status reason : Nat) (results : List Byte) (h : s.Formed F) : (s.complete32 m status reason results).Formed F := h

theorem takeTurn {m : HostMsg} {t : State} (h : s.Formed F) (e : s.takeTurn m = some t) : t.Formed F := by
  unfold State.takeTurn at e
  split at e
  · split at e
    · cases e
      exact h
    · cases e
  · split at e
    · cases e
      exact h
    · cases e

theorem checkedCommand (m : HostMsg) (code : Nat) (anyState ok : Bool) {f : State → BitVec 5 → State}
    (hf : ∀ {s : State} (p : BitVec 5), s.Formed F → (f s p).Formed F) (h : s.Formed F) : (s.checkedCommand m code anyState ok f).Formed F := by
  unfold State.checkedCommand
  refine ite (h.complete32 _ _ _ _) ?_
  split
  · exact h.complete32 _ _ _ _
  · exact ite (hf _ h) (h.complete32 _ _ _ _)

/-- A host command keeps the forms when its own effect does. -/
theorem hostCommand (m : HostMsg) (code : Nat) (anyState ok : Bool) {f : State → BitVec 5 → State}
    (hf : ∀ {s : State} (p : BitVec 5), s.Formed F → (f s p).Formed F) (h : s.Formed F) : (s.hostCommand m code anyState ok f).Formed F := by
  unfold State.hostCommand
  refine ite h ?_
  split
  · rename_i t e
    exact (h.takeTurn e).checkedCommand m code anyState ok hf
  · exact h

-- Plane loads (R88, R89, R300)

theorem endLoad (l : PlaneLoad) (h : s.Formed F) : (s.endLoad l).Formed F := by
  unfold State.endLoad
  refine ite h ?_
  split
  · exact complete32 (s := { s with loads := _ }) _ _ _ _ h
  · exact complete32 (s := { s with loads := _ }) _ _ _ _ h

theorem putLoad (l : PlaneLoad) (h : s.Formed F) : (s.putLoad l).Formed F := endLoad (s := { s with loads := _ }) l h

/-- A plane that is no longer armed keeps its form. -/
theorem disarmed {p : Plane} (h : p.Formed F) : ({ p with armed := false } : Plane).Formed F := h

theorem beginLoad (p : BitVec 5) (m : HostMsg) (img : List Byte) (h : s.Formed F) : (s.beginLoad p m img).Formed F := by
  unfold State.beginLoad
  extract_lets id start r l
  have started (acc : State × List (CoreId × Nat) × Nat) (c : CoreId) (ha : acc.1.Formed F) : (start acc c).1.Formed F := by
    have hk := (ha.core c).modPlane (acc.1.core c).loadTarget (f := fun q => { q with armed := false }) fun q hq => disarmed hq
    unfold start
    dsimp only
    split
    · exact ha
    · split
      · exact ha
      · exact ha.setCore c hk
  have hr : r.1.Formed F := List.foldlRecOn (motive := fun (a : State × List (CoreId × Nat) × Nat) => a.1.Formed F) _ _ h fun a ha c _ => started a c ha
  clear_value r
  exact endLoad (s := { r.1 with loads := _, nextLoad := _ }) l hr

theorem execPlaneLoadEnd (core : CoreId) (h : s.Formed F) : Leaves F (execPlaneLoadEnd core s) := by
  unfold Machine.execPlaneLoadEnd
  extract_lets k
  split
  · rename_i img _ id _
    refine Leaves.ite (leaves_next h) ?_
    extract_lets r marks plane put _ s1
    have hp : plane.Formed F := ⟨Form.bytes_of_wf (SMap.wfFrom_mono _ (Memory.cells_wfFrom 0 _) (Nat.le_refl 0)), Form.map_nil⟩
    have hput (old : Plane) : (put old).Formed F := by
      unfold put
      split
      · exact hp.arm
      · exact hp
    clear_value put
    have hk := (h.core core).modPlane k.loadTarget (f := put) fun q _ => hput q
    have h1 : s1.Formed F := h.setCore core hk
    clear_value s1 r
    split
    · exact leaves_next h1
    · split
      · exact leaves_next (h1.putLoad _)
      · exact leaves_next (h1.putLoad _)
  · exact leaves_next h

theorem execLoadPlane (m : HostMsg) (h : s.Formed F) : Leaves F (execLoadPlane m s) := by
  refine leaves_next (h.hostCommand m 1 true _ fun p h => ?_)
  exact ite (h.complete32 _ _ _ _) (ite (h.beginLoad p m _) (ite h (h.complete32 _ _ _ _)))

-- Host accesses in progress (R391)

theorem endHostOp (o : HostOp) (good : Bool) (data : List Byte) (h : s.Formed F) : (s.endHostOp o good data).Formed F := by
  unfold State.endHostOp
  split
  · exact h
  · exact ite (h.beginLoad _ _ _) (h.complete32 _ _ _ _)

theorem hostStep (o : HostOp) (h : s.Formed F) : (s.hostStep o).1.Formed F := by
  have ended {t : State} (ht : t.Formed F) : ((t.dropFault o.why).endHostOp o false []).Formed F := (ht.dropFault o.why).endHostOp o false []
  have waits {t : State} (w : Holding) (ht : t.Formed F) : ((t.dropFault o.why).report w 0 0 0).Formed F := (ht.dropFault o.why).report w 0 0 0
  unfold State.hostStep
  split
  · exact h.endHostOp o true _
  · split
    · exact h
    · exact ended h
    · rename_i since _
      extract_lets e pl n held
      split
      · exact ended h
      · split
        · have hw := h.writeBytes pl ((o.data.drop o.pos).take n) false since
          generalize s.writeBytes pl ((o.data.drop o.pos).take n) false since = w at hw
          cases w with
          | ok s1 a => exact hw
          | stop s1 st => exact ended hw
          | hold s1 g => exact waits g hw
        · have hr := h.readBytes pl n since
          generalize s.readBytes pl n since = w at hr
          cases w with
          | ok s1 a =>
            have h1 : s1.Formed F := hr
            dsimp only
            split
            · exact h1.endHostOp o false []
            · exact h1
          | stop s1 st => exact ended hr
          | hold s1 g => exact waits g hr

theorem hostTick (h : s.Formed F) : s.hostTick.Formed F := by
  refine foldl (s := { s with hostOps := [] }) (fun o h => ?_) _ h
  split
  · exact h
  · exact h.hostStep o

-- Tide tables, semaphores, classes, rings (R288, R386, R387, R392)

theorem tideCommand (m : HostMsg) (code : Nat) {f : Plane → Plane} (hf : ∀ p, p.Formed F → (f p).Formed F) (h : s.Formed F) :
    (s.tideCommand m code f).Formed F := by
  refine h.hostCommand m code false _ fun p h => ite (h.complete32 _ _ _ _) (complete32 _ _ _ _ (foldl (fun c h => ?_) _ h))
  exact h.modCore c fun h => h.modPlane _ hf

theorem execArmTide (m : HostMsg) (h : s.Formed F) : Leaves F (execArmTide m s) := leaves_next (h.tideCommand m 2 fun _ hp => hp.arm)
theorem execDisarmTide (m : HostMsg) (h : s.Formed F) : Leaves F (execDisarmTide m s) := leaves_next (h.tideCommand m 3 fun _ hp => disarmed hp)

theorem execSemAdd (m : HostMsg) (h : s.Formed F) : Leaves F (execSemAdd m s) :=
  leaves_next (h.hostCommand m 11 false _ fun _ h => ite (h.complete32 _ _ _ _) ((h.semAdd _ _ _).complete32 _ _ _ _))

theorem execSetClass (m : HostMsg) (h : s.Formed F) : Leaves F (execSetClass m s) :=
  leaves_next (h.hostCommand m 7 false _ fun {s} _ h => ite (h.complete32 _ _ _ _) (complete32 (s := { s with wgt := _ }) _ _ _ _ h))

theorem withRings {m : SMap (List (BitVec 32))} (h : s.Formed F) (hm : F.map [] m) : ({ s with ringTables := m } : State).Formed F :=
  ⟨h.hbm, h.hostMem, h.peerMem, h.pages, h.frames, h.handles, h.vfs, hm, h.inj, h.filters, h.cores⟩

theorem execSetRing (m : HostMsg) (h : s.Formed F) : Leaves F (execSetRing m s) :=
  leaves_next (h.hostCommand m 6 false _ fun _ h =>
    ite (h.complete32 _ _ _ _) (complete32 _ _ _ _ (h.withRings (Form.map_set _ _ h.ringTables))))

-- Handles and capabilities (R307, R310, R332)

theorem connect0 (vf : Nat) (h : s.Formed F) : (s.connect0 vf).Formed F := h

theorem withHandles {m : SMap (BitVec 256)} (h : s.Formed F) (hm : F.map 0 m) : ({ s with handles := m } : State).Formed F :=
  ⟨h.hbm, h.hostMem, h.peerMem, h.pages, h.frames, hm, h.vfs, h.ringTables, h.inj, h.filters, h.cores⟩

/-- An entry bound: its place in the table, and the range registers that held it. -/
theorem withBinding {m : SMap (BitVec 256)} {f : Core → Core} (h : s.Formed F) (hm : F.map 0 m) (hf : ∀ {k : Core}, k.Formed F → (f k).Formed F) :
    ({ s with handles := m, cores := s.cores.map f } : State).Formed F :=
  mapCores (s := { s with handles := m }) (h.withHandles hm) hf

theorem execBindHandle (m : HostMsg) (h : s.Formed F) : Leaves F (execBindHandle m s) := by
  unfold Machine.execBindHandle
  extract_lets n e hd ok
  refine leaves_next (h.hostCommand m 4 true ok fun {s} p h => ?_)
  extract_lets old gen e1 key s1
  have h1 : s1.Formed F := by
    refine h.withBinding (Form.map_set _ _ h.handles) fun {k} h => ?_
    split <;> exact h
  clear_value s1
  exact ite (h.complete32 _ _ _ _) (ite (h.complete32 _ _ _ _) (ite (h.complete32 _ _ _ _) (complete32 _ _ _ _ (ite (h1.connect0 _) h1))))

theorem execSetCap (m : HostMsg) (h : s.Formed F) : Leaves F (execSetCap m s) :=
  leaves_next (h.hostCommand m 5 false _ fun _ h => ite (h.complete32 _ _ _ _) (complete32 _ _ _ _ (h.modCore _ fun h => h)))

-- Snapshot sets and restores (R360, R363, R374)

theorem execSetSnapset (m : HostMsg) (h : s.Formed F) : Leaves F (execSetSnapset m s) := by
  refine leaves_next (h.hostCommand m 8 false _ fun p h => ?_)
  exact ite (h.complete32 _ _ _ _) (ite (h.complete32 _ _ _ _) (ite (h.complete32 _ _ _ _) (complete32 _ _ _ _ ((h.modPart p _).connect0 _))))

theorem execCancelCut (m : HostMsg) (h : s.Formed F) : Leaves F (execCancelCut m s) :=
  leaves_next (h.hostCommand m 9 false _ fun p h => complete32 _ _ _ _ (h.recordSnaps p _))

theorem writeRange (p : BitVec 5) (r : SnapRange) (off : Nat) (data : List Byte) (h : s.Formed F) : (s.writeRange p r off data).Formed F := by
  unfold State.writeRange
  refine ite (h.modCore _ fun {k} h => ?_) (foldl (fun i h => ?_) _ h)
  · exact ⟨h.sp, F.kept_stable.put _ _ h.hold, Form.map_filter _ h.holdErr, h.planes, h.mx, h.suspended⟩
  · exact withHbm (h.sampleRun _ _ _ _ _) (F.mem_stable.put _ _ h.hbm)

theorem restoreSegments (p : BitVec 5) (rs : List SnapRange) (key m image : List Byte) (es : List ((Nat × Nat × Nat) × Nat)) (h : s.Formed F) :
    (s.restoreSegments p rs key m image es).1.Formed F := by
  induction es generalizing s with
  | nil => exact h
  | cons e rest ih =>
    unfold State.restoreSegments
    dsimp only
    split
    · exact h
    · split
      · exact ih (h.writeRange p _ _ _)
      · exact h

theorem setTenant (t : Tenant) (h : s.Formed F) : (s.setTenant t).Formed F := h

theorem restoreImage (p : BitVec 5) (m : List Byte) (h : s.Formed F) : (s.restoreImage p m).2.Formed F := by
  unfold State.restoreImage
  dsimp only
  split
  · exact h
  · split
    · exact h
    · split
      · split
        · exact h
        · split
          · exact h
          · split
            · exact (setTenant _ (h.restoreSegments p _ _ _ _ _)).modPart p _
            · exact (h.restoreSegments p _ _ _ _ _).modPart p _
      · exact h

theorem execRestore (m : HostMsg) (h : s.Formed F) : Leaves F (execRestore m s) := by
  refine leaves_next (h.hostCommand m 10 true _ fun p h => ite (h.complete32 _ _ _ _) (ite (h.complete32 _ _ _ _) ?_))
  have hr := h.restoreImage p m.fetched
  refine ite ?_ (ite (hr.complete32 _ _ _ _) (hr.complete32 _ _ _ _))
  exact foldl (fun g h => h.askCopy p g) _ h

theorem execReadStatus (m : HostMsg) (h : s.Formed F) : Leaves F (execReadStatus m s) :=
  leaves_next (h.hostCommand m 12 false _ fun {s} _ h => complete32 (s := { s with out := _ }) _ _ _ _ h)

theorem execHostMsg (m : HostMsg) (h : s.Formed F) : Leaves F (execHostMsg m s) := by
  unfold Machine.execHostMsg
  split
  · exact h.execArmTide m
  · exact h.execDisarmTide m
  · exact h.execBindHandle m
  · exact h.execSetCap m
  · exact h.execSetRing m
  · exact h.execSetClass m
  · exact h.execSetSnapset m
  · exact h.execCancelCut m
  · exact h.execRestore m
  · exact h.execSemAdd m
  · exact h.execReadStatus m
  · exact h.execLoadPlane m

end State.Formed

end Sys2Proof.Machine
end

section
/-! The harbourmaster, power and reset, and the forms (O6). -/
namespace Sys2Proof.Machine
open Sys2Proof
variable {F : Form}

/-- Frames cleared leave a memory its form. -/
theorem Form.mem_clearFrames {m : PMem} (fs : List Nat) (h : F.mem m) : F.mem (m.clearFrames fs) := by
  refine F.mem_stable.foldl (fun f hm => ?_) fs h
  cases F
  · trivial
  · exact PMem.splice_wf hm rfl (fun _ h => nomatch h) .nil (fun _ h => nomatch h) (fun _ h => nomatch h)
  · trivial

namespace Core.Formed
variable {k : Core}

theorem blank_planes : ∀ p ∈ (Vector.replicate 2 Plane.empty), p.Formed F := fun p hp => by
  rw [(Vector.mem_replicate.mp hp).2]
  exact Plane.formed_empty

theorem scrub (h : k.Formed F) : k.scrub.Formed F :=
  ⟨F.mem_stable.empty, F.kept_stable.empty, Form.map_nil, blank_planes,
   Mx.Formed.withStores (m := Mx.reset) Mx.Formed.reset.tabled Form.map_nil Form.map_nil Form.map_nil, h.suspended⟩

/-- A core stopped has its planes disarmed. -/
theorem disarmed (h : k.Formed F) : ({ k with planes := k.planes.map (fun p => { p with armed := false }) } : Core).Formed F :=
  h.withPlanes fun p hp => by
    obtain ⟨q, hq, rfl⟩ := Vector.mem_map.mp hp
    exact h.planes q hq

theorem uncleared (h : k.Formed F) : k.uncleared.Formed F := by
  refine ⟨h.sp, h.hold, h.holdErr, fun p hp => ?_, Mx.Formed.withStores (m := Mx.reset) Mx.Formed.reset.tabled h.mx.1 h.mx.2.1 h.mx.2.2.1, fun u hu => nomatch hu⟩
  obtain ⟨q, hq, rfl⟩ := Vector.mem_map.mp hp
  exact ⟨(h.planes q hq).1, Form.map_nil⟩

end Core.Formed

namespace State.Formed
variable {s : State}

-- Requests (R403, R412)

theorem replyReq (m : ReqMsg) (status reason : Nat) (body : List Byte) (h : s.Formed F) : (s.replyReq m status reason body).Formed F := h

theorem request (h : s.Formed F) (m : ReqMsg) (code : Nat) (ok : Bool) {f : State} (hf : f.Formed F) : (s.request m code ok f).Formed F :=
  ite h (ite h (ite (h.replyReq _ _ _ _) hf))

theorem acceptSeq (m : ReqMsg) (h : s.Formed F) : (s.acceptSeq m).Formed F := h

theorem operatorRequest (m : ReqMsg) (code n : Nat) (ok : Bool) {f : Except Nat (State × List Byte)} (hf : ∀ t, f = .ok t → t.1.Formed F)
    (h : s.Formed F) : (s.operatorRequest m code n ok f).Formed F := by
  refine h.request m code _ (ite (h.replyReq _ _ _ _) ?_)
  split
  · exact h.replyReq _ _ _ _
  · exact ((hf _ rfl).acceptSeq m).replyReq _ _ _ _

/-- A request that is refused, or else does `t`. -/
theorem of_ite_error {α : Type} {c : Prop} [Decidable c] {r : Nat} {g : Except Nat α} {P : α → Prop} (h : ∀ t, g = .ok t → P t) :
    ∀ t, (if c then .error r else g) = .ok t → P t := by
  intro t e
  split at e
  · cases e
  · exact h t e

/-- A request that is granted does what it was granted for. -/
theorem of_ok {α : Type} {a : α} {P : α → Prop} (h : P a) : ∀ t, (.ok a : Except Nat α) = .ok t → P t := fun _ e => by
  cases e
  exact h

-- CREATE and DESTROY (R404, R407)

theorem forgetCores (cs : List CoreId) (gs : List (BitVec 16)) (h : s.Formed F) : (s.forgetCores cs gs).Formed F := h

theorem scrub (p : BitVec 5) (cs : List CoreId) (fs : List Nat) (h : s.Formed F) : (s.scrub p cs fs).Formed F := by
  unfold State.scrub
  extract_lets s1
  have h1 : s1.Formed F := forgetCores cs _ (foldl (fun c h => h.modCore c fun h => h.scrub) cs h)
  clear_value s1
  exact ⟨Form.mem_clearFrames fs h1.hbm, h1.hostMem, h1.peerMem, h1.pages, h1.frames, Form.map_filter _ h1.handles, h1.vfs, h1.ringTables, h1.inj,
    h1.filters, h1.cores⟩

theorem withFrames {m : SMap Nat} (h : s.Formed F) (hm : F.map 0 m) : ({ s with frames := m } : State).Formed F :=
  ⟨h.hbm, h.hostMem, h.peerMem, h.pages, hm, h.handles, h.vfs, h.ringTables, h.inj, h.filters, h.cores⟩

theorem clearPart (p : BitVec 5) (q : BitVec 32) (fs : List Nat) (h : s.Formed F) : (s.clearPart p q fs).Formed F := by
  unfold State.clearPart
  generalize maskCores q = cs
  refine scrub p cs fs ?_
  exact h.withFrames (Form.map_foldl_set (fun i => i) (fun _ _ => p.toNat + 1) fs h.frames)

theorem makePart (p : BitVec 5) (m : ReqMsg) (q : BitVec 32) (vfs fs : List Nat) (h : s.Formed F) : (s.makePart p m q vfs fs).Formed F := by
  unfold State.makePart
  extract_lets f cs sorted s2 old tenant _ part _ s3
  clear_value cs sorted
  have h2 : s2.Formed F := by
    refine foldl (fun e h => ?_) _ h
    exact h.modCore _ fun h => h
  clear_value s2
  have h3 : s3.Formed F :=
    ⟨h2.hbm, h2.hostMem, h2.peerMem, h2.pages, h2.frames, h2.handles, Form.map_foldl_set (fun v => v) (fun _ _ => p.toNat + 1) vfs h2.vfs, h2.ringTables,
     Form.map_filter _ h2.inj, h2.filters, h2.cores⟩
  exact ite h3 (h3.setTenant _)

theorem dropPart (p : BitVec 5) (h : s.Formed F) : (s.dropPart p).Formed F := by
  unfold State.dropPart
  extract_lets q _ _ s3
  have h3 : s3.Formed F :=
    ⟨h.hbm, h.hostMem, h.peerMem, Form.map_filter _ h.pages, Form.map_foldl_set (fun i => i) (fun _ _ => 0) _ h.frames, Form.map_filter _ h.handles,
     Form.map_foldl_set (fun v => v) (fun _ _ => 0) _ h.vfs, h.ringTables, h.inj, h.filters, h.cores⟩
  exact ite h3 (h3.setTenant _)

theorem endRequest (m : ReqMsg) (h : s.Formed F) : (s.endRequest m).Formed F := replyReq m _ _ _ (ite (h.makePart _ m _ _ _) (h.dropPart _))

theorem harbourDone (h : s.Formed F) : s.harbourDone.Formed F := by
  unfold State.harbourDone
  split
  · exact ite (endRequest (s := { s with harbour := _ }) _ h) h
  · exact h

theorem operatorStart (m : ReqMsg) (code n : Nat) (ok : Bool) {f : Except Nat State} (hf : ∀ t, f = .ok t → t.Formed F) (h : s.Formed F) :
    (s.operatorStart m code n ok f).Formed F := by
  refine h.request m code _ (ite (h.replyReq _ _ _ _) ?_)
  split
  · exact h.replyReq _ _ _ _
  · rename_i t
    have ht : (t.acceptSeq m).Formed F := (hf t rfl).acceptSeq m
    exact harbourDone (s := { t.acceptSeq m with harbour := _ }) ht

theorem execCreate (m : ReqMsg) (h : s.Formed F) : Leaves F (execCreate m s) :=
  leaves_next (h.operatorStart m 0x101 _ _ (of_ite_error (of_ok (h.clearPart _ _ _))))

-- LAUNCH, STOP, RESUME, DESTROY (R405-R407)

theorem execLaunch (m : ReqMsg) (h : s.Formed F) : Leaves F (execLaunch m s) :=
  leaves_next (h.operatorRequest m 0x102 _ _ (of_ite_error (of_ite_error (of_ok (P := fun (t : State × List Byte) => t.1.Formed F) h))))

theorem stopTask (c : CoreId) (h : s.Formed F) : (s.stopTask c).Formed F := by
  unfold State.stopTask
  dsimp only
  refine ite h ?_
  split
  · exact h.modCore c fun h => h
  · exact ite ((h.postRecord c _).modCore c fun h => h) ((h.postRecord c _).dropTask c)

theorem stopCore (c : CoreId) (h : s.Formed F) : (s.stopCore c).Formed F := by
  unfold State.stopCore
  extract_lets s1 m _ s2
  have h1 : s1.Formed F := h.stopTask c
  have h2 : s2.Formed F := by
    unfold s2
    split
    · exact modCore c ((h1.postRecord c _).abortAll c _ _) fun h => h.withSuspended fun u hu => nomatch hu
    · exact h1
  exact h2.modCore c fun h => h.disarmed

theorem stopPart (p : BitVec 5) (h : s.Formed F) : (s.stopPart p).Formed F := modPart p _ (foldl (fun c h => h.stopCore c) _ h)

theorem execStop (m : ReqMsg) (h : s.Formed F) : Leaves F (execStop m s) :=
  leaves_next (h.operatorRequest m 0x103 _ _ (of_ite_error (of_ok (h.stopPart _))))

theorem execResume (m : ReqMsg) (h : s.Formed F) : Leaves F (execResume m s) :=
  leaves_next (h.operatorRequest m 0x104 _ _ (of_ite_error (of_ite_error (of_ok (h.modPart _ _)))))

theorem abortCore (c : CoreId) (h : s.Formed F) : (s.abortCore c).Formed F := by
  unfold State.abortCore
  extract_lets s0 s1
  have h0 : s0.Formed F := ite (dropTask c (h.modCore c fun h => h)) h
  have h1 : s1.Formed F := h0.abortAll c _ _
  exact foldl (fun q h => ite (h.complete c _ _) h) _ h1

theorem destroyPart (p : BitVec 5) (h : s.Formed F) : (s.destroyPart p).Formed F := by
  unfold State.destroyPart
  extract_lets cs s1
  have h1 : s1.Formed F := by
    refine foldl (fun c h => ?_) cs (h.stopPart p)
    exact modCore c (h.abortCore c) fun h => h
  clear_value cs s1
  exact (h1.scrub p _ _).modPart p _

theorem execDestroy (m : ReqMsg) (h : s.Formed F) : Leaves F (execDestroy m s) :=
  leaves_next (h.operatorStart m 0x105 _ _ (of_ite_error (of_ok (h.destroyPart _))))

-- INJECT (R327)

theorem setInjector (m : ReqMsg) (key : Nat) (h : s.Formed F) : (s.setInjector m key).Formed F := h.withInj (Form.map_set _ _ h.inj)

theorem injectSet (m : ReqMsg) (h : s.Formed F) : (s.injectSet m).Formed F := by
  unfold State.injectSet
  extract_lets f i c b7 s1
  split
  · have h1 : s1.Formed F := h.modCore c fun h => h
    exact ite (foldl (fun n h => (h.setInjector m _).setInjector m _) _ h1) h1
  · exact h.setInjector m _
  · exact foldl (fun d h => h.setInjector m _) _ h
  · exact foldl (fun d h => h.setInjector m _) _ h

theorem execInject (m : ReqMsg) (h : s.Formed F) : Leaves F (execInject m s) :=
  leaves_next (h.operatorRequest m 0x106 _ _ (of_ite_error (of_ok (h.injectSet m))))

-- ATTEST, RELEASE, COMMIT, CAPS (R408-R410, R419)

theorem execAttest (m : ReqMsg) (h : s.Formed F) : Leaves F (execAttest m s) :=
  leaves_next (h.request m 0x110 _ (ite (h.replyReq _ _ _ _) h))

theorem execRelease (m : ReqMsg) (h : s.Formed F) : Leaves F (execRelease m s) := by
  refine leaves_next (h.request m 0x111 _ (ite (h.replyReq _ _ _ _) ?_))
  split
  · exact h.replyReq _ _ _ _
  · refine ite (h.replyReq _ _ _ _) ?_
    dsimp only
    split
    · exact h
    · exact h

theorem execCommit (m : ReqMsg) (h : s.Formed F) : Leaves F (execCommit m s) :=
  leaves_next (h.request m 0x112 _ (ite (h.replyReq _ _ _ _) ((h.setTenant _).replyReq _ _ _ _)))

theorem execCaps (m : ReqMsg) (h : s.Formed F) : Leaves F (execCaps m s) := leaves_next (h.request m 0x113 _ (h.replyReq _ _ _ _))

theorem execReqMsg (m : ReqMsg) (h : s.Formed F) : Leaves F (execReqMsg m s) := by
  unfold Machine.execReqMsg
  split
  · exact h.execLaunch m
  · exact h.execStop m
  · exact h.execResume m
  · exact h.execDestroy m
  · exact h.execInject m
  · exact h.execAttest m
  · exact h.execRelease m
  · exact h.execCommit m
  · exact h.execCaps m
  · exact h.execCreate m

theorem harbourTick (h : s.Formed F) : s.harbourTick.1.Formed F := by
  have hd := h.harbourDone
  unfold State.harbourTick
  dsimp only
  split
  · exact hd
  · exact hd

-- Power and reset (R414, R416, R417)

theorem execStealWindow (basin : BitVec 2) (n : BitVec 6) (h : s.Formed F) : Leaves F (execStealWindow basin n s) :=
  Leaves.ite (leaves_next h) (leaves_next h)

/-- What reset leaves of the package has every form. -/
theorem afterReset (h : s.Formed F) : s.afterReset.Formed F :=
  ⟨F.mem_stable.empty, h.hostMem, h.peerMem, Form.map_nil, Form.map_nil, Form.map_nil, Form.map_nil, Form.map_nil, Form.map_nil, Form.map_nil,
   fun k hk => by rw [(Vector.mem_replicate.mp hk).2]; exact Core.Formed.reset⟩

theorem powerRemoved (h : s.Formed F) : s.powerRemoved.Formed F := h.afterReset

theorem uncleared {t : State} (ht : t.Formed F) (h : s.Formed F) : (t.uncleared s).Formed F :=
  ⟨h.hbm, ht.hostMem, ht.peerMem, ht.pages, h.frames, h.handles, ht.vfs, ht.ringTables, ht.inj, ht.filters, fun k hk => by
    obtain ⟨j, hj, rfl⟩ := Vector.mem_map.mp hk
    exact (h.cores j hj).uncleared⟩

theorem execThermalResponse (t : Thermal) (h : s.Formed F) : Leaves F (execThermalResponse t s) := by
  cases t with
  | hot120 => exact leaves_next h.powerRemoved
  | coolant => exact leaves_next h.powerRemoved
  | _ => exact leaves_next h

theorem booted (b : BootStop) (h : s.Formed F) : (s.booted b).Formed F := by
  unfold State.booted
  extract_lets r _ r1
  have hr : r.Formed F := ite h.afterReset (uncleared h.afterReset h)
  clear_value r
  have h1 : r1.Formed F := ite hr hr
  clear_value r1
  exact ite h1 h1

theorem execReset (stop : BootStop) (h : s.Formed F) : Leaves F (execReset stop s) := leaves_next (h.booted _)

end State.Formed

end Sys2Proof.Machine
end

section
/-! SUPPORT for O6. Acts from outside (R398, R414, R416), and every item of the opcode table that is no instruction of a slot. -/
namespace Sys2Proof.Machine
open Sys2Proof
variable {F : Form}

namespace State.Formed
variable {s : State}

-- Acts of agents outside the package

theorem manage (frame : Nat) (write : Option (List Byte)) (h : s.Formed F) : (s.manage frame write).Formed F := by
  unfold State.manage
  split
  · exact h
  · exact h.withHbm (F.mem_stable.put _ _ h.hbm)
  · exact h

theorem reroute (h : s.Formed F) : s.reroute.Formed F := by
  refine foldl (fun p h => ?_) _ h
  dsimp only
  split
  · exact h
  · exact foldl (fun q h => h.xmit q) _ (h.modPort p _)

theorem setFar (chip : BitVec 21) (p : Port) (up : Bool) (h : s.Formed F) : (s.setFar chip p up).Formed F :=
  ite h (ite h (ite h (reroute (s := { s with farDown := _ }) h)))

theorem faultMessage (chip : BitVec 21) (bytes : List Byte) (h : s.Formed F) : (s.faultMessage chip bytes).Formed F :=
  xmit (s := { s with out := _ }) _ h

theorem order (o : Outside) (h : s.Formed F) : (s.order o).Formed F := by
  have fw {t : State} (ht : t.Formed F) : (if s.firmware then t else s).Formed F := ite ht h
  cases o with
  | clearInterval t => exact fw (ite (h.withFilters h.filters rfl) h)
  | sampling k => exact fw (ite (h.withFilters h.filters rfl) h)
  | powerCap w => exact fw (ite h h)
  | ringLength d n => exact fw (ite h h)
  | group g chips => exact fw h
  | pfcPriority p => exact fw h
  | address vf mac ip gid vlan => exact fw h
  | connect vf qp => exact fw h
  | frameAccess frame w => exact fw (h.manage frame w)
  | operatorRecord key => exact ite h h
  | holdError c g bits => exact h.modCore c fun h => h.withHoldErr (Form.map_set _ _ h.holdErr)
  | padError c g corrected => exact h.modCore c fun h => h.injected .pad g _
  | accError c i corrected => exact h.modCore c fun h => h.injected .acc i _
  | hbmError loc corrected => exact ite (h.noteHbm loc false) (h.withHbm (F.mem_stable.setPoison _ _ h.hbm))
  | peerDown p => exact ite (h.portDown p) h
  | trainFails p => exact ite h h
  | farPort chip p up => exact fw (h.setFar chip p up)
  | cutDiffers part => exact fw (h.refuseCut part)
  | faultMessage chip bytes => exact fw (h.faultMessage chip bytes)
  | bulkArrival b => exact fw h
  | firstFlip c => exact fw (ite (h.setCore c (h.core c).flip) h)

-- Items of the opcode table that are no slot instruction

theorem execHeaderOnlyBundle (dp : Bool) (h : s.Formed F) : Leaves F (execHeaderOnlyBundle dp s) :=
  leaves_next (commit _ _ (fun _ hp => nomatch hp) (h.modCore _ fun h => by split <;> [exact h.flip; exact h]))

theorem exec_event {i : Instr} (hi : i.ctl? = none) (h : s.Formed F) : Leaves F (exec i s) := by
  cases i with
  | headerOnlyBundle dp => exact h.execHeaderOnlyBundle dp
  | exitWeightAdd core => exact leaves_next (h.returnWeights core)
  | mxQueuedStart core => exact h.execMxQueuedStart core
  | streamRowEntry core => exact h.execStreamRowEntry core
  | resultLanding core idx => exact h.execResultLanding core idx
  | drainBoundTrap core => exact h.execDrainBoundTrap core
  | gateTakesEffect core => exact h.execGateTakesEffect core
  | wakeEnd core => exact h.execWakeEnd core
  | migrPageExchange core q => exact h.execMigrPageExchange core q
  | commandStart core q => exact h.execCommandStart core q
  | commandCompletion core q => exact h.execCommandCompletion core q
  | deliveryAcceptance core q target => exact h.execDeliveryAcceptance core q target
  | laneFlitInject core q => exact h.execLaneFlitInject core q
  | collChunkArrival op => exact h.execCollChunkArrival op
  | collHopTimeout core q => exact h.execCollHopTimeout core q
  | waitSatisfied core => exact leaves_next (h.endWait core _)
  | landingFreezeRelease core => exact leaves_next (h.endWait core _)
  | engineQueueEntryFree core => exact leaves_next (h.endWait core _)
  | hoistEntryAvailable core => exact leaves_next (h.endWait core _)
  | latemaxExpiry core => exact h.execLatemaxExpiry core
  | tideOccurrenceDue core plane entry => exact h.execTideOccurrenceDue core plane entry
  | contextSaveBegin core => exact h.execContextSaveBegin core
  | contextSaveEnd core => exact h.execContextSaveEnd core
  | selection core => exact h.execSelection core
  | contextResumeEnd core => exact h.execContextResumeEnd core
  | faultMap id pte => exact h.execFaultMap id pte
  | faultRefuse id => exact h.execFaultRefuse id
  | faultmaxExpiry id => exact h.execFaultmaxExpiry id
  | pageTableUpdate page pte => exact h.execPageTableUpdate page pte
  | filterClear f => exact h.execFilterClear f
  | cutInstant part => exact h.execCutInstant part
  | cowCopyDone part g => exact h.execCowCopyDone part g
  | drainGranule part => exact h.execDrainGranule part
  | imageConfirmed part => exact h.execImageConfirmed part
  | drainFailure part unreachable => exact h.execDrainFailure part unreachable
  | dredgeScanGranule core q engine => exact h.execDredgeScanGranule core q engine
  | dredgeMerge core q => exact h.execDredgeMerge core q
  | tmld d cb off => exact leaves_next (h.tmLoad cb off _)
  | tmldC d cb q off => exact leaves_next (h.tmLoad cb off _)
  | tmst d cb off => exact h.execTmst d cb off
  | tmnop | tmadd | tmsub | tmaddl | tmshrSqrt | tmshrRsqrt | tmshrRcp | tmcvtL2fLo | tmcvtL2fHi | tmcvtF2lLo | tmcvtF2lHi | tmfxAdd | tmfxSub
  | tmfxSar | tmfxShl | tmmul | tmsel | tmcmp | tmmin | tmmax | tmsgnCopy | tmsgnXor | tmsgnAbs | tmsgnNeg | tmrnd | tmaddi | tmmovi | tmbr
  | tmloop | tmend | tmmov | tmmovBc16 | tmmovBc32 | tmmovGet16 | tmmovGet32 => exact leaves_next (h.trimOp _)
  | flitReceive p flit => exact h.execFlitReceive p flit
  | ackTimer p => exact h.execAckTimer p
  | replayTimeout p => exact h.execReplayTimeout p
  | portRetrain p => exact h.execPortRetrain p
  | fabricOperationArrival op => exact h.execFabricOperationArrival op
  | e2eResponseArrival r => exact h.execE2eResponseArrival r
  | holdNotice incoming n => exact h.execHoldNotice incoming n
  | e2eResendTimeout n => exact h.execE2eResendTimeout n
  | e2eLinkTimeout n => exact h.execE2eLinkTimeout n
  | l3ArrivalCount key chip count => exact h.execL3ArrivalCount key chip count
  | l3PhaseChange key => exact h.execL3PhaseChange key
  | beaconSend p => exact h.execBeaconSend p
  | beaconReceive p sent recv => exact h.execBeaconReceive p sent recv
  | ptpEventMessage port egress seqId => exact h.execPtpEventMessage port egress seqId
  | disciplineStep two => exact h.execDisciplineStep two
  | tnowLoad v => exact h.execTnowLoad v
  | frequencyLock src => exact h.execFrequencyLock src
  | referenceLoss => exact h.execReferenceLoss
  | stealWindow basin n => exact h.execStealWindow basin n
  | thermalResponse t => exact h.execThermalResponse t
  | reset stop => exact h.execReset stop
  | planeLoadEnd core => exact h.execPlaneLoadEnd core
  | rdmaWrite pair rkey off data => exact h.execRdmaWrite pair rkey off data
  | rdmaRead vf rkey off len => exact h.execRdmaRead vf rkey off len
  | rdmaAtomicRequest vf => exact h.execRdmaAtomicRequest vf
  | loadPlane m => exact h.execLoadPlane m
  | armTide m => exact h.execArmTide m
  | disarmTide m => exact h.execDisarmTide m
  | bindHandle m => exact h.execBindHandle m
  | setCap m => exact h.execSetCap m
  | setRing m => exact h.execSetRing m
  | setClass m => exact h.execSetClass m
  | setSnapset m => exact h.execSetSnapset m
  | cancelCut m => exact h.execCancelCut m
  | restore m => exact h.execRestore m
  | semAdd m => exact h.execSemAdd m
  | readStatus m => exact h.execReadStatus m
  | create m => exact h.execCreate m
  | launch m => exact h.execLaunch m
  | stop m => exact h.execStop m
  | resume m => exact h.execResume m
  | destroy m => exact h.execDestroy m
  | inject m => exact h.execInject m
  | attest m => exact h.execAttest m
  | release m => exact h.execRelease m
  | commit m => exact h.execCommit m
  | caps m => exact h.execCaps m
  | duplicateEntryReplacement chip core => exact h.execDuplicateEntryReplacement chip core
  | pfcPauseFrame port pause => exact h.execPfcPauseFrame port pause
  | _ => cases hi

end State.Formed

end Sys2Proof.Machine
end

section
/-! SUPPORT for O6. What a slot comes to enters no table into the matrix queue but that of an MTBL, which has its 16 entries (R177). -/
namespace Sys2Proof.Machine
open Sys2Proof
variable {F : Form}

/-- Effects of a slot that enter whole tables alone. -/
def Acts (F : Form) (as : List Action) : Prop := ∀ a ∈ as, a.Formed F

namespace Acts

theorem nil : Acts F [] := fun _ h => nomatch h
theorem cons {a : Action} {as : List Action} (ha : a.Formed F) (h : Acts F as) : Acts F (a :: as) := List.forall_mem_cons.mpr ⟨ha, h⟩
theorem one {a : Action} (ha : a.Formed F) : Acts F [a] := cons ha nil
theorem append {as bs : List Action} (ha : Acts F as) (hb : Acts F bs) : Acts F (as ++ bs) := List.forall_mem_append.mpr ⟨ha, hb⟩
theorem map {α : Type} {f : α → Action} {l : List α} (h : ∀ x, (f x).Formed F) : Acts F (l.map f) := List.forall_mem_map.mpr fun x _ => h x

theorem flatMap {α : Type} {f : α → List Action} {l : List α} (h : ∀ x, Acts F (f x)) : Acts F (l.flatMap f) := fun a ha => by
  obtain ⟨x, _, hx⟩ := List.mem_flatMap.mp ha
  exact h x a hx

theorem ite {c : Prop} [Decidable c] {as bs : List Action} (ha : Acts F as) (hb : Acts F bs) : Acts F (if c then as else bs) := by
  split
  · exact ha
  · exact hb

theorem readDraws (k : Core) (m : InjMem) (gs : List Nat) : Acts F (k.readDraws m gs) := ite (one trivial) nil
theorem structDraws (k : Core) (p : Word) (n : Nat) : Acts F (k.structDraws p n) := readDraws k _ _
theorem phaseDraws (k : Core) (n : Nat) : Acts F (k.phaseDraws n) := readDraws k _ _
theorem holdWords (k : Core) (gs : List Nat) : Acts F (k.holdWords gs).2 := append (map fun _ => trivial) (readDraws k _ _)
theorem vResult (k : Core) (vd : Reg) (ws : List VW) (fl : BitVec 7) (n : Nat) : Acts F (k.vResult vd ws fl n) :=
  cons trivial (ite nil (one trivial))

theorem drawn (k : Core) (on : Bool) (js : List Nat) (f : Option (BitVec 32) → Nat → ElRes) : Acts F (k.drawn on js f).2 := by
  unfold Core.drawn
  split
  · exact one trivial
  · exact nil

theorem storeGranule (k : Core) (v : Reg) (mask : BitVec 128) (r g : Nat) (cls : BitVec 4) : Acts F (k.storeGranule v mask r g cls) :=
  ite nil (one trivial)

theorem takeRecord (k : Core) (p : Word) : Acts F (k.takeRecord p).2.1 := by
  unfold Core.takeRecord
  split
  · exact one trivial
  · exact append (structDraws k _ _) (one trivial)

theorem storeRun (off : Nat) (bs : List Byte) : Acts F (storeRun off bs) := map fun _ => trivial
theorem beginPhase (k : Core) : Acts F k.beginPhase := cons trivial (storeRun _ _)
theorem commitPhase (k : Core) (r : List Byte) : Acts F (k.commitPhase r) := cons trivial (one trivial)
theorem abortPhase (k : Core) (r : List Byte) (qs : List Cmd) : Acts F (k.abortPhase r qs) :=
  append (append (one trivial) (flatMap fun _ => append (cons trivial (one trivial)) (one trivial))) (cons trivial (one trivial))

theorem mxQueue (k : Core) (c : Ctl) {i : Instr} (xa xn xn1 : Word) {tbl : List (BitVec 16)} (h : ∀ o t, i = .mtbl o t → F.table tbl) :
    Acts F (k.mxQueue c i xa xn xn1 tbl) := cons trivial (one h)

end Acts

namespace SlotOut.Formed

theorem ok {as : List Action} (h : Acts F as) : (SlotOut.ok as).Formed F := h
theorem early (f : SlotFault) : (SlotOut.early f).Formed F := Acts.nil
theorem fault (f : SlotFault) : (SlotOut.fault f).Formed F := Acts.nil
theorem wait (w : Wait) : (SlotOut.wait w).Formed F := Acts.nil
theorem freeze (w : Wait) : (SlotOut.freeze w).Formed F := Acts.nil
theorem one {a : Action} (ha : a.Formed F) : (SlotOut.ok [a]).Formed F := Acts.one ha
theorem of_nil : (SlotOut.ok []).Formed F := Acts.nil

theorem of_ite {c : Prop} [Decidable c] {o o' : SlotOut} (h : o.Formed F) (h' : o'.Formed F) : (if c then o else o').Formed F := by
  split
  · exact h
  · exact h'

theorem of_orFault {o : SlotOut} {cs : List (Option SlotFault)} (h : o.Formed F) : (orFault cs o).Formed F := by
  induction cs with
  | nil => exact h
  | cons c cs ih =>
    cases c with
    | none => exact ih
    | some f => exact fault f

theorem guarded {k : Core} {c : Ctl} {b : Option Nat} {o : SlotOut} (h : o.Formed F) : (k.guarded c b o).Formed F := by
  unfold Core.guarded
  refine of_ite (early _) (of_ite of_nil (of_ite h ?_))
  split
  · exact early _
  · split
    · exact Acts.append h (Acts.one trivial)
    · exact h

theorem landed {k : Core} {ns : List (BitVec 5)} {sl : Slot} {as : List Action} (h : Acts F as) : (k.landed ns sl as).Formed F := by
  unfold Core.landed
  split
  · exact fault _
  · exact freeze _
  · exact h
  · exact Acts.cons trivial h

theorem of_setOne (xd : Reg) (v : Word) (xs : List XW) : (setOne xd v xs).Formed F := one trivial

theorem loadOut (k : Core) (sl : Slot) (z : MemSize) (xd : Reg) (xs : List XW) (p : Word) : (k.loadOut sl z xd xs p).Formed F :=
  of_orFault (of_ite (one trivial) (landed (Acts.cons trivial (Acts.readDraws k _ _))))

theorem of_storeOut (z : MemSize) (v : XW) (cls : BitVec 4) (xs : List XW) (p : Word) : (storeOut z v cls xs p).Formed F := of_orFault (one trivial)

theorem vMap (k : Core) (o : V3) (n : Nat) (f : Nat → ElRes × Bool) : (k.vMap o n f).Formed F := Acts.vResult k _ _ _ _
theorem packOut (k : Core) (o : V3) (bs : List Byte) (src : Nat → Nat × Nat) : (k.packOut o bs src).Formed F := Acts.vResult k _ _ _ _

theorem gatherOut (k : Core) (o : VM) (z n : Nat) (es : List (Nat × Word)) : (k.gatherOut o z n es).Formed F :=
  landed (Acts.append (Acts.vResult k _ _ _ _) (Acts.readDraws k _ _))

theorem scatterOut (k : Core) (o : VM) (z : Nat) (es : List (Nat × Word)) : (k.scatterOut o z es).Formed F := Acts.map fun _ => trivial

/-- An instruction queued for the array that is no MTBL. -/
theorem queued (k : Core) (c : Ctl) {i : Instr} {xa xn xn1 : Word} {cs : List (Option SlotFault)} (h : ∀ o t, i ≠ .mtbl o t) :
    (Machine.orFault cs (.ok (k.mxQueue c i xa xn xn1 []))).Formed F :=
  of_orFault (ok (Acts.mxQueue k c xa xn xn1 fun o t e => absurd e (h o t)))

theorem cpQueue (k : Core) {as : List Action} (h : Acts F as) : (k.cpQueue as).Formed F := of_ite h (of_ite (fault _) (freeze _))

end SlotOut.Formed

/-- An outcome that records what a slot came to, the effects entering whole tables alone. -/
def Issues (F : Form) (s : State) (o : Host.Outcome State Fault Refusal) : Prop :=
  ∃ sl words out, out.Formed F ∧ o = .next (s.issue sl words out)

namespace Issues
variable {s : State}
open SlotOut.Formed

theorem slot {c : Ctl} {b : Option Nat} {out : Core → SlotOut} (h : ∀ k, (out k).Formed F) : Issues F s (.next (s.slot c b out)) :=
  ⟨_, _, _, guarded (h _), rfl⟩

theorem vslot {c : Ctl} {k : BitVec 3} {b : Nat} {out : Core → SlotOut} (h : ∀ k, (out k).Formed F) : Issues F s (.next (s.vslot c k b out)) :=
  slot fun co => SlotOut.Formed.of_orFault (h co)

theorem cpIssue {o : CP} {i : Instr} {b1 b2 b3 : Bool} {f : Core → CpRegs → CpForm} (h : ∀ k r, Acts F (f k r).acts) :
    Issues F s (.next (s.cpIssue o i b1 b2 b3 f)) :=
  slot fun k => SlotOut.Formed.of_orFault (cpQueue k (Acts.append (h k _) (Acts.one trivial)))

theorem unguarded {sl : Slot} {words : Nat} (f : SlotFault) : Issues F s (.next (s.issue sl words (.early f))) := ⟨_, _, _, SlotOut.Formed.early f, rfl⟩

end Issues

end Sys2Proof.Machine
end

section
/-! SUPPORT for O6. What each slot instruction comes to, and the run of an open bundle (R82, R84). -/
namespace Sys2Proof.Machine
open Sys2Proof
variable {F : Form}

namespace Issues
variable {s : State}
open SlotOut.Formed (ok early fault wait freeze one of_nil of_ite of_orFault landed of_setOne loadOut of_storeOut vMap packOut gatherOut scatterOut queued)

theorem execMovl (c : Ctl) (xd : Reg) (imm : BitVec 50) : Issues F s (execMovl c xd imm s) :=
  ⟨_, _, _, SlotOut.Formed.guarded (of_setOne xd _ []), rfl⟩

theorem execPmov (c : Ctl) (form : PmovForm) : Issues F s (execPmov c form s) := slot fun k => by
  cases form with
  | wr xa => exact ok (Acts.map fun _ => trivial)
  | rd | set | get => exact one trivial

theorem execKmov (c : Ctl) (form : KmovForm) : Issues F s (execKmov c form s) := slot fun k => by
  cases form <;> exact one trivial

theorem execTagchk (c : Ctl) (xd xa xb : Reg) (m : BitVec 4) : Issues F s (execTagchk c xd xa xb m s) := slot fun k => of_orFault (by
  split
  · exact fault _
  · exact one trivial)

theorem execLoop (c : Ctl) (n : Bool) (xa : Reg) (disp : BitVec 18) : Issues F s (execLoop c n xa disp s) := by
  unfold Machine.execLoop
  dsimp only
  split
  · exact Issues.unguarded _
  · exact slot fun k => of_ite (early _) (of_orFault (of_ite (Acts.cons trivial (Acts.one trivial)) (one trivial)))

theorem execLand (c : Ctl) (n : BitVec 5) : Issues F s (execLand c n s) := slot fun k => of_ite (fault _) (by
  split
  · exact fault _
  · exact wait _
  · exact one trivial)

theorem execDomwait (c : Ctl) (l : Level) : Issues F s (execDomwait c l s) := slot fun k => by
  split
  · exact of_ite (wait _) (of_orFault of_nil)
  · exact of_orFault of_nil

theorem execPhaseBegin (c : Ctl) : Issues F s (execPhaseBegin c s) := slot fun k => by
  split
  · exact Acts.cons trivial (Acts.beginPhase k)
  · exact of_orFault (ok (Acts.append (Acts.cons trivial (Acts.phaseDraws k _)) (Acts.beginPhase k)))

theorem execPhaseCommit (c : Ctl) : Issues F s (execPhaseCommit c s) := slot fun k => by
  split
  · exact of_ite (wait _) (ok (Acts.cons trivial (Acts.commitPhase k _)))
  · split
    · exact early _
    · exact of_ite (wait _) (ok (Acts.append (Acts.cons trivial (Acts.phaseDraws k _)) (Acts.commitPhase k _)))

theorem execPhaseAbort (c : Ctl) : Issues F s (execPhaseAbort c s) := slot fun k => by
  split
  · exact of_ite (wait _) (ok (Acts.cons trivial (Acts.abortPhase k _ _)))
  · split
    · exact early _
    · dsimp only
      split
      · exact early _
      · exact of_ite (wait _) (ok (Acts.append (Acts.cons trivial (Acts.phaseDraws k _)) (Acts.abortPhase k _ _)))

theorem execMtbl (o : MX) (t : Bool) : Issues F s (execMtbl o t s) :=
  slot fun k => of_orFault (landed (Acts.append (Acts.mxQueue k _ _ _ _ fun _ _ _ => Form.table_of_length (tableOf_length _)) (Acts.readDraws k _ _)))

/-- Every slot instruction records what it came to. -/
theorem exec_slot {i : Instr} {c : Ctl} (hi : i.ctl? = some c) : Issues F s (exec i s) := by
  cases i with
  | nop => exact slot fun k => of_nil
  | alu | addi | andi | ori | xori | shli | shri | sari | bfx | bfxs | bfi | movi | movk | tagset => exact slot fun k => of_setOne _ _ _
  | muldiv | sel | plog | klog | kpop | br | fence | berthOff | tick | trap => exact slot fun k => one trivial
  | cmp | cmpi | call => exact slot fun k => ok (Acts.cons trivial (Acts.one trivial))
  | movl => exact execMovl _ _ _
  | pmov => exact execPmov _ _
  | kmov => exact execKmov _ _
  | tagchk => exact execTagchk _ _ _ _ _
  | ld | ldx => exact slot fun k => loadOut k _ _ _ _ _
  | st | stx => exact slot fun k => of_storeOut _ _ _ _ _
  | hld => exact slot fun k => of_orFault (ok (Acts.cons trivial (Acts.holdWords k _)))
  | hst => exact slot fun k => of_orFault (of_ite (freeze _) (ok (Acts.cons trivial (Acts.readDraws k _ _))))
  | jmpr => exact slot fun k => of_orFault (ok (Acts.cons trivial (Acts.one trivial)))
  | loop => exact execLoop _ _ _ _
  | csrr | csrw | domWrite | semadd | berthArm | berthTag | domarv | mhcnt | rcf => exact slot fun k => of_orFault (one trivial)
  | csrx | mgateOn | mgateOff | mhpsh => exact slot fun k => of_orFault (ok (Acts.cons trivial (Acts.one trivial)))
  | semwait => exact slot fun k => of_ite (wait _) (of_orFault (ok (Acts.ite (Acts.one trivial) Acts.nil)))
  | semrd => exact slot fun k => ok (Acts.cons trivial (Acts.ite (Acts.one trivial) Acts.nil))
  | fenceWait => exact slot fun k => of_ite (wait _) (one trivial)
  | eret => exact slot fun k => of_ite (one trivial) (fault _)
  | brk => exact slot fun k => fault _
  | land => exact execLand _ _
  | waitt => exact slot fun k => of_ite (wait _) (of_orFault of_nil)
  | domwait => exact execDomwait _ _
  | spawn => exact slot fun k => of_ite (wait _) (of_orFault (one trivial))
  | exit => exact slot fun k => of_ite (wait _) (of_ite (fault _) (one trivial))
  | plswap => exact slot fun k => of_ite (fault _) (of_ite (one trivial) (fault _))
  | plswapCancel => exact slot fun k => of_ite (fault _) (one trivial)
  | phaseBegin => exact execPhaseBegin _
  | phaseCommit => exact execPhaseCommit _
  | phaseAbort => exact execPhaseAbort _
  | vadd | vsub | vmul | vfma | vfms | vmin | vmax | vminn | vmaxn | vabs | vneg | vadds | vsubs | vmulh | vand | vor | vxor | vshl | vshr | vsar
  | vshli | vshri | vsari | vaddx | vmulx | vfmax | vbcst | vext | vl2f | vrcp | vrsq | vsqrt | vexp2 | vlog2 | vexp | vln | vsin | vcos | vtanh
  | vsigm | vgelu | vperm | vshuf => exact vslot fun k => vMap k _ _ _
  | vsel | vqnt | vdqnt | vred => exact vslot fun k => ok (Acts.vResult k _ _ _ _)
  | vcmp => exact vslot fun k => ok (Acts.cons trivial (Acts.ite Acts.nil (Acts.one trivial)))
  | vcvt | vf2l => exact vslot fun k => ok (Acts.append (Acts.vResult k _ _ _ _) (Acts.drawn k _ _ _))
  | vpk6 | vupk6 | vpk4 | vupk4 => exact vslot fun k => packOut k _ _ _
  | vclmp => exact vslot fun k => of_ite (fault _) (ok (Acts.append (Acts.vResult k _ _ _ _) (Acts.ite (Acts.one trivial) Acts.nil)))
  | vacr => exact vslot fun k => of_orFault (ok (Acts.append (Acts.vResult k _ _ _ _) (Acts.readDraws k _ _)))
  | vacw => exact vslot fun k => of_orFault (ok (Acts.map fun _ => trivial))
  | vld => exact vslot fun k => of_orFault (of_ite (ok (Acts.vResult k _ _ _ _)) (landed (Acts.append (Acts.vResult k _ _ _ _) (Acts.readDraws k _ _))))
  | vst => exact vslot fun k => of_orFault (ok (Acts.flatMap fun _ => Acts.storeGranule k _ _ _ _ _))
  | vlds | vgth => exact vslot fun k => of_orFault (gatherOut k _ _ _ _)
  | vsts | vsct => exact vslot fun k => of_orFault (scatterOut k _ _ _)
  | mcfg | mwswap | mstrm | mstrma | mstrmh | mdrn | mdrnh | mclr => exact slot fun k => queued k _ (by rintro _ _ ⟨⟩)
  | mtbl => exact execMtbl _ _
  | mwld => exact slot fun k => of_orFault (ok (Acts.append (Acts.cons trivial (Acts.cons trivial (Acts.one trivial))) (Acts.holdWords k _)))
  | mwlds => exact slot fun k => of_orFault (landed (Acts.append (Acts.cons trivial (Acts.cons trivial (Acts.one trivial))) (Acts.readDraws k _ _)))
  | msave => exact slot fun k => of_orFault (ok (Acts.append (Acts.cons trivial (Acts.one trivial)) (Acts.readDraws k _ _)))
  | mrest => exact slot fun k => of_orFault (landed (Acts.cons trivial (Acts.cons trivial (Acts.readDraws k _ _))))
  | mstat => exact slot fun k => of_orFault (ok (Acts.cons trivial (Acts.ite (Acts.one trivial) Acts.nil)))
  | msync => exact slot fun k => of_orFault (of_ite of_nil (freeze _))
  | cpyt => exact cpIssue fun k r => Acts.append (Acts.takeRecord k _) (Acts.takeRecord k _)
  | gthr => exact cpIssue fun k r => Acts.append (Acts.takeRecord k _) (Acts.takeRecord k _)
  | coll | trim => exact cpIssue fun k r => Acts.structDraws k _ _
  | drg => exact cpIssue fun k r => Acts.append (Acts.structDraws k _ _) (Acts.takeRecord k _)
  | cpyl | cpylBerth | mcast | send | sends | semr | fwr | fwrBerth | ffaa | fflg | fflgAdd | migr | migrRemap | snap | snapSeal | cpab =>
    exact cpIssue fun k r => Acts.nil
  | _ => cases hi

end Issues

end Sys2Proof.Machine
end

section
/-! SUPPORT for O6. The slots of an open bundle, one after another (R82, R84), whose instructions the decoder gives (R66). -/
namespace Sys2Proof.Machine
open Sys2Proof
variable {F : Form}

-- What the decoders give

theorem ctl?_of_encodeSlot {i : Instr} {e : SlotEnc} (h : encodeSlot i = some e) : ∃ c, i.ctl? = some c := by
  cases i <;> first | exact ⟨_, rfl⟩ | cases h

theorem ctl?_of_encodeTrim {i : Instr} {w : BitVec 32} (h : encodeTrim i = some w) : i.ctl? = none := by
  cases i <;> first | rfl | cases h

theorem ctl?_of_decodeSlot {sl : Slot} {l : BitVec 6} {w : BitVec 32} {lit : Option (BitVec 32)} {i : Instr}
    (h : decodeSlot sl l w lit = some i) : ∃ c, i.ctl? = some c := by
  obtain ⟨j, -, hj⟩ := Option.bind_eq_some_iff.mp h
  obtain ⟨he, ⟨⟩⟩ := Option.ite_none_right_eq_some.mp hj
  exact ctl?_of_encodeSlot (beq_iff_eq.mp (Bool.and_eq_true_iff.mp he).2)

theorem ctl?_of_decodeTrim {w : BitVec 32} {i : Instr} (h : decodeTrim w = some i) : i.ctl? = none := by
  obtain ⟨j, -, hj⟩ := Option.bind_eq_some_iff.mp h
  obtain ⟨he, ⟨⟩⟩ := Option.ite_none_right_eq_some.mp hj
  exact ctl?_of_encodeTrim (beq_iff_eq.mp (Bool.and_eq_true_iff.mp he).2)

theorem ctl?_of_decodeBundle {hdr : BitVec 32} {ws : List (BitVec 32)} {b : Bundle} (h : decodeBundle hdr ws = some b) :
    ∀ sl i, (sl, some i) ∈ b.slots → ∃ c, i.ctl? = some c := by
  unfold decodeBundle at h
  dsimp only at h
  split at h
  · cases h
  · cases h
    intro sl i hi
    obtain ⟨p, -, hp⟩ := List.mem_map.mp hi
    exact ctl?_of_decodeSlot (Prod.mk.inj hp).2

theorem decoded_of_fetch {s t : State} {c : CoreId} {b : Bundle} (h : s.fetch c = .bundle t b) :
    t.cur = s.cur ∧ ∃ hdr ws, decodeBundle hdr ws = some b := by
  unfold State.fetch State.fetchOnce at h
  dsimp only at h
  split at h
  · cases h
  · split at h
    · cases h
    · split at h
      · cases h
      · split at h
        · cases h
        · next hb =>
          split at h
          · cases h
          · cases h
            exact ⟨rfl, _, _, hb⟩

-- The slots of an open bundle

/-- The core whose turn it is has a bundle open with `n` slots to come, and what the earlier ones came to enters whole tables alone. -/
def State.Opened (F : Form) (s : State) (n : Nat) : Prop :=
  s.Formed F ∧ ∃ b, (s.core s.cur).bundle = some b ∧ b.left = n ∧ ∀ p ∈ b.outs, p.2.Formed F

namespace State.Opened
variable {s : State}

theorem openBundle (b : Bundle) (h : s.Formed F) : (s.openBundle s.cur b).Opened F b.slots.length :=
  ⟨h.openBundle s.cur b, _, by rw [State.openBundle, State.cur_modCore, State.core_modCore], rfl, fun _ hp => absurd hp List.not_mem_nil⟩

/-- What a slot came to joins what the earlier ones did. -/
theorem outs_append {outs : List (Slot × SlotOut)} {out : SlotOut} (sl : Slot) (ho : out.Formed F) (h : ∀ p ∈ outs, p.2.Formed F) :
    ∀ p ∈ outs ++ [(sl, out)], p.2.Formed F :=
  List.forall_mem_append.mpr ⟨h, fun p hp => by rw [List.mem_singleton.mp hp]; exact ho⟩

theorem issue_last {out : SlotOut} (sl : Slot) (words : Nat) (ho : out.Formed F) (h : s.Opened F 1) : (s.issue sl words out).Formed F := by
  obtain ⟨hs, b, hb, hl, hp⟩ := h
  have e : (s.core s.cur).bundleOf words = b := by rw [Core.bundleOf, hb]
  unfold State.issue
  dsimp only
  rw [e]
  rw [if_pos (by rw [hl])]
  exact hs.commit _ _ (outs_append sl ho hp)

theorem issue {n : Nat} {out : SlotOut} (sl : Slot) (words : Nat) (ho : out.Formed F) (h : s.Opened F (n + 2)) :
    (s.issue sl words out).Opened F (n + 1) := by
  obtain ⟨hs, b, hb, hl, hp⟩ := h
  have e : (s.core s.cur).bundleOf words = b := by rw [Core.bundleOf, hb]
  unfold State.issue
  dsimp only
  rw [e]
  rw [if_neg (by rw [hl]; omega)]
  have hk := hs.core s.cur
  exact ⟨hs.setCore _ hk, _, by rw [State.cur_setCore, State.core_setCore], by rw [hl]; rfl, outs_append sl ho hp⟩

/-- The slots of an open bundle leave every form. -/
theorem runSlots {l : List (Slot × Option Instr)} (hl : ∀ sl i, (sl, some i) ∈ l → ∃ c, i.ctl? = some c) (hne : l ≠ [])
    (h : s.Opened F l.length) : Leaves F (runSlots s l) := by
  induction l generalizing s with
  | nil => exact absurd rfl hne
  | cons p rest ih =>
    obtain ⟨sl, oi⟩ := p
    have go {sl' : Slot} {words : Nat} {out : SlotOut} (ho : out.Formed F) : Leaves F (Machine.runSlots (s.issue sl' words out) rest) := by
      cases rest with
      | nil => exact leaves_next (h.issue_last sl' words ho)
      | cons q rest => exact ih (fun sl i hi => hl sl i (List.mem_cons_of_mem _ hi)) (List.cons_ne_nil _ _) (h.issue sl' words ho)
    cases oi with
    | none => exact go (SlotOut.Formed.early _)
    | some i =>
      obtain ⟨c, hc⟩ := hl sl i List.mem_cons_self
      obtain ⟨sl', words, out, ho, he⟩ := Issues.exec_slot (F := F) (s := s) hc
      unfold Machine.runSlots
      rw [he]
      exact go ho

end State.Opened

namespace State.Formed
variable {s : State}

theorem issueCycle (h : s.Formed F) : Leaves F (s.issueCycle s.cur) := by
  unfold State.issueCycle
  have hf := h.fetch s.cur
  split
  · next e => rw [e] at hf; exact leaves_next hf
  · next t b e =>
    rw [e] at hf
    obtain ⟨hc, hdr, ws, hb⟩ := decoded_of_fetch e
    split
    · exact execHeaderOnlyBundle _ hf
    · next hne =>
      rw [← hc]
      exact State.Opened.runSlots (ctl?_of_decodeBundle hb) (fun e => hne (by rw [e]; rfl)) (State.Opened.openBundle b hf)

end State.Formed

end Sys2Proof.Machine
end

section
/-! SUPPORT for O6. The turns of a tick: cores, trimmers, engines and the package's own units (R82-R84, R201, R335, R404). -/
namespace Sys2Proof.Machine
open Sys2Proof
variable {F : Form}

-- Arrivals leave the turn as it is, so a settled core is still the one whose turn it is

namespace State

theorem foldl_turn {α : Type} {f : State → α → State} (hf : ∀ s a, (f s a).turn = s.turn) (l : List α) (s : State) :
    (l.foldl f s).turn = s.turn := by
  induction l generalizing s with
  | nil => rfl
  | cons a l ih => exact (ih _).trans (hf s a)

theorem turn_xmit (s : State) (p : Packet) : (s.xmit p).turn = s.turn := by
  unfold State.xmit
  split
  · rfl
  · split <;> rfl

theorem turn_sendPhase (s : State) (key : Word) (chip : BitVec 21) : (s.sendPhase key chip).turn = s.turn := turn_xmit _ _

theorem turn_l3Decide (s : State) (key : Word) : (s.l3Decide key).turn = s.turn := by
  unfold State.l3Decide
  split
  · rfl
  · exact foldl_turn (fun s c => turn_sendPhase s key c) _ _

theorem turn_arriveKey (s : State) (key : Word) (l : Level) : (s.arriveKey key l).turn = s.turn := by
  unfold State.arriveKey
  dsimp only
  split
  · split
    · exact turn_l3Decide _ key
    · exact turn_xmit _ _
  · split <;> rfl

theorem turn_release (s : State) (c : CoreId) (l : Level) (key : Word) : (s.release c l key).turn = s.turn := by
  unfold State.release
  dsimp only
  split
  · rfl
  · exact turn_arriveKey _ key l

theorem turn_arriveBits (s : State) (c : CoreId) (b : BitVec 2) : (s.arriveBits c b).turn = s.turn := by
  unfold State.arriveBits
  split
  · rfl
  · exact turn_release _ c _ _

theorem turn_countReleases (s : State) (c : CoreId) : (s.countReleases c).turn = s.turn :=
  foldl_turn (fun s (r : Release) => turn_arriveKey s r.key r.lvl) _ _

theorem turn_makeArrivals (s : State) (c : CoreId) : (s.makeArrivals c).turn = s.turn :=
  (turn_countReleases _ c).trans (foldl_turn (fun s (a : Arrival) => turn_arriveBits s c a.lvl) _ _)

theorem cur_settle {s : State} {c : CoreId} (h : s.turn = .core c) : (s.settle c).cur = c := by
  have e : (s.settle c).turn = .core c := (turn_makeArrivals _ c).trans h
  unfold State.cur
  rw [e]

end State

-- Outcomes one after another

theorem Leaves.andThen {o : Host.Outcome State Fault Refusal} {f : State → Host.Outcome State Fault Refusal} (h : Leaves F o)
    (hf : ∀ {t : State}, t.Formed F → Leaves F (f t)) : Leaves F (andThen o f) := by
  cases o with
  | next t => exact hf (h t rfl)
  | fault r => exact fun _ e => nomatch e
  | refused r => exact leaves_refused r

theorem Leaves.forEach {α : Type} {f : α → State → Host.Outcome State Fault Refusal} (hf : ∀ (a : α) {s : State}, s.Formed F → Leaves F (f a s))
    (l : List α) {s : State} (h : s.Formed F) : Leaves F (forEach f s l) := by
  induction l generalizing s with
  | nil => exact leaves_next h
  | cons a l ih => exact (hf a h).andThen fun ht => ih ht

namespace State.Formed
variable {s : State}

theorem execAll {l : List Instr} (hl : ∀ i ∈ l, i.ctl? = none) (h : s.Formed F) : Leaves F (execAll s l) := by
  induction l generalizing s with
  | nil => exact leaves_next h
  | cons i l ih => exact (h.exec_event (hl i List.mem_cons_self)).andThen fun ht => ih (fun j hj => hl j (List.mem_cons_of_mem _ hj)) ht

-- The turn of a core

theorem settle (c : CoreId) (h : s.Formed F) : (s.settle c).Formed F := makeArrivals c (modCore c h fun h => (h.landDueWork.retireItems).flush _)

theorem runCycle (h : s.Formed F) : Leaves F (s.runCycle s.cur) := by
  have frozen (w : Wait) (slot : Nat) :
      Leaves F (.next ((s.holdEffect s.cur w).modCore s.cur (fun k => k.freezeOn w slot s.tnow s.clock.cycle))) :=
    leaves_next (modCore s.cur (h.holdEffect s.cur w) fun h => h.freezeOn w slot _ _)
  unfold State.runCycle
  dsimp only
  split
  · exact frozen _ _
  · split
    · split
      · exact Leaves.ite (frozen _ _) (leaves_next (h.modCore _ fun h => h.freezeRow _ _ _))
      · exact frozen _ _
    · split
      · exact Leaves.ite h.issueCycle (frozen _ _)
      · exact Leaves.ite (leaves_next (h.modCore _ fun h => h.taskCycle)) h.issueCycle

theorem coreCycle (h : s.Formed F) : Leaves F (s.coreCycle s.cur) := by
  have slip {t : State} (ht : t.Formed F) : (t.modCore s.cur fun k => if k.run == .running then k.slipCycle else k).Formed F :=
    ht.modCore s.cur fun h => by split <;> [exact h.slipCycle; exact h]
  unfold State.coreCycle
  dsimp only
  refine Leaves.ite (leaves_next (ite (h.modCore _ fun h => h.slipCycle) h)) (Leaves.ite (leaves_next (slip (h.askPending _))) ?_)
  split
  · exact h.runCycle
  · exact leaves_next (ite (h.landTick _) (h.modCore _ fun h => h.restCycle))
  · exact leaves_next (h.modCore _ fun h => h.restCycle)

theorem turnOver (c : CoreId) (h : s.Formed F) : (s.turnOver c).Formed F := h.flushNotes c

end State.Formed

/-- An instruction, if any, that no slot holds. -/
def NoSlot (o : Option Instr) : Prop := ∀ i, o = some i → i.ctl? = none

namespace NoSlot

theorem none : NoSlot none := fun _ h => nomatch h
theorem some {i : Instr} (h : i.ctl? = .none) : NoSlot (some i) := fun _ e => Option.some.inj e ▸ h

theorem ite {c : Prop} [Decidable c] {o o' : Option Instr} (h : NoSlot o) (h' : NoSlot o') : NoSlot (if c then o else o') := by
  split
  · exact h
  · exact h'

theorem map {α : Type} {o : Option α} {f : α → Instr} (h : ∀ a, (f a).ctl? = .none) : NoSlot (o.map f) := by
  cases o with
  | none => exact none
  | some a => exact some (h a)

theorem endEvent (w : Wait) (c : CoreId) : NoSlot (.some (w.endEvent c)) := some (by cases w <;> rfl)

theorem arrayDue (k : Core) (c : CoreId) : NoSlot (k.arrayDue c) := by
  refine ite (some rfl) (ite (some rfl) (ite (some rfl) ?_))
  split
  · exact some rfl
  · split
    · exact none
    · refine ite none ?_
      split
      · exact none
      · exact some rfl
  · exact none

theorem coreEvent (s : State) (c : CoreId) : NoSlot (s.coreEvent c) := by
  unfold State.coreEvent
  extract_lets k own
  have hown : NoSlot own := by
    unfold own
    split
    · exact some rfl
    · split
      · next e => exact e ▸ arrayDue k c
      · split
        · exact ite (endEvent _ c) (ite (some rfl) none)
        · exact none
  clear_value own k
  split
  · exact some rfl
  · cases k.run with
    | saving => exact ite (some rfl) none
    | resuming => exact ite (some rfl) none
    | preempting =>
      cases own with
      | none => exact ite none (ite none (some rfl))
      | some i => exact ite none hown
    | idle =>
      cases own with
      | none => exact ite none (ite (some rfl) none)
      | some i => exact ite none hown
    | running =>
      cases own with
      | none => exact ite none none
      | some i => exact ite none hown

theorem cmdEvent (s : State) (c : CoreId) (q : Cmd) : NoSlot (s.cmdEvent c q) := by
  unfold State.cmdEvent
  extract_lets accept
  have ha : NoSlot accept := by
    unfold accept
    split
    · exact map fun _ => rfl
    · exact none
  clear_value accept
  refine ite (some rfl) (ite (some rfl) (ite none ?_))
  split
  · exact ha
  · exact ha
  · exact ha
  · refine ite ha ?_
    split
    · exact ite (some rfl) none
    · exact none
  · exact ite (some rfl) none
  · exact ite (some rfl) none
  · exact ite (ite (some rfl) none) ha
  · exact none

theorem trimNext (k : Core) : NoSlot k.trimNext := by
  unfold Core.trimNext
  split
  · exact none
  · exact ite (fun _ => ctl?_of_decodeTrim) none

end NoSlot

namespace State.Formed
variable {s : State}

theorem coreTurn {c : CoreId} (hc : s.turn = .core c) (h : s.Formed F) : Leaves F (s.coreTurn c) := by
  unfold State.coreTurn
  split
  · exact leaves_next (h.enterTrap c _)
  · split
    · exact (h.execLatemaxExpiry _).andThen fun ht => leaves_next ((ht.settle c).turnOver c)
    · next e => exact h.exec_event (NoSlot.coreEvent s c _ e)
    · refine Leaves.ite (leaves_next (h.preempt c)) (Leaves.ite (leaves_next (h.landPreempted c)) ?_)
      have hk := (h.settle c).coreCycle
      rw [State.cur_settle hc] at hk
      exact hk.andThen fun ht => leaves_next (ht.turnOver c)

theorem trimCycle (c : CoreId) (h : s.Formed F) : Leaves F (s.trimCycle c) := by
  refine Leaves.andThen ?_ fun ht => leaves_next (ht.flushNotes c)
  split
  · next e => exact h.exec_event (NoSlot.trimNext _ _ e)
  · exact leaves_next (h.trimIdle c)

-- The engines of a core

theorem cmdEvents (c : CoreId) (id n : Nat) (h : s.Formed F) : Leaves F (s.cmdEvents c id n) := by
  induction n generalizing s with
  | zero => exact leaves_next h
  | succ n ih =>
    unfold State.cmdEvents
    split
    · next e =>
      obtain ⟨q, -, hq⟩ := Option.bind_eq_some_iff.mp e
      exact (h.exec_event (NoSlot.cmdEvent s c q _ hq)).andThen fun ht => ih ht
    · exact leaves_next h

theorem cmdUnits (c : CoreId) (id n : Nat) (h : s.Formed F) : (s.cmdUnits c id n).Formed F := by
  induction n generalizing s with
  | zero => exact h
  | succ n ih =>
    unfold State.cmdUnits
    split
    · exact ite (ih (h.cmdWork c _)) h
    · exact h

theorem scanEvents_ctl? (c : CoreId) (q : Cmd) : ∀ i ∈ scanEvents c q, i.ctl? = none := by
  unfold scanEvents
  split
  · intro i hi
    obtain ⟨e, -, rfl⟩ := List.mem_map.mp hi
    rfl
  · exact fun i hi => nomatch hi

theorem ripen (c : CoreId) (q : Cmd) (h : s.Formed F) : (s.ripen c q).Formed F := ite (h.modCmd c q.id _) h

theorem cmdTick (c : CoreId) (id : Nat) (h : s.Formed F) : Leaves F (s.cmdTick c id) := by
  refine Leaves.ite (leaves_next h) (Leaves.andThen ((collClock c id (ite h.chosen h)).cmdEvents c id _) fun {t} ht => ?_)
  split
  · exact leaves_next ht
  · refine Leaves.ite ((ht.execAll (scanEvents_ctl? c _)).andThen fun hu => leaves_next (cmdUnits c id _ hu.chosen)) ?_
    exact leaves_next (ite ht (ht.ripen c _))

theorem cmdTicks (c : CoreId) (ids : List Nat) (h : s.Formed F) : Leaves F (s.cmdTicks c ids) := by
  induction ids generalizing s with
  | nil => exact leaves_next h
  | cons id ids ih => exact (h.cmdTick c id).andThen fun ht => ih ht

theorem engTurn (c : CoreId) (h : s.Formed F) : Leaves F (s.engTurn c) :=
  (h.cmdTicks c _).andThen fun ht => (Leaves.ite (ht.execPlaneLoadEnd c) (leaves_next ht)).andThen fun hu =>
    (Leaves.ite (hu.exec_event rfl) (leaves_next hu)).andThen fun hv => leaves_next hv

-- The package's own units

theorem unlessLate {f : State → Host.Outcome State Fault Refusal} (hf : ∀ {s : State}, s.Formed F → Leaves F (f s)) (h : s.Formed F) :
    Leaves F (unlessLate f s) := Leaves.ite (hf h.chosen) (leaves_next h.chosen)

theorem copyTurn (p : BitVec 5) (h : s.Formed F) :
    Leaves F (match (s.part p).cut with
      | some c => Machine.forEach (fun g => Machine.unlessLate (Machine.execCowCopyDone p g)) s c.copying
      | none => .next s) := by
  split
  · exact Leaves.forEach (fun g _ h => unlessLate (fun h => h.execCowCopyDone p g) h) _ h
  · exact leaves_next h

theorem endTick (h : s.Formed F) : s.endTick.Formed F := h

theorem harbourTurn (h : s.Formed F) : Leaves F s.harbourTurn := Leaves.forEach (fun m _ h => h.execReqMsg m) _ h.harbourTick

theorem pkgUnits (h : s.Formed F) : Leaves F s.pkgUnits := by
  unfold State.pkgUnits
  dsimp only
  refine (Leaves.forEach (fun op _ h => h.execCollChunkArrival op) _ h).andThen fun h => ?_
  refine (Leaves.forEach (fun f _ h => h.execFaultmaxExpiry f.id) _ h).andThen fun h => ?_
  refine (Leaves.forEach (fun p _ h => h.execCutInstant p) _ (foldl (fun p h => h.confirmCut p) _ h)).andThen fun h => ?_
  refine (Leaves.forEach (fun p _ h => h.copyTurn p) _ h).andThen fun h => ?_
  refine (Leaves.forEach (fun p _ h => unlessLate (fun h => h.execDrainGranule p) h) _ h).andThen fun h => ?_
  refine (Leaves.forEach (fun n _ h => h.execE2eLinkTimeout n) _ h).andThen fun h => ?_
  refine (Leaves.forEach (fun n _ h => h.execE2eResendTimeout n) _ h).andThen fun h => ?_
  refine (Leaves.forEach (fun n _ h => h.execHoldNotice false n) _ h).andThen fun h => ?_
  refine (Leaves.forEach (fun d _ h => h.execDuplicateEntryReplacement d.chip d.core) _ h).andThen fun h => ?_
  refine (Leaves.forEach (fun p _ h => h.execAckTimer p) _ h).andThen fun h => ?_
  refine (Leaves.forEach (fun p _ h => h.execReplayTimeout p) _ h).andThen fun h => ?_
  exact Leaves.forEach (fun p _ h => h.execBeaconSend p) _ h

theorem pkgTurn (h : s.Formed F) : Leaves F s.pkgTurn := by
  refine h.pkgUnits.andThen fun h => ?_
  refine (Leaves.forEach (fun m _ h => h.execHostMsg m) _ h.retryOps.bulkTick.hostTick).andThen fun h => ?_
  refine h.harbourTurn.andThen fun h => ?_
  exact Leaves.forEach (fun f _ h => h.execFilterClear _) _ (endTick (foldl (fun p h => h.linkPump p) _ h.laneTick.sendStrays).ethernetTick)

-- The step

theorem turnStep (h : s.Formed F) : Leaves F s.turnStep := by
  unfold State.turnStep
  split
  · next hc => exact h.coreTurn hc
  · exact h.trimCycle _
  · exact h.engTurn _
  · exact h.pkgTurn

theorem ctl?_of_isEvent {i : Instr} (h : (isReset i || (isEvent i && s.alive)) = true) : i.ctl? = none := by
  cases i <;> first | rfl | cases h

theorem advance (h : s.Formed F) : Leaves F s.advance := by
  unfold State.advance
  split
  · exact leaves_next (ite (order (s := { s with orders := _ }) _ h) h)
  · split
    · dsimp only
      split
      · next he => exact exec_event (s := { s with agenda := _ }) (ctl?_of_isEvent he) h
      · exact leaves_next h
    · exact Leaves.ite h.turnStep (leaves_next h)

end State.Formed

end Sys2Proof.Machine
end

section
/-! What every step keeps (O6): the three forms of the statement are those of the one family, which every step leaves. -/
namespace Sys2Proof.Machine
open Sys2Proof

theorem State.forall_core {s : State} {P : Core → Prop} : (∀ k ∈ s.cores, P k) ↔ ∀ c : CoreId, P (s.core c) := by
  constructor
  · exact fun h c => h _ (Vector.getElem_mem _)
  · intro h k hk
    obtain ⟨i, hi, rfl⟩ := Vector.getElem_of_mem hk
    have := h (BitVec.ofNat 11 i)
    simpa [State.core, Nat.mod_eq_of_lt hi] using this

theorem Plane.forall_two {ps : Vector Plane 2} {P : Plane → Prop} : (∀ p ∈ ps, P p) ↔ P ps[0] ∧ P ps[1] := by
  constructor
  · exact fun h => ⟨h _ (Vector.getElem_mem _), h _ (Vector.getElem_mem _)⟩
  · rintro ⟨h0, h1⟩ p hp
    obtain ⟨i, hi, rfl⟩ := Vector.getElem_of_mem hp
    match i, hi with
    | 0, _ => exact h0
    | 1, _ => exact h1

theorem MxItem.formed_iff {it : MxItem} :
    it.Formed .ofTables ↔ (match it.ins with | .mtbl .. => it.tbl.length == 16 | _ => true) = true := by
  unfold MxItem.Formed
  constructor
  · intro h
    split
    · next e => exact beq_iff_eq.mpr (h _ _ e)
    · rfl
  · intro h o t e
    rw [e] at h
    exact beq_iff_eq.mp h

theorem Mx.tabled_iff {m : Mx} : m.Tabled .ofTables ↔ m.tablesForm = true := by
  unfold Mx.Tabled Mx.tablesForm
  simp only [Bool.and_eq_true, beq_iff_eq, List.all_eq_true, List.forall_mem_append, MxItem.formed_iff, Form.table]
  exact and_assoc.symm

theorem Mx.tabled_trivial {F : Form} {m : Mx} (h : ∀ t, F.table t) : m.Tabled F := ⟨h _, h _, fun _ _ _ _ _ => h _, fun _ _ _ _ _ => h _⟩

namespace State

theorem formed_bytes {s : State} : s.Formed .ofBytes ↔ s.keptForm := by
  unfold State.Formed State.keptForm
  rw [forall_core]
  simp only [Form.mem, Form.kept, Form.map, Core.Formed, Mx.Formed, Plane.forall_two, Plane.Formed, Form.bytes, true_and, and_true]
  simp only [Mx.tabled_trivial (F := .ofBytes) fun _ => trivial, implies_true, and_true]

theorem formed_all {s : State} : s.Formed .ofAll ↔ s.memWf ∧ s.mapsWf := by
  unfold State.Formed State.memWf State.mapsWf Core.memWf Core.mapsWf
  rw [forall_core]
  simp only [Form.mem, Form.kept, Form.map, Core.Formed, Mx.Formed, Plane.forall_two, Plane.Formed, Form.bytes, Bool.and_eq_true]
  simp only [Mx.tabled_trivial (F := .ofAll) fun _ => trivial, implies_true, and_true]
  constructor
  · rintro ⟨hbm, host, peer, pages, frames, handles, vfs, rings, inj, filters, cores⟩
    exact ⟨⟨hbm, host, peer, fun c => by obtain ⟨sp, hold, -, ⟨⟨b0, -⟩, b1, -⟩, -⟩ := cores c; exact ⟨⟨⟨sp, hold⟩, b0⟩, b1⟩⟩,
      pages, frames, handles, vfs, rings, inj, filters, fun c => by
        obtain ⟨-, -, err, ⟨⟨-, o0⟩, -, o1⟩, acc, w0, w1⟩ := cores c; exact ⟨⟨⟨⟨⟨acc, w0⟩, w1⟩, err⟩, o0⟩, o1⟩⟩
  · rintro ⟨⟨hbm, host, peer, mems⟩, pages, frames, handles, vfs, rings, inj, filters, maps⟩
    refine ⟨hbm, host, peer, pages, frames, handles, vfs, rings, inj, filters, fun c => ?_⟩
    obtain ⟨⟨⟨sp, hold⟩, b0⟩, b1⟩ := mems c
    obtain ⟨⟨⟨⟨⟨acc, w0⟩, w1⟩, err⟩, o0⟩, o1⟩ := maps c
    exact ⟨sp, hold, err, ⟨⟨b0, o0⟩, b1, o1⟩, acc, w0, w1⟩

theorem formed_tables {s : State} : s.Formed .ofTables ↔ s.tablesForm := by
  unfold State.Formed State.tablesForm
  rw [forall_core]
  simp only [Form.mem, Form.kept, Form.map, Core.Formed, Mx.Formed, Plane.Formed, Form.bytes, true_and, and_self, implies_true, Mx.tabled_iff]

/-- Every step leaves each of the forms. -/
theorem step_formed {F : Form} {s t : State} (h : step s = .next t) (hs : s.Formed F) : t.Formed F := hs.advance t h

end State

/-- Settles O6: each form of the statement is one of a family of predicates on the state, which every operation of a step keeps. -/
theorem stepKeepsMemories : Obligations.StepKeepsMemories := fun _ _ h =>
  ⟨fun hk => State.formed_bytes.mp (State.step_formed h (State.formed_bytes.mpr hk)),
   fun hm hw => State.formed_all.mp (State.step_formed h (State.formed_all.mpr ⟨hm, hw⟩)),
   fun ht => State.formed_tables.mp (State.step_formed h (State.formed_tables.mpr ht))⟩

end Sys2Proof.Machine
end

section
/-! The values of the scalar instructions as arithmetic on integers: shifts, widths, counts and fields of bits (O7 to O9). -/
namespace Sys2Proof.Machine
open Sys2Proof

section widths
variable {w : Nat}

/-- A value that is a number modulo `2 ^ w` is the low `w` bits of that number. -/
theorem eq_ofInt_of_toNat {v : BitVec w} {n : Nat} (h : v.toNat = n % 2 ^ w) : v = BitVec.ofInt w n := by
  rw [BitVec.ofInt_natCast]
  exact BitVec.eq_of_toNat_eq (h.trans (BitVec.toNat_ofNat n w).symm)

theorem ofInt_toNat (v : BitVec w) : BitVec.ofInt w v.toNat = v := by
  rw [BitVec.ofInt_natCast, BitVec.ofNat_toNat, BitVec.setWidth_eq]

theorem ofInt_sub (x y : Int) : BitVec.ofInt w (x - y) = BitVec.ofInt w x - BitVec.ofInt w y := by
  rw [Int.sub_eq_add_neg, BitVec.ofInt_add, BitVec.ofInt_neg, BitVec.sub_eq_add_neg]

theorem shiftLeft_eq_ofInt (v : BitVec w) (n : Nat) : v <<< n = BitVec.ofInt w (v.toNat * 2 ^ n) := by
  have low : v <<< n = BitVec.ofInt w (v.toNat * 2 ^ n : Nat) := eq_ofInt_of_toNat (by rw [BitVec.toNat_shiftLeft, Nat.shiftLeft_eq])
  exact_mod_cast low

theorem ushiftRight_eq_ofInt (v : BitVec w) (n : Nat) : v >>> n = BitVec.ofInt w (v.toNat / 2 ^ n) := by
  have below : v.toNat / 2 ^ n < 2 ^ w := Nat.lt_of_le_of_lt (Nat.div_le_self ..) v.isLt
  have low : v >>> n = BitVec.ofInt w (v.toNat / 2 ^ n : Nat) :=
    eq_ofInt_of_toNat (by rw [BitVec.toNat_ushiftRight, Nat.shiftRight_eq_div_pow, Nat.mod_eq_of_lt below])
  exact_mod_cast low

theorem toInt_sshiftRight_eq (v : BitVec w) (n : Nat) : (v.sshiftRight n).toInt = v.toInt / 2 ^ n := by
  rw [BitVec.toInt_sshiftRight, Int.shiftRight_eq_div_pow]
  norm_cast

theorem sshiftRight_eq_ofInt (v : BitVec w) (n : Nat) : v.sshiftRight n = BitVec.ofInt w (v.toInt / 2 ^ n) := by
  rw [← toInt_sshiftRight_eq, BitVec.ofInt_toInt]

theorem setWidth_eq_ofInt {u : Nat} (v : BitVec w) : v.setWidth u = BitVec.ofInt u v.toNat := eq_ofInt_of_toNat (BitVec.toNat_setWidth ..)

/-- The low `u` bits of a value, sign-extended. -/
theorem signExtend_setWidth_eq_ofInt {u : Nat} (v : BitVec w) (x : Nat) :
    (v.setWidth u).signExtend x = BitVec.ofInt x ((v.toNat : Int).bmod (2 ^ u)) := by
  rw [BitVec.signExtend, BitVec.toInt_setWidth]

theorem toInt_eq_zero_iff (v : BitVec w) : v.toInt = 0 ↔ v = 0 := by
  rw [← BitVec.toInt_inj, BitVec.ofNat_eq_ofNat, BitVec.toInt_zero]

end widths

-- The 32-bit functions --------------------------------------------------------------------------------------------------

theorem sextW_ofInt (z : Int) : sextW (BitVec.ofInt 32 z) = BitVec.ofInt 64 (z.bmod (2 ^ 32)) := by
  rw [sextW, BitVec.signExtend, BitVec.toInt_ofInt]

section low
variable (a b : Word) (m : Nat)

theorem low_add : (a + b).setWidth 32 = BitVec.ofInt 32 (a.toNat + b.toNat) := by
  rw [BitVec.setWidth_add _ _ (by decide), BitVec.ofInt_add, setWidth_eq_ofInt, setWidth_eq_ofInt]

theorem low_sub : (a - b).setWidth 32 = BitVec.ofInt 32 (a.toNat - b.toNat) := by
  rw [ofInt_sub, ← setWidth_eq_ofInt, ← setWidth_eq_ofInt, BitVec.sub_eq_add_neg, BitVec.sub_eq_add_neg, BitVec.setWidth_add _ _ (by decide),
    BitVec.setWidth_neg_of_le (by decide)]

theorem low_shiftLeft : (a.setWidth 32 : BitVec 32) <<< m = BitVec.ofInt 32 (a.toNat * 2 ^ m) := by
  rw [shiftLeft_eq_ofInt, BitVec.ofInt_mul, BitVec.ofInt_mul, ofInt_toNat, setWidth_eq_ofInt]

theorem low_ushiftRight : (a.setWidth 32 : BitVec 32) >>> m = BitVec.ofInt 32 (a.toNat % 2 ^ 32 / 2 ^ m) := by
  rw [ushiftRight_eq_ofInt, BitVec.toNat_setWidth]
  norm_cast

theorem low_sshiftRight : sextW ((a.setWidth 32 : BitVec 32).sshiftRight m) = BitVec.ofInt 64 ((a.toNat : Int).bmod (2 ^ 32) / 2 ^ m) := by
  rw [sextW, BitVec.signExtend, toInt_sshiftRight_eq, BitVec.toInt_setWidth]

end low

-- Counts and rotations --------------------------------------------------------------------------------------------------

theorem length_filter_range_testBit (a n : Nat) : ((List.range n).filter (fun i => a.testBit i)).length = bitCount a n := by
  induction n with
  | zero => rfl
  | succ n ih =>
    rw [List.range_succ, List.filter_append, List.length_append, ih, bitCount, Nat.add_left_cancel_iff]
    rcases Nat.mod_two_eq_zero_or_one (a / 2 ^ n) with h | h <;> simp [h, Nat.testBit_eq_decide_div_mod_eq]

/-- The first set bit of a number: the search goes on in its half where the lowest bit is clear. -/
theorem getD_find?_range_testBit (a n : Nat) : ((List.range n).find? (fun i => a.testBit i)).getD n = trailing a n := by
  induction n generalizing a with
  | zero => rfl
  | succ n ih =>
    rw [List.range_succ_eq_map, List.find?_cons, trailing, ← ih (a / 2)]
    by_cases h : a % 2 = 1
    · simp [Nat.testBit_zero, h]
    · simp only [Nat.testBit_zero, h, decide_false, if_false, List.find?_map, Function.comp_def, Nat.succ_eq_add_one, Nat.testBit_succ]
      cases (List.range n).find? (fun i => (a / 2).testBit i) <;> simp [Nat.add_comm]

theorem popcount_eq (a : Word) : popcount a = bitCount a.toNat 64 := length_filter_range_testBit a.toNat 64

theorem ctz64_eq (a : Word) : ctz64 a = trailing a.toNat 64 := getD_find?_range_testBit a.toNat 64

theorem clz64_of_ne {a : Word} (h : a ≠ 0) : clz64 a = 63 - Nat.log2 a.toNat := by
  have pos : a.toNat ≠ 0 := fun e => h (BitVec.eq_of_toNat_eq e)
  have top : Nat.log2 a.toNat < 64 := (Nat.log2_lt pos).mpr a.isLt
  have first : (List.range 64).find? (fun i => a.getLsbD (63 - i)) = some (63 - Nat.log2 a.toNat) := by
    refine List.find?_range_eq_some.mpr ⟨?_, ?_, fun j hj => ?_⟩
    · rw [show 63 - (63 - Nat.log2 a.toNat) = Nat.log2 a.toNat by omega]
      exact Nat.testBit_log2 pos
    · rw [List.mem_range]; omega
    · have above : Nat.log2 a.toNat < 63 - j := by omega
      rw [BitVec.getLsbD, Nat.testBit_lt_two_pow ((Nat.log2_lt pos).mp above)]
      rfl
  rw [clz64, first]
  rfl

theorem clz64_eq (a : Word) : (clz64 a : Int) = if a = 0 then 64 else 63 - (Nat.log2 a.toNat : Int) := by
  split
  case isTrue h => subst h; decide
  case isFalse h =>
    have pos : a.toNat ≠ 0 := fun e => h (BitVec.eq_of_toNat_eq e)
    have top : Nat.log2 a.toNat < 64 := (Nat.log2_lt pos).mpr a.isLt
    rw [clz64_of_ne h]
    omega

theorem rotate_eq_ofInt (a : Word) {n : Nat} (hn : n < 64) :
    (a <<< n) ||| (a >>> (64 - n)) = BitVec.ofInt 64 ((a.toNat : Int) * 2 ^ n + a.toNat / 2 ^ (64 - n)) := by
  have apart : a <<< n &&& a >>> (64 - n) = 0#64 := by
    ext i hi
    by_cases h : i < n
    · simp [h]
    · have past : a.getLsbD (64 - n + i) = false := BitVec.getLsbD_of_ge _ _ (by omega)
      simp [past]
  rw [← BitVec.add_eq_or_of_and_eq_zero _ _ apart, BitVec.ofInt_add, shiftLeft_eq_ofInt, ushiftRight_eq_ofInt]

theorem leNat_append_singleton (bs : List Byte) (b : Byte) : leNat (bs ++ [b]) = leNat bs + 256 ^ bs.length * b.toNat := by
  induction bs with
  | nil => simp [leNat]
  | cons c rest ih => rw [List.cons_append, leNat, leNat, ih, List.length_cons, Nat.pow_succ]; ring

/-- The bytes of a number in the reverse order: each counts for what the one at the other end counted for (R102). -/
theorem leNat_reverse_bytesOf (v n : Nat) :
    leNat (bytesOf v n).reverse = ((List.range n).map (fun i => v / 256 ^ i % 256 * 256 ^ (n - 1 - i))).sum := by
  induction n generalizing v with
  | zero => rfl
  | succ n ih =>
    have later (i : Nat) : v / 256 / 256 ^ i % 256 * 256 ^ (n - 1 - i) = v / 256 ^ (i + 1) % 256 * 256 ^ (n - (i + 1)) := by
      rw [Nat.div_div_eq_div_mul, ← Nat.pow_succ', Nat.sub_right_comm, ← Nat.sub_sub]
    rw [bytesOf, List.reverse_cons, leNat_append_singleton, ih, List.length_reverse, bytesOf_length, BitVec.toNat_ofNat, List.range_succ_eq_map,
      List.map_cons, List.sum_cons, List.map_map]
    simp only [later, Function.comp_def, Nat.succ_eq_add_one, Nat.add_sub_cancel, Nat.pow_zero, Nat.div_one, Nat.sub_zero]
    ring

theorem rev8_eq (a : Word) : rev8 a = BitVec.ofInt 64 (((List.range 8).map (fun i => a.toNat / 2 ^ (8 * i) % 256 * 2 ^ (56 - 8 * i))).sum : Nat) := by
  rw [rev8, leNat_reverse_bytesOf, BitVec.ofInt_natCast]
  refine congrArg (fun l => BitVec.ofNat 64 (List.sum l)) (List.map_congr_left fun i hi => ?_)
  have inside : i < 8 := List.mem_range.mp hi
  rw [Nat.pow_mul, show 56 - 8 * i = 8 * (7 - i) by omega, Nat.pow_mul]

-- The tables ------------------------------------------------------------------------------------------------------------

/-- The ALU computes the low 64 bits of Table 2 (R102). -/
theorem aluResult_eq (fn : AluFn) (a b : Word) : aluResult fn a b = BitVec.ofInt 64 (aluTable fn a b) := by
  unfold aluResult aluTable
  cases fn with dsimp only
  | add => rw [BitVec.ofInt_add, ofInt_toNat, ofInt_toNat]
  | sub => rw [ofInt_sub, ofInt_toNat, ofInt_toNat]
  | and | or | xor => rw [ofInt_toNat]
  | andn | orn | xnor => rw [ofInt_toNat, BitVec.allOnes_sub_eq_not]
  | shl => rw [shiftLeft_eq_ofInt]
  | shr => rw [ushiftRight_eq_ofInt]
  | sar => rw [sshiftRight_eq_ofInt]
  | rol => rw [rotate_eq_ofInt a (Nat.mod_lt _ (by decide))]
  | min => rw [min_def_lt, apply_ite (BitVec.ofInt 64), BitVec.ofInt_toInt, BitVec.ofInt_toInt]; simp only [BitVec.slt_iff_toInt_lt]
  | max => rw [max_def_lt', apply_ite (BitVec.ofInt 64), BitVec.ofInt_toInt, BitVec.ofInt_toInt]; simp only [BitVec.slt_iff_toInt_lt]
  | minn => rw [min_def_lt, apply_ite (BitVec.ofInt 64), ofInt_toNat, ofInt_toNat]; simp only [BitVec.ult_iff_lt, BitVec.lt_def, Int.ofNat_lt]
  | maxn => rw [max_def_lt', apply_ite (BitVec.ofInt 64), ofInt_toNat, ofInt_toNat]; simp only [BitVec.ult_iff_lt, BitVec.lt_def, Int.ofNat_lt]
  | addW => rw [low_add, sextW_ofInt]
  | subW => rw [low_sub, sextW_ofInt]
  | shlW => rw [low_shiftLeft, sextW_ofInt]
  | shrW => rw [low_ushiftRight, sextW_ofInt]
  | sarW => rw [low_sshiftRight]
  | clz => rw [← clz64_eq, BitVec.ofInt_natCast]
  | ctz => rw [ctz64_eq, BitVec.ofInt_natCast]
  | popc => rw [popcount_eq, BitVec.ofInt_natCast]
  | rev8 => rw [rev8_eq]
  | sextB | sextH => rw [signExtend_setWidth_eq_ofInt]
  | sextW => rw [sextW, signExtend_setWidth_eq_ofInt]
  | zextW => rw [setWidth_eq_ofInt, BitVec.toNat_setWidth]; norm_cast
  | addsh1 | addsh2 | addsh3 | addsh4 => rw [BitVec.ofInt_add, ofInt_toNat, shiftLeft_eq_ofInt]; norm_num

/-- The one quotient that is no 64-bit number wraps to the dividend (R103). -/
theorem ofInt_tdiv (x y : Int) : BitVec.ofInt 64 (x.tdiv y) = BitVec.ofInt 64 (if x = -2 ^ 63 ∧ y = -1 then x else x.tdiv y) := by
  split
  case isTrue h => rw [h.1, h.2]; decide
  case isFalse => rfl

/-- A remainder by its quotient (R103); that of the quotient that wraps is zero. -/
theorem tmod_eq (x y : Int) : x.tmod y = if x = -2 ^ 63 ∧ y = -1 then 0 else x - y * x.tdiv y := by
  split
  case isTrue h => rw [h.1, h.2]; decide
  case isFalse => exact Int.tmod_def ..

/-- MULDIV computes the low 64 bits of Table 3 (R103). -/
theorem mulResult_eq (fn : MulFn) (a b : Word) : mulResult fn a b = BitVec.ofInt 64 (mulTable fn a b) := by
  have zero : (b.toNat : Int) = 0 ↔ b = 0 := by rw [← BitVec.toNat_inj]; exact Int.natCast_eq_zero
  unfold mulResult mulTable
  cases fn with dsimp only
  | mul => rw [BitVec.ofInt_mul, BitVec.ofInt_toInt, BitVec.ofInt_toInt]
  | mulhn => rw [← BitVec.ofInt_natCast]; norm_cast
  | mulW => rw [← sextW_ofInt, BitVec.ofInt_mul, ← setWidth_eq_ofInt, ← setWidth_eq_ofInt]
  | div =>
    simp only [toInt_eq_zero_iff]
    split
    · rfl
    · exact ofInt_tdiv ..
  | divn =>
    simp only [zero]
    split
    · rfl
    · rw [← BitVec.ofInt_natCast, Int.natCast_ediv]
  | rem =>
    simp only [toInt_eq_zero_iff]
    split
    · rw [BitVec.ofInt_toInt]
    · rw [tmod_eq]
  | remn =>
    simp only [zero]
    split
    · rw [ofInt_toNat]
    · rw [← BitVec.ofInt_natCast, Int.natCast_mod, Int.emod_def]

-- Immediate shifts ------------------------------------------------------------------------------------------------------

section shifts
variable (a : Word) (n : BitVec 6)

theorem shiftAmount : (n.setWidth 64).toNat % 64 = n.toNat := by
  have := n.isLt
  rw [BitVec.toNat_setWidth]
  omega

theorem shiftAmount_low (h : n.toNat < 32) : (n.setWidth 64).toNat % 32 = n.toNat := by
  rw [BitVec.toNat_setWidth]
  omega

theorem aluResult_shl : aluResult .shl a (n.setWidth 64) = BitVec.ofNat 64 (a.toNat * 2 ^ n.toNat) := by
  unfold aluResult
  dsimp only
  rw [shiftAmount, shiftLeft_eq_ofInt, ← BitVec.ofInt_natCast]
  norm_cast

theorem aluResult_shr : aluResult .shr a (n.setWidth 64) = BitVec.ofNat 64 (a.toNat / 2 ^ n.toNat) := by
  unfold aluResult
  dsimp only
  rw [shiftAmount, ushiftRight_eq_ofInt, ← BitVec.ofInt_natCast]
  norm_cast

theorem aluResult_sar : aluResult .sar a (n.setWidth 64) = BitVec.ofInt 64 (a.toInt / 2 ^ n.toNat) := by
  unfold aluResult
  dsimp only
  rw [shiftAmount, sshiftRight_eq_ofInt]

variable {n} (h : n.toNat < 32)
include h

theorem aluResult_shlW : aluResult .shlW a (n.setWidth 64) = BitVec.ofInt 64 ((a.toNat * 2 ^ n.toNat : Int).bmod (2 ^ 32)) := by
  unfold aluResult
  dsimp only
  rw [shiftAmount_low n h, low_shiftLeft, sextW_ofInt]

theorem aluResult_shrW : aluResult .shrW a (n.setWidth 64) = BitVec.ofInt 64 ((a.toNat % 2 ^ 32 / 2 ^ n.toNat : Int).bmod (2 ^ 32)) := by
  unfold aluResult
  dsimp only
  rw [shiftAmount_low n h, low_ushiftRight, sextW_ofInt]

theorem aluResult_sarW : aluResult .sarW a (n.setWidth 64) = BitVec.ofInt 64 ((a.toNat : Int).bmod (2 ^ 32) / 2 ^ n.toNat) := by
  unfold aluResult
  dsimp only
  rw [shiftAmount_low n h, low_sshiftRight]

end shifts

-- Bit fields and tags ---------------------------------------------------------------------------------------------------

theorem and_mask_toNat (v : Word) {len : Nat} (h : len ≤ 64) : (v &&& BitVec.ofNat 64 (2 ^ len - 1)).toNat = v.toNat % 2 ^ len := by
  have small : 2 ^ len - 1 < 2 ^ 64 := Nat.lt_of_lt_of_le (Nat.sub_lt (by positivity) Nat.one_pos) (Nat.pow_le_pow_right (by decide) h)
  rw [BitVec.toNat_and, BitVec.toNat_ofNat, Nat.mod_eq_of_lt small, Nat.and_two_pow_sub_one_eq_mod]

theorem and_mask_shiftLeft (v m : Word) (pos : Nat) : v &&& (m <<< pos) = ((v >>> pos) &&& m) <<< pos := by
  ext i hi
  by_cases h : i < pos
  · simp [h]
  · simp [h, Nat.add_sub_cancel' (Nat.le_of_not_lt h), BitVec.getLsbD_eq_getElem, hi]

/-- What is left of a value without the bits of a mask, as a difference. -/
theorem and_not_toNat (v m : Word) : (v &&& ~~~m).toNat = v.toNat - (v &&& m).toNat := by
  have whole : (v &&& ~~~m) + (v &&& m) = v := by
    rw [BitVec.add_eq_or_of_and_eq_zero]
    · ext i hi; simp [← Bool.and_or_distrib_left]
    · ext i hi; simp; grind
  have le : v &&& m ≤ v := by rw [BitVec.le_def, BitVec.toNat_and]; exact Nat.and_le_left
  rw [← BitVec.toNat_sub_of_le le, BitVec.eq_sub_iff_add_eq.mpr whole]

theorem bitField_toNat (a : Word) (pos lenM1 : BitVec 6) :
    (bitField a pos lenM1).toNat = a.toNat / 2 ^ pos.toNat % 2 ^ (lenM1.toNat + 1) := by
  have := lenM1.isLt
  rw [bitField, and_mask_toNat _ (by omega), BitVec.toNat_ushiftRight, Nat.shiftRight_eq_div_pow]

/-- The field of `len` bits at `pos` of `d` replaced by the low bits of `a`, as arithmetic (R107). -/
theorem insert_eq_ofNat (d a m : Word) {pos len : Nat} (h : pos + len ≤ 64) (hm : m = BitVec.ofNat 64 (2 ^ len - 1)) :
    (d &&& ~~~(m <<< pos)) ||| ((a &&& m) <<< pos)
      = BitVec.ofNat 64 (d.toNat - d.toNat / 2 ^ pos % 2 ^ len * 2 ^ pos + a.toNat % 2 ^ len * 2 ^ pos) := by
  subst hm
  have apart (m : Word) : (d &&& ~~~(m <<< pos)) &&& ((a &&& m) <<< pos) = 0#64 := by
    ext i hi
    by_cases low : i < pos
    · simp [low]
    · simp [low]; grind
  have within (f : Nat) : f % 2 ^ len * 2 ^ pos < 2 ^ 64 :=
    calc f % 2 ^ len * 2 ^ pos < 2 ^ len * 2 ^ pos := Nat.mul_lt_mul_of_pos_right (Nat.mod_lt _ (by positivity)) (by positivity)
      _ = 2 ^ (pos + len) := by rw [Nat.pow_add, Nat.mul_comm]
      _ ≤ 2 ^ 64 := Nat.pow_le_pow_right (by decide) h
  have placed (v : Word) : ((v &&& BitVec.ofNat 64 (2 ^ len - 1)) <<< pos).toNat = v.toNat % 2 ^ len * 2 ^ pos := by
    rw [BitVec.toNat_shiftLeft, and_mask_toNat v (by omega), Nat.shiftLeft_eq, Nat.mod_eq_of_lt (within _)]
  apply BitVec.eq_of_toNat_eq
  rw [← BitVec.add_eq_or_of_and_eq_zero _ _ (apart _), BitVec.toNat_add, BitVec.toNat_ofNat, placed, and_not_toNat, and_mask_shiftLeft, placed,
    BitVec.toNat_ushiftRight, Nat.shiftRight_eq_div_pow]

/-- MOVK replaces a field of 16 bits by its immediate (R109). -/
theorem movk_eq_ofNat (d : Word) (imm : BitVec 16) (h : BitVec 2) :
    (d &&& ~~~(0xFFFF#64 <<< (16 * h.toNat))) ||| (imm.setWidth 64 <<< (16 * h.toNat))
      = BitVec.ofNat 64 (d.toNat - d.toNat / 2 ^ (16 * h.toNat) % 2 ^ 16 * 2 ^ (16 * h.toNat) + imm.toNat * 2 ^ (16 * h.toNat)) := by
  have := h.isLt
  have low : (imm.setWidth 64).toNat = imm.toNat := by rw [BitVec.toNat_setWidth, Nat.mod_eq_of_lt (by omega)]
  have masked : imm.setWidth 64 &&& 0xFFFF#64 = imm.setWidth 64 := by
    apply BitVec.eq_of_toNat_eq
    exact (and_mask_toNat (len := 16) _ (by decide)).trans (by rw [low, Nat.mod_eq_of_lt imm.isLt])
  have inserted := insert_eq_ofNat d (imm.setWidth 64) 0xFFFF#64 (pos := 16 * h.toNat) (len := 16) (by omega) rfl
  rwa [masked, low, Nat.mod_eq_of_lt imm.isLt] at inserted

theorem sextLow_eq_ofInt (v : Word) {n : Nat} (h1 : 1 ≤ n) (h2 : n ≤ 64) : sextLow v n = BitVec.ofInt 64 ((v.toNat : Int).bmod (2 ^ n)) := by
  rw [← signExtend_setWidth_eq_ofInt, sextLow]
  ext i hi
  rw [BitVec.getElem_sshiftRight, BitVec.getElem_signExtend]
  by_cases low : i < n
  · have inside : 64 - n + i < 64 := by omega
    have past : ¬ 64 - n + i < 64 - n := by omega
    simp [low, inside, past, BitVec.getLsbD_eq_getElem, hi]
  · have outside : ¬ 64 - n + i < 64 := by omega
    have top : 63 - (64 - n) = n - 1 := by omega
    have last : n - 1 < n := by omega
    have within : ¬ 63 < 64 - n := by omega
    simp [low, outside, within, BitVec.msb_eq_getLsbD_last, top, last, BitVec.getLsbD_eq_getElem (show n - 1 < 64 by omega)]

/-- A pointer of a tag and the offset of another (R118). -/
theorem tag_append_eq_ofNat (p : Word) (t : BitVec 2) :
    (0#2 ++ t ++ p.extractLsb' 0 60 : Word) = BitVec.ofNat 64 (t.toNat * 2 ^ 60 + p.toNat % 2 ^ 60) := by
  apply BitVec.eq_of_toNat_eq
  have ht := t.isLt
  have hp : p.toNat % 2 ^ 60 < 2 ^ 60 := Nat.mod_lt _ (by positivity)
  rw [BitVec.toNat_append, BitVec.toNat_append, BitVec.extractLsb'_toNat, Nat.shiftRight_zero, BitVec.toNat_ofNat, Nat.zero_mod, Nat.zero_shiftLeft,
    Nat.zero_or, ← Nat.shiftLeft_add_eq_or_of_lt hp, Nat.shiftLeft_eq, BitVec.toNat_ofNat]
  omega

end Sys2Proof.Machine
end

section
/-! Arithmetic, immediates, bit fields, constants and compares as instructions alone in their bundle (O7 to O10). -/
namespace Sys2Proof.Machine
open Sys2Proof

theorem Core.xLands_now (k : Core) (xd : Reg) {bound : Nat} (hb : bound ≤ 1) : k.xLands xd bound = [] := by
  rw [Core.xLands, decide_eq_true hb, Bool.or_true, if_pos rfl]

section alone
variable {s : State} {c : Ctl} (hs : s.alone c)
include hs

/-- A slot alone in its bundle whose one effect is a result in an X register: the value and poison it gives. -/
theorem State.slot_gives {bound : Nat} {xd : Reg} {v w : Word} {p q : Bool} {out : Core → SlotOut} (ho : out s.me = .ok [.x xd ⟨v, p⟩ bound]) (hb : bound ≠ 0)
    (hv : v = w) (hp : p = q) : (.next (s.slot c (some bound) out) : Host.Outcome State Fault Refusal) = .next (s.givesX c bound xd ⟨w, q⟩) := by
  subst hv hp
  rw [State.slot_givesX hs ho hb]

/-- A slot alone in its bundle whose effects change its own core alone and land at once. -/
theorem State.slot_changesCore {bound : Nat} {out : Core → SlotOut} {as : List Action} {f : Core → Core} (ho : out s.me = .ok as) (hp : as.all Action.plain = true)
    (hb : bound ≠ 0) (hl : s.me.landsAt as = []) (hf : ∀ t : State, t.applyAll s.cur as = t.modCore s.cur f) :
    s.slot c (some bound) out = s.retiredCore c bound f := by
  rw [State.slot_retired hs ho hp hb, hl, State.retiredCore]
  simp only [hf]

end alone

theorem aluUnary_eq_readsOne (fn : AluFn) : aluUnary fn = readsOne fn := by cases fn <;> rfl

theorem mulBound_eq_mulLands (fn : MulFn) : mulBound fn = mulLands fn := by cases fn <;> rfl

theorem mulBound_pos (fn : MulFn) : mulBound fn ≠ 0 := by cases fn <;> decide

/-- The poison of a result is that of the registers read, of one or of two (R98). -/
theorem any_poison_sources (one : Bool) (a b : XW) : (if one then [a] else [a, b]).any (·.poison) = (a.poison || (!one && b.poison)) := by
  cases one <;> simp

/-- Settles O7: the value by `aluResult_eq`, function by function. -/
theorem aluResults : Obligations.AluResults := by
  intro s c fn xd xa xb hs
  refine State.slot_gives hs rfl (by decide) (aluResult_eq ..) ?_
  rw [aluUnary_eq_readsOne, any_poison_sources]

/-- Settles O8: the value by `mulResult_eq`, function by function. -/
theorem muldivResults : Obligations.MuldivResults := by
  intro s c fn xd xa xb hs
  rw [← mulBound_eq_mulLands]
  exact State.slot_gives hs rfl (mulBound_pos fn) (mulResult_eq ..) (by simp)

-- Immediates, fields and constants --------------------------------------------------------------------------------------

theorem immediateResults : Claim.ImmediateResults := by
  intro s c xd xa imm n hs a gives
  have one {out : Core → SlotOut} {v w : Word} (ho : out s.me = setOne xd v [s.me.readX xa]) (hv : v = w) :
      (.next (s.slot c (some 1) out) : Host.Outcome State Fault Refusal) = .next (s.givesX c 1 xd ⟨w, (s.me.readX xa).poison⟩) :=
    State.slot_gives hs ho (by decide) hv (Bool.or_false _)
  refine ⟨one rfl rfl, one rfl rfl, one rfl rfl, one rfl rfl, one rfl (aluResult_shl ..), one rfl (aluResult_shr ..), one rfl (aluResult_sar ..),
    fun h => ⟨one rfl (aluResult_shlW a h), one rfl (aluResult_shrW a h), one rfl (aluResult_sarW a h)⟩⟩

theorem fieldAndConstantResults : Claim.FieldAndConstantResults := by
  intro s c xd xa xb pn pos lenM1 imm imm16 h wide t hs a d len gives
  have ends := lenM1.isLt
  have one {out : Core → SlotOut} {v w : Word} {srcs : List XW} {q : Bool} (ho : out s.me = setOne xd v srcs) (hv : v = w)
      (hq : srcs.any (·.poison) = q) :
      (.next (s.slot c (some 1) out) : Host.Outcome State Fault Refusal) = .next (s.givesX c 1 xd ⟨w, q⟩) :=
    State.slot_gives hs ho (by decide) hv hq
  refine ⟨fun fits => ⟨?_, ?_, ?_⟩, ?_, ?_, ?_, ?_, ?_⟩
  · exact one rfl (BitVec.eq_of_toNat_eq (by rw [bitField_toNat, BitVec.toNat_ofNat, ← bitField_toNat, Nat.mod_eq_of_lt (BitVec.isLt _)])) (Bool.or_false _)
  · refine one rfl ?_ (Bool.or_false _)
    rw [sextLow_eq_ofInt _ (by omega) (by omega), bitField_toNat]
  · exact one rfl (insert_eq_ofNat _ _ _ fits rfl) (congrArg (d.poison || ·) (Bool.or_false _))
  · exact one rfl rfl rfl
  · exact one rfl (movk_eq_ofNat ..) (Bool.or_false _)
  · refine congrArg Host.Outcome.next ((State.issue_retired (bound := 1) hs rfl (by decide)).trans ?_)
    rw [Core.landsAt_x, Core.xLands_now _ _ (by decide)]
    rfl
  · refine State.slot_gives hs rfl (by decide) ?_ ?_
    · split <;> rfl
    · rw [Bool.or_comm]; split <;> rfl
  · exact one rfl (tag_append_eq_ofNat ..) (Bool.or_false _)

/-- Settles O9: one clause for each instruction. -/
theorem constantAndFieldResults : Obligations.ConstantAndFieldResults := ⟨immediateResults, fieldAndConstantResults⟩

-- Compares --------------------------------------------------------------------------------------------------------------

theorem condHolds_iff (cond : Cond) {n : Nat} (a b : BitVec n) : condHolds cond a b = true ↔ condTable cond a b := by
  cases cond <;> simp [condHolds, condTable, BitVec.slt_iff_toInt_lt, BitVec.sle_iff_toInt_le, BitVec.ult_iff_lt, BitVec.ule_iff_le, BitVec.lt_def, BitVec.le_def]

theorem compareAt_eq (cond : Cond) (sz : CmpSize) (a b : Word) :
    compareAt cond sz a b = condHolds cond (a.setWidth (cmpWidth sz)) (b.setWidth (cmpWidth sz)) := by
  cases sz with
  | d => simp only [compareAt, cmpWidth, BitVec.setWidth_eq]
  | w | h | b => rfl

/-- Settles O10: the two predicates are two effects on the core's own registers. -/
theorem compareResults : Obligations.CompareResults := by
  intro s c cond sz pt pf xa xb imm r hs a b both
  have sets {out : Core → SlotOut} {v q : Bool} (ho : out s.me = .ok [.p pt v q, .p pf (!v) q]) (hv : v = r) :
      (.next (s.slot c (some 1) out) : Host.Outcome State Fault Refusal) = .next (both q) := by
    subst hv
    exact congrArg Host.Outcome.next (State.slot_changesCore hs ho rfl (by decide) rfl fun t => by simp [State.apply, State.modCore])
  refine ⟨fun h => sets rfl ?_, fun h => sets rfl ?_⟩
  · rw [compareAt_eq, Bool.eq_iff_iff, condHolds_iff, h]
  · rw [Bool.eq_iff_iff, condHolds_iff]
    exact h

end Sys2Proof.Machine
end

section
/-! A mask written while an earlier result is still on its way to it (O11). -/
namespace Sys2Proof.Machine
open Sys2Proof

/-- The results on their way after a bundle has retired are those its own effect leaves: an arrival and the cycle add none. -/
theorem State.pend_retired (s : State) (c : Ctl) (words bound : Nat) (f : State → State) (ds : List PDest) :
    ((s.retired c words bound f ds).core s.cur).pend = ((f (s.modCore s.cur (fun k => k.leave (s.me.backEdge words)))).core s.cur).pend := by
  rw [State.retired, State.core_modCore]
  unfold Core.arriving
  split <;> rfl

/-- Writing a mask at once drops what is on its way to it (R85). -/
theorem Core.pend_writeK_now (k : Core) {n : BitVec 3} (v : BitVec 128) (p : Bool) (hn : n ≠ 0) : (k.writeK n v p 1).pend = supersede k.pend (.k n) := by
  rw [Core.writeK, if_neg hn]
  rfl

/-- The machine after reset, but for a vector compare's result on its way to K1 of core 0. -/
def maskOnItsWay : State := State.reset.modCore 0 (fun k => { k with pend := [⟨.k 1, 0, false, 4, false, 0⟩] })

theorem maskOnItsWay_me : maskOnItsWay.me = { Core.reset with pend := [⟨.k 1, 0, false, 4, false, 0⟩] } := by
  show (State.reset.modCore 0 _).core 0 = _
  rw [State.core_modCore, State.core_reset]

theorem maskOnItsWay_alone : maskOnItsWay.alone ⟨.sc, 0, false⟩ := by
  unfold State.alone
  rw [maskOnItsWay_me]
  exact ⟨rfl, rfl, rfl, nofun⟩

/-- Refutes O11: KMOV into K1 while a result of an earlier compare is on its way to K1 drops that result (R85), where the statement keeps all that
is on its way. -/
theorem not_predicateAndMaskResults : ¬ Obligations.PredicateAndMaskResults := by
  rintro ⟨-, masks⟩
  obtain ⟨-, stated, -⟩ := masks maskOnItsWay ⟨.sc, 0, false⟩ 1 0 0 0 0 0 0 .i8 maskOnItsWay_alone
  have done : exec (.kmov ⟨.sc, 0, false⟩ (.pair 1 0 0)) maskOnItsWay = .next (maskOnItsWay.retired ⟨.sc, 0, false⟩ 2 1 _ _) :=
    congrArg Host.Outcome.next (State.slot_retired maskOnItsWay_alone rfl rfl (by decide))
  have same := congrArg (fun t : State => (t.core maskOnItsWay.cur).pend) (Host.Outcome.next.inj (done.symm.trans stated))
  simp only [State.retiredCore, State.pend_retired, State.applyAll_cons, State.applyAll_nil, State.apply, State.core_setCore, State.core_modCore,
    Core.pend_writeK_now _ _ _ (show (1 : BitVec 3) ≠ 0 by decide)] at same
  have kept : maskOnItsWay.me.pend = [⟨.k 1, 0, false, 4, false, 0⟩] := by rw [maskOnItsWay_me]
  have dropped : supersede maskOnItsWay.me.pend (.k 1) = [] := by rw [kept]; rfl
  exact absurd (dropped.symm.trans (same.trans kept)) (by simp)

end Sys2Proof.Machine
end

section
/-! Pointers and memory operands: the address, its checks, and the traps they raise (O12, O15). -/
namespace Sys2Proof.Machine
open Sys2Proof

-- The parts of a pointer (R28) --------------------------------------------------------------------------------------------

theorem tagOf_eq (p : Word) : tagOf p = p.toNat / 2 ^ 60 := by
  have := p.isLt
  rw [tagOf, fld, BitVec.extractLsb'_toNat, Nat.shiftRight_eq_div_pow]
  omega

theorem fld_offset_toNat (p : Word) : (fld p 0 60).toNat = p.toNat % 2 ^ 60 := by
  rw [fld, BitVec.extractLsb'_toNat, Nat.shiftRight_zero]

/-- The bytes of a space other than that of handles (R28). -/
theorem two_pow_spaceBits {t : Nat} (h : t ≠ 2) : 2 ^ spaceBits t = if t = 0 then 2 ^ 19 else if t = 1 then 2 ^ 22 else 2 ^ 13 := by
  match t, h with
  | 0, _ | 1, _ => rfl
  | n + 3, _ => rfl

theorem noPoison_one {a : XW} (ha : a.poison = false) : [a].any (·.poison) = false := by rw [List.any_cons, ha]; rfl

theorem noPoison_two {a b : XW} (ha : a.poison = false) (hb : b.poison = false) : [a, b].any (·.poison) = false := by
  rw [List.any_cons, ha, noPoison_one hb]
  rfl

theorem syncFault_clean {srcs : List XW} (h : srcs.any (·.poison) = false) : syncFault srcs = none := by
  rw [syncFault, h]; rfl

theorem syncFault_poison {srcs : List XW} (h : srcs.any (·.poison) = true) : syncFault srcs = some ⟨0x08, 0, 0⟩ := by
  rw [syncFault, h]; rfl

-- TAGCHK (R119) -----------------------------------------------------------------------------------------------------------

section tagchk
variable (p n : Word) (m : BitVec 4)

theorem tagchkResult_wrongTag (h : p.toNat / 2 ^ 60 > 3 ∨ m.getLsbD (p.toNat / 2 ^ 60) = false) : tagchkResult p n m = .inl ⟨0x06, 0, p⟩ := by
  rw [tagchkResult, tagOf_eq, if_pos (by simpa using h)]
  rfl

variable (h3 : p.toNat / 2 ^ 60 ≤ 3) (hm : m.getLsbD (p.toNat / 2 ^ 60) = true)
include h3 hm

theorem accepted : ¬ (decide (p.toNat / 2 ^ 60 > 3) || !m.getLsbD (p.toNat / 2 ^ 60)) = true := by
  rw [hm, decide_eq_false (Nat.not_lt.mpr h3)]
  decide

theorem tagchkResult_handle (h2 : p.toNat / 2 ^ 60 = 2) :
    tagchkResult p n m = if p.toNat % 2 ^ 48 + n.toNat > 2 ^ 48 then .inl ⟨0x05, 0, p⟩ else .inr (BitVec.ofNat 64 (p.toNat % 2 ^ 48)) := by
  rw [tagchkResult, tagOf_eq, if_neg (accepted p m h3 hm), if_pos h2]
  rfl

theorem tagchkResult_local (h2 : p.toNat / 2 ^ 60 ≠ 2) :
    let size := if p.toNat / 2 ^ 60 = 0 then 2 ^ 19 else if p.toNat / 2 ^ 60 = 1 then 2 ^ 22 else 2 ^ 13
    let off := p.toNat % 2 ^ 60
    tagchkResult p n m = if off ≥ size ∨ (n.toNat > 0 ∧ off + n.toNat - 1 ≥ size) then .inl ⟨0x05, 0, p⟩ else .inr (BitVec.ofNat 64 off) := by
  intro size off
  have offset : (fld p 0 60).setWidth 64 = BitVec.ofNat 64 off := by
    rw [setWidth_eq_ofInt, fld_offset_toNat, BitVec.ofInt_natCast]
  rw [tagchkResult, tagOf_eq, if_neg (accepted p m h3 hm), if_neg h2]
  simp only [fld_offset_toNat, two_pow_spaceBits h2, offset, Bool.or_eq_true, decide_eq_true_eq]
  rfl

end tagchk

/-- TAGCHK of clean registers traps or writes an offset (R119). -/
theorem exec_tagchk {s : State} {c : Ctl} {xa xb : Reg} (hs : s.alone c) (ha : (s.me.readX xa).poison = false) (hb : (s.me.readX xb).poison = false)
    (xd : Reg) (m : BitVec 4) :
    exec (.tagchk c xd xa xb m) s = (tagchkResult (s.me.readX xa).val (s.me.readX xb).val m).elim (fun f => .next (s.trapped c f))
      (fun v => .next (s.givesX c 1 xd ⟨v, false⟩)) := by
  have clean : syncFault [s.me.readX xa, s.me.readX xb] = none := syncFault_clean (noPoison_two ha hb)
  cases hr : tagchkResult (s.me.readX xa).val (s.me.readX xb).val m with
  | inl f => exact congrArg Host.Outcome.next (State.slot_trapped hs (by rw [clean, hr]; rfl))
  | inr v => exact congrArg Host.Outcome.next (State.slot_givesX hs (by rw [clean, hr]; rfl) (by decide))

/-- Settles O12: one case for each of the checks, in their order. -/
theorem Scalar.tagchkResult : Obligations.TagchkResult := by
  intro s c xd xa xb m hs ha hb p n tag off size e
  have run := exec_tagchk hs ha hb xd m
  have whole : BitVec.ofNat 64 p = (s.me.readX xa).val := by rw [BitVec.ofNat_toNat, BitVec.setWidth_eq]
  rw [whole]
  refine ⟨fun h => ?_, fun h3 hm => ⟨fun h2 => ?_, fun h2 => ?_⟩⟩
  · rw [tagchkResult_wrongTag _ _ _ h] at run
    exact run
  · rw [tagchkResult_handle _ _ _ h3 hm h2, apply_ite (Sum.elim _ _)] at run
    exact run
  · rw [tagchkResult_local _ _ _ h3 hm h2, apply_ite (Sum.elim _ _)] at run
    exact run

-- Scalar memory operands (R120, R124) -------------------------------------------------------------------------------------

theorem sizeBytes_eq (z : MemSize) : sizeBytes z = sizeTable z := by cases z <;> rfl

theorem smAddr_eq (xb : Word) (off : BitVec 11) (z : MemSize) : smAddr xb off z = addrOf xb off z := by
  rw [smAddr, addrOf, BitVec.ofInt_add, ofInt_toNat, BitVec.ofInt_mul, BitVec.ofInt_natCast, sizeBytes_eq]
  rfl

theorem ixAddr_eq (xa xb : Word) (z : MemSize) : ixAddr xa xb z = addrIx xa xb z := by
  rw [ixAddr, addrIx, BitVec.ofInt_add, ofInt_toNat, BitVec.ofInt_mul, BitVec.ofInt_toInt, BitVec.ofInt_natCast, sizeBytes_eq]

/-- The checks of an address of a space other than that of handles, in their order (R90, R99). -/
theorem checkPtr_eq (p : Word) {tags : List Nat} (n : Nat) (h : 2 ∉ tags) :
    checkPtr p tags n =
      let tag := p.toNat / 2 ^ 60
      if tag ∉ tags then some ⟨0x06, 0, p⟩
      else if p.toNat % 2 ^ 60 ≥ (if tag = 0 then 2 ^ 19 else if tag = 1 then 2 ^ 22 else 2 ^ 13) then some ⟨0x05, 0, p⟩
      else if p.toNat % n ≠ 0 then some ⟨0x04, 0, p⟩ else none := by
  by_cases ht : p.toNat / 2 ^ 60 ∈ tags
  · have h2 : p.toNat / 2 ^ 60 ≠ 2 := fun e => h (e ▸ ht)
    have far : outOfSpace p = decide (p.toNat % 2 ^ 60 ≥ (if p.toNat / 2 ^ 60 = 0 then 2 ^ 19 else if p.toNat / 2 ^ 60 = 1 then 2 ^ 22 else 2 ^ 13)) := by
      rw [outOfSpace, tagOf_eq, fld_offset_toNat, two_pow_spaceBits h2, bne_iff_ne.mpr h2, Bool.true_and]
    have among : tags.contains (tagOf p) = true := by rw [tagOf_eq, List.contains_iff_mem]; exact ht
    simp only [checkPtr, among, far, ht, fltAt, Bool.not_true, Bool.false_eq_true, if_false, not_true, decide_eq_true_eq, bne_iff_ne]
  · have among : tags.contains (tagOf p) = false := by rw [tagOf_eq, Bool.eq_false_iff, Ne, List.contains_iff_mem]; exact ht
    simp only [checkPtr, among, ht, fltAt, Bool.not_false, if_true, not_false_iff]

/-- The first fault of a memory operand: the poison of an address register, then what its checks find (R99). -/
theorem orFault_operand {srcs : List XW} {p : Word} {tags : List Nat} {n : Nat} {f : SlotFault} (out : SlotOut)
    (h : (if srcs.any (·.poison) then some ⟨0x08, 0, 0⟩ else checkPtr p tags n) = some f) :
    orFault [syncFault srcs, checkPtr p tags n] out = .fault f := by
  cases hp : srcs.any (·.poison) with
  | true =>
    rw [hp, if_pos rfl] at h
    rw [syncFault_poison hp, ← Option.some.inj h]
    rfl
  | false =>
    rw [hp, if_neg Bool.false_ne_true] at h
    rw [syncFault_clean hp, h]
    rfl

/-- A memory operand that no check faults. -/
theorem orFault_fits {srcs : List XW} {p : Word} {tags : List Nat} {n : Nat} (out : SlotOut) (hp : srcs.any (·.poison) = false)
    (h : checkPtr p tags n = none) : orFault [syncFault srcs, checkPtr p tags n] out = out := by
  rw [syncFault_clean hp, h]
  rfl

/-- Settles O15: every form makes the same checks of its operand, on its own registers and spaces. -/
theorem memoryOperandTraps : Obligations.MemoryOperandTraps := by
  intro s c sz xd xa xb cls off hs a b faults cause causeIx
  have checks {srcs : List XW} {bad : Bool} {p q : Word} {tags : List Nat} (hb : srcs.any (·.poison) = bad) (hq : p = q) (h2 : 2 ∉ tags) :
      (if srcs.any (·.poison) then some ⟨0x08, 0, 0⟩ else checkPtr p tags (sizeBytes sz)) = faults bad q tags := by
    rw [hb, hq, checkPtr_eq _ _ h2, sizeBytes_eq]
  have one {tags : List Nat} (h2 : 2 ∉ tags) : _ = cause tags := checks (srcs := [b]) (Bool.or_false _) (smAddr_eq b.val off sz) h2
  have two {tags : List Nat} (h2 : 2 ∉ tags) : _ = causeIx tags :=
    checks (srcs := [a, b]) (congrArg (a.poison || ·) (Bool.or_false _)) (ixAddr_eq a.val b.val sz) h2
  have traps {bound : Option Nat} {out : Core → SlotOut} {f : SlotFault} (ho : out s.me = .fault f) :
      (.next (s.slot c bound out) : Host.Outcome State Fault Refusal) = .next (s.trapped c f) := congrArg _ (State.slot_trapped hs ho)
  exact ⟨fun f h => traps (orFault_operand _ ((two (by decide)).trans h)), fun f h => traps (orFault_operand _ ((two (by decide)).trans h)),
    fun f h => traps (orFault_operand _ ((one (by decide)).trans h)), fun f h => traps (orFault_operand _ ((one (by decide)).trans h)),
    fun f h => ⟨traps (orFault_operand _ ((one (by decide)).trans h)), traps (orFault_operand _ ((one (by decide)).trans h))⟩⟩

end Sys2Proof.Machine
end

section
/-! Transfers of control, LOOP, and the back edge of a loop (O16, O17). -/
namespace Sys2Proof.Machine
open Sys2Proof

-- Offsets -------------------------------------------------------------------------------------------------------------------

theorem Core.hdrAt_alone {k : Core} (h : k.bundle = none) : k.hdrAt = k.pc := by rw [Core.hdrAt, Core.bundleOf, h]

theorem Core.nextAt_alone {k : Core} (h : k.bundle = none) : k.nextAt = k.pc + 8 := by rw [Core.nextAt, Core.bundleOf, h]; rfl

/-- The target of a displacement in words (R125). -/
theorem target_eq_ofInt (pc : Word) {n : Nat} (d : BitVec n) : pc + 4 * d.signExtend 64 = BitVec.ofInt 64 (pc.toNat + 4 * d.toInt) := by
  rw [BitVec.ofInt_add, ofInt_toNat, BitVec.ofInt_mul]
  rfl

-- A fault that no guard holds back ------------------------------------------------------------------------------------------

theorem State.issue_early {s : State} {c : Ctl} {words : Nat} {f : SlotFault} (hb : s.me.bundle = none) :
    s.issue c.slot words (.early f) = s.trapped c f := by
  unfold State.issue
  simp [Core.bundleOf, hb, State.commit, firstOut, SlotOut.isWait, SlotOut.isFault, State.trapped]

-- BR, CALL, JMPR ------------------------------------------------------------------------------------------------------------

/-- The register write of a call: it lands at once, so nothing of the slot lands later. -/
theorem Core.landsAt_link (k : Core) (n : Reg) (v : XW) (target : Word) : k.landsAt ([.x n v 1] ++ [.transfer target]) = [] := by
  simp [Core.landsAt]

theorem transferResults : Claim.TransferResults := by
  intro s c disp xd xa hs k target links
  obtain ⟨alone, -⟩ := id hs
  have there : k.hdrAt + 4 * disp.signExtend 64 = target := by rw [Core.hdrAt_alone alone, target_eq_ofInt]
  have calls {out : Core → SlotOut} {n : Reg} {dest to' : Word} (ho : out k = .ok ([.x n ⟨k.nextAt, false⟩ 1] ++ [.transfer dest])) (hd : dest = to') :
      (.next (s.slot c (some 1) out) : Host.Outcome State Fault Refusal) = .next (s.transferred c 1 to' (links n)) := by
    subst hd
    refine congrArg _ ((State.slot_transferred hs ho rfl (by decide)).trans ?_)
    rw [Core.landsAt_link, Core.nextAt_alone alone]
    rfl
  refine ⟨?_, calls rfl there, ?_⟩
  · exact there ▸ congrArg Host.Outcome.next (State.slot_transferred (as := []) hs rfl rfl (by decide))
  · cases hp : (k.readX xa).poison with
    | true => exact congrArg Host.Outcome.next (State.slot_trapped hs (by rw [syncFault_poison (by rw [List.any_cons, hp]; rfl)]; rfl))
    | false => exact calls (by rw [syncFault_clean (noPoison_one hp)]; rfl) rfl

-- LOOP ----------------------------------------------------------------------------------------------------------------------

theorem fld_two_toNat (v : Word) : (fld v 2 16).toNat = v.toNat / 4 % 2 ^ 16 := by
  rw [fld, BitVec.extractLsb'_toNat, Nat.shiftRight_eq_div_pow]

/-- LE as a number: ON, the start and the end of the body in words (R129). -/
theorem loopEdge_eq_ofNat (on : Bool) (next exit : Word) :
    (bitOf 1 on ++ (fld next 2 16 : BitVec 16) ++ (fld exit 2 16 : BitVec 16) : BitVec 33)
      = BitVec.ofNat 33 (on.toNat * 2 ^ 32 + next.toNat / 4 % 2 ^ 16 * 2 ^ 16 + exit.toNat / 4 % 2 ^ 16) := by
  have flag : (bitOf 1 on).toNat = on.toNat := by cases on <;> rfl
  have low : exit.toNat / 4 % 2 ^ 16 < 2 ^ 16 := Nat.mod_lt _ (by decide)
  have mid : next.toNat / 4 % 2 ^ 16 < 2 ^ 16 := Nat.mod_lt _ (by decide)
  have one := on.toNat_le
  apply BitVec.eq_of_toNat_eq
  rw [BitVec.toNat_append, BitVec.toNat_append, fld_two_toNat, fld_two_toNat, flag, ← Nat.shiftLeft_add_eq_or_of_lt mid,
    ← Nat.shiftLeft_add_eq_or_of_lt low, Nat.shiftLeft_eq, Nat.shiftLeft_eq, BitVec.toNat_ofNat]
  omega

/-- What a LOOP with a marked exit comes to (R129). -/
def Core.loopOut (k : Core) (n : Bool) (xa : Reg) (disp : BitVec 18) : SlotOut :=
  let exit := k.loopExit disp
  let cnt := (k.readX xa).val
  let le (on : Bool) : BitVec 33 := bitOf 1 on ++ (fld k.nextAt 2 16) ++ (fld exit 2 16)
  if k.csr.hm || exit.sle k.nextAt then .early (flt 0x01)
  else orFault [syncFault [k.readX xa]] (if cnt = 0 then .ok [.loopSet n cnt (le false), .transfer exit] else .ok [.loopSet n cnt (le true)])

section loop
variable {s : State} {c : Ctl} {n : Bool} {xa : Reg} {disp : BitVec 18}

theorem exec_loop_unmarked (h : s.me.active.marked (s.me.loopExit disp).toNat = false) :
    exec (.loop c n xa disp) s = .next (s.issue c.slot 2 (.early (fltAt 0x02 s.me.hdrAt))) := if_pos (by rw [h]; rfl)

theorem exec_loop_marked (h : s.me.active.marked (s.me.loopExit disp).toNat = true) :
    exec (.loop c n xa disp) s = .next (s.slot c (some 1) (fun k => k.loopOut n xa disp)) := if_neg (by rw [h]; decide)

theorem loopOut_illegal {k : Core} (h : k.csr.hm = true ∨ (k.loopExit disp).toInt ≤ k.nextAt.toInt) : k.loopOut n xa disp = .early ⟨0x01, 0, 0⟩ :=
  if_pos (by rwa [Bool.or_eq_true, BitVec.sle_iff_toInt_le])

variable {k : Core} (h : ¬ (k.csr.hm = true ∨ (k.loopExit disp).toInt ≤ k.nextAt.toInt))
include h

theorem loopOut_legal : k.loopOut n xa disp = orFault [syncFault [k.readX xa]]
    (if (k.readX xa).val = 0 then
       .ok [.loopSet n (k.readX xa).val (bitOf 1 false ++ (fld k.nextAt 2 16) ++ (fld (k.loopExit disp) 2 16)), .transfer (k.loopExit disp)]
     else .ok [.loopSet n (k.readX xa).val (bitOf 1 true ++ (fld k.nextAt 2 16) ++ (fld (k.loopExit disp) 2 16))]) :=
  if_neg (by rwa [Bool.or_eq_true, BitVec.sle_iff_toInt_le])

theorem loopOut_poisoned (hp : (k.readX xa).poison = true) : k.loopOut n xa disp = .fault ⟨0x08, 0, 0⟩ := by
  rw [loopOut_legal h, syncFault_poison (by rw [List.any_cons, hp]; rfl)]
  rfl

theorem loopOut_clean (hp : (k.readX xa).poison = false) : k.loopOut n xa disp =
    if (k.readX xa).val = 0 then
      .ok [.loopSet n (k.readX xa).val (bitOf 1 false ++ (fld k.nextAt 2 16) ++ (fld (k.loopExit disp) 2 16)), .transfer (k.loopExit disp)]
    else .ok [.loopSet n (k.readX xa).val (bitOf 1 true ++ (fld k.nextAt 2 16) ++ (fld (k.loopExit disp) 2 16))] := by
  rw [loopOut_legal h, syncFault_clean (noPoison_one hp)]
  rfl

end loop

theorem loopResult : Claim.LoopResult := by
  intro s c n xa disp hs k exit next cnt le sets
  obtain ⟨alone, -⟩ := id hs
  have hexit : k.loopExit disp = exit := by rw [Core.loopExit, Core.hdrAt_alone alone, target_eq_ofInt]
  have hnext : k.nextAt = next := Core.nextAt_alone alone
  have hle (on : Bool) : bitOf 1 on ++ (fld k.nextAt 2 16 : BitVec 16) ++ (fld (k.loopExit disp) 2 16 : BitVec 16) = le on := by
    rw [hnext, hexit]
    exact loopEdge_eq_ofNat on next exit
  cases hm : k.active.marked exit.toNat with
  | false =>
    rw [exec_loop_unmarked (hexit ▸ hm), State.issue_early alone, Core.hdrAt_alone alone]
    rfl
  | true =>
    rw [exec_loop_marked (hexit ▸ hm), if_neg (by decide)]
    by_cases illegal : k.csr.hm = true ∨ exit.toInt ≤ next.toInt
    · rw [if_pos illegal, State.slot_early hs (loopOut_illegal (hexit ▸ hnext ▸ illegal))]
    rw [if_neg illegal]
    rw [← hexit, ← hnext] at illegal
    cases hp : cnt.poison with
    | true => rw [State.slot_trapped hs (loopOut_poisoned illegal hp), if_pos rfl]
    | false =>
      have out := loopOut_clean (n := n) illegal hp
      rw [if_neg (by decide)]
      by_cases zero : cnt.val = 0
      · rw [if_pos zero, hle, hexit] at out
        rw [if_pos zero, State.slot_transferred (as := [.loopSet n cnt.val (le false)]) hs out rfl (by decide)]
        rfl
      · rw [if_neg zero, hle] at out
        rw [if_neg zero, State.slot_retired hs out rfl (by decide)]
        rfl

/-- Settles O16: the transfers by their one effect, LOOP by its checks in their order. -/
theorem controlTransfers : Obligations.ControlTransfers := ⟨transferResults, loopResult⟩

-- The back edge (R131) ------------------------------------------------------------------------------------------------------

/-- Whether a loop is on and ends at an offset (R131). -/
def loopEnds (next : Word) (le : BitVec 33) : Bool := bit le 32 && (fld le 0 16).setWidth 64 * 4 == next
/-- The start of a loop's body. -/
def loopStart (le : BitVec 33) : Word := (fld le 16 16).setWidth 64 * 4
/-- The edges of a loop switched off. -/
def loopOff (le : BitVec 33) : BitVec 33 := le &&& 0x0FFFFFFFF#33

theorem words_eq_ofNat (v : BitVec 16) : v.setWidth 64 * 4 = BitVec.ofNat 64 (v.toNat * 4) := by
  apply BitVec.eq_of_toNat_eq
  have := v.isLt
  rw [BitVec.toNat_mul, BitVec.toNat_setWidth, BitVec.toNat_ofNat]
  show v.toNat % 2 ^ 64 * 4 % 2 ^ 64 = _
  omega

theorem loopEnds_iff (next : Word) (le : BitVec 33) : loopEnds next le = true ↔ le.getLsbD 32 = true ∧ le.toNat % 2 ^ 16 * 4 = next.toNat := by
  have low : (fld le 0 16).toNat = le.toNat % 2 ^ 16 := by rw [fld, BitVec.extractLsb'_toNat, Nat.shiftRight_zero]
  have small : le.toNat % 2 ^ 16 < 2 ^ 16 := Nat.mod_lt _ (by decide)
  rw [loopEnds, Bool.and_eq_true, beq_iff_eq, words_eq_ofNat, ← BitVec.toNat_inj, BitVec.toNat_ofNat, low, Nat.mod_eq_of_lt (by omega)]
  rfl

theorem loopStart_eq (le : BitVec 33) : loopStart le = BitVec.ofNat 64 (le.toNat / 2 ^ 16 % 2 ^ 16 * 4) := by
  rw [loopStart, words_eq_ofNat, fld, BitVec.extractLsb'_toNat, Nat.shiftRight_eq_div_pow]

theorem loopOff_off (le : BitVec 33) : (loopOff le).getLsbD 32 = false := by
  rw [loopOff, BitVec.getLsbD_and]
  exact Bool.and_false _

section check
variable (lc0 lc1 : Word) (le0 le1 : BitVec 33) (next : Word)

/-- The check goes back for loop 1; otherwise loop 1 is switched off where it ends here, and loop 0 is checked. -/
theorem loopCheck_eq : loopCheck lc0 lc1 le0 le1 next =
    if loopEnds next le1 && decide (lc1.toNat > 1) then (lc0, lc1 - 1, le0, le1, loopStart le1)
    else
      let c1 := if loopEnds next le1 then 0 else lc1
      let e1 := if loopEnds next le1 then loopOff le1 else le1
      if loopEnds next le0 && decide (lc0.toNat > 1) then (lc0 - 1, c1, le0, e1, loopStart le0)
      else if loopEnds next le0 then (0, c1, loopOff le0, e1, next) else (lc0, c1, le0, e1, next) := by
  unfold loopCheck loopEnds loopStart loopOff
  cases h : bit le1 32 && (fld le1 0 16).setWidth 64 * 4 == next with
  | true => simp only [h, if_true]
  | false => simp only [h, Bool.false_eq_true, if_false]

theorem loopTaken_eq : loopTaken lc0 lc1 le0 le1 next =
    (loopEnds next le1 && decide (lc1.toNat > 1) || loopEnds next le0 && decide (lc0.toNat > 1)) := rfl

end check

theorem not_taken_of_last_pass {next lc : Word} {le : BitVec 33} (pass : loopEnds next le = true → lc.toNat ≤ 1) :
    ¬ (loopEnds next le && decide (lc.toNat > 1)) = true := by
  rw [Bool.and_eq_true, decide_eq_true_eq]
  exact fun ⟨h, hc⟩ => absurd (pass h) (Nat.not_le.mpr hc)

section edges
variable {k r : Core} {next : Word}
  (hb : (r.csr.lc[0], r.csr.lc[1], r.csr.le[0], r.csr.le[1], r.pc) = loopCheck k.csr.lc[0] k.csr.lc[1] k.csr.le[0] k.csr.le[1] next)
include hb

/-- Loop 1 goes back: its count falls, and loop 0 is left as it is. -/
theorem edge_loop1 (h : loopEnds next k.csr.le[1] = true) (hc : k.csr.lc[1].toNat > 1) :
    r.pc = loopStart k.csr.le[1] ∧ r.csr.lc[1] = k.csr.lc[1] - 1 ∧ r.csr.le[1] = k.csr.le[1] ∧ r.csr.lc[0] = k.csr.lc[0] ∧
      r.csr.le[0] = k.csr.le[0] := by
  rw [loopCheck_eq, if_pos (by rw [h, decide_eq_true hc]; rfl)] at hb
  simp only [Prod.mk.injEq] at hb
  obtain ⟨hlc0, hlc1, hle0, hle1, hpc⟩ := hb
  exact ⟨hpc, hlc1, hle1, hlc0, hle0⟩

variable (pass : loopEnds next k.csr.le[1] = true → k.csr.lc[1].toNat ≤ 1)
include pass

/-- Loop 1 does not go back: it is switched off where it ends here. -/
theorem edge_loop1_off :
    (loopEnds next k.csr.le[1] = true → r.csr.lc[1] = 0 ∧ r.csr.le[1].getLsbD 32 = false) ∧
    (¬ loopEnds next k.csr.le[1] = true → r.csr.lc[1] = k.csr.lc[1] ∧ r.csr.le[1] = k.csr.le[1]) := by
  have checked : r.csr.lc[1] = (if loopEnds next k.csr.le[1] then (0 : Word) else k.csr.lc[1]) ∧
      r.csr.le[1] = (if loopEnds next k.csr.le[1] then loopOff k.csr.le[1] else k.csr.le[1]) := by
    rw [loopCheck_eq, if_neg (not_taken_of_last_pass pass)] at hb
    dsimp only at hb
    split_ifs at hb
    all_goals
      simp only [Prod.mk.injEq] at hb
      obtain ⟨-, hlc1, -, hle1, -⟩ := hb
      simp [*]
  obtain ⟨hlc1, hle1⟩ := checked
  refine ⟨fun h => ?_, fun h => ?_⟩
  · rw [hlc1, hle1, if_pos h, if_pos h]
    exact ⟨rfl, loopOff_off _⟩
  · rw [hlc1, hle1, if_neg h, if_neg h]
    exact ⟨rfl, rfl⟩

/-- Loop 0 is checked after loop 1 in the same way. -/
theorem edge_loop0 :
    (loopEnds next k.csr.le[0] = true → k.csr.lc[0].toNat > 1 →
      r.pc = loopStart k.csr.le[0] ∧ r.csr.lc[0] = k.csr.lc[0] - 1 ∧ r.csr.le[0] = k.csr.le[0]) ∧
    (loopEnds next k.csr.le[0] = true → k.csr.lc[0].toNat ≤ 1 → r.pc = next ∧ r.csr.lc[0] = 0 ∧ r.csr.le[0].getLsbD 32 = false) ∧
    (¬ loopEnds next k.csr.le[0] = true → r.pc = next ∧ r.csr.lc[0] = k.csr.lc[0] ∧ r.csr.le[0] = k.csr.le[0]) := by
  rw [loopCheck_eq, if_neg (not_taken_of_last_pass pass)] at hb
  refine ⟨fun h hc => ?_, fun h hc => ?_, fun h => ?_⟩
  · rw [h, decide_eq_true hc] at hb
    simp only [Bool.and_self, if_true, Prod.mk.injEq] at hb
    obtain ⟨hlc0, -, hle0, -, hpc⟩ := hb
    exact ⟨hpc, hlc0, hle0⟩
  · rw [h, decide_eq_false (Nat.not_lt.mpr hc)] at hb
    simp only [Bool.and_false, Bool.false_eq_true, if_false, if_true, Prod.mk.injEq] at hb
    obtain ⟨hlc0, -, hle0, -, hpc⟩ := hb
    exact ⟨hpc, hlc0, hle0 ▸ loopOff_off _⟩
  · rw [Bool.eq_false_iff.mpr h] at hb
    simp only [Bool.false_and, Bool.false_eq_true, if_false, Prod.mk.injEq] at hb
    obtain ⟨hlc0, -, hle0, -, hpc⟩ := hb
    exact ⟨hpc, hlc0, hle0⟩

end edges

section nop
variable {s : State} (c : Ctl) (hm : s.me.csr.hm = false)

/-- A core after a NOP alone in its bundle: its counters, edges and next offset are those of the back edge. -/
theorem me_retired_id :
    let r := (s.retired c 2 1 id).me
    (r.csr.lc[0], r.csr.lc[1], r.csr.le[0], r.csr.le[1], r.pc) = s.me.backEdge 2 ∧ r.via = s.me.backVia 2 ∧ r.bubble = false ∧
      r.csr.tcyc = s.me.csr.tcyc + 1 := by
  intro r
  have core : r = { ((s.me.leave (s.me.backEdge 2)).arriving c 1 s.me.csr.ardom []).taskCycle with
      pc := (s.me.backEdge 2).2.2.2.2, via := s.me.backVia 2, bubble := false } := by
    show (s.retired c 2 1 id).core s.cur = _
    rw [State.retired, id_eq, State.modCore_modCore, State.core_modCore]
  have arrived : ((s.me.leave (s.me.backEdge 2)).arriving c 1 s.me.csr.ardom []).csr = (s.me.leave (s.me.backEdge 2)).csr := by
    unfold Core.arriving
    split <;> rfl
  have csr : r.csr = { (s.me.leave (s.me.backEdge 2)).csr with tcyc := (s.me.leave (s.me.backEdge 2)).csr.tcyc + 1 } := by
    rw [core, ← arrived]
    rfl
  rw [csr, core]
  exact ⟨rfl, rfl, rfl, rfl⟩

include hm

theorem backEdge_task : s.me.backEdge 2 = loopCheck s.me.csr.lc[0] s.me.csr.lc[1] s.me.csr.le[0] s.me.csr.le[1] (s.me.pc + 8) := by
  rw [Core.backEdge, hm]
  rfl

theorem backVia_task : s.me.backVia 2 =
    if loopTaken s.me.csr.lc[0] s.me.csr.lc[1] s.me.csr.le[0] s.me.csr.le[1] (s.me.pc + 8) then some s.me.pc else none := by
  rw [Core.backVia, hm]
  rfl

end nop

/-- Settles O17: the check of the back edge case by case, loop 1 before loop 0. -/
theorem backEdge : Obligations.BackEdge := by
  intro s c hs hm k next ends start lc0 lc1 le0 le1
  have ends_iff (le : BitVec 33) : ends le ↔ loopEnds next le = true := (loopEnds_iff next le).symm
  have start_eq (le : BitVec 33) : start le = loopStart le := (loopStart_eq le).symm
  refine ⟨_, congrArg Host.Outcome.next (State.slot_retired (as := []) hs rfl rfl (by decide)), ?_⟩
  obtain ⟨hb, hvia, hbubble, htcyc⟩ := me_retired_id (s := s) c
  rw [backEdge_task hm] at hb
  rw [backVia_task hm, loopTaken_eq] at hvia
  simp only [ends_iff, start_eq]
  refine ⟨fun h hc => ?_, fun pass => ?_, hbubble, htcyc⟩
  · obtain ⟨hpc, hlc1, hle1, hlc0, hle0⟩ := edge_loop1 hb h hc
    exact ⟨hpc, hlc1, hle1, hlc0, hle0, hvia.trans (if_pos (by rw [h, decide_eq_true hc]; rfl))⟩
  · obtain ⟨off1, kept1⟩ := edge_loop1_off hb pass
    obtain ⟨back0, off0, kept0⟩ := edge_loop0 hb pass
    rw [Bool.eq_false_iff.mpr (not_taken_of_last_pass pass), Bool.false_or] at hvia
    refine ⟨off1, kept1, fun h hc => ?_, fun h hc => ?_, fun h => ?_⟩
    · obtain ⟨hpc, hlc0, hle0⟩ := back0 h hc
      exact ⟨hpc, hlc0, hle0, hvia.trans (if_pos (by rw [h, decide_eq_true hc]; rfl))⟩
    · obtain ⟨hpc, hlc0, hle0⟩ := off0 h hc
      exact ⟨hpc, hlc0, hle0, hvia.trans (if_neg (by rw [decide_eq_false (Nat.not_lt.mpr hc), Bool.and_false]; exact Bool.false_ne_true))⟩
    · obtain ⟨hpc, hlc0, hle0⟩ := kept0 h
      exact ⟨hpc, hlc0, hle0, hvia.trans (if_neg (by rw [Bool.eq_false_iff.mpr h, Bool.false_and]; exact Bool.false_ne_true))⟩

end Sys2Proof.Machine
end

section
/-! CSRR, CSRW, CSRX and the write of a DOM register: the checks of the address and the value, and the effect (O19). -/
namespace Sys2Proof.Machine
open Sys2Proof

section checks
variable (s : State) {c : CoreId} {a : BitVec 12}

theorem csrFault_reserved (h : s.csrRead c a = none) : s.csrFault c a = some ⟨0x01, 0, a.setWidth 64⟩ := by
  rw [State.csrFault, h]

/-- The save registers of a handler exist (R20). -/
theorem csrRead_save (h5 : 5 ≤ a.toNat) (h8 : a.toNat ≤ 8) : ∃ w, s.csrRead c a = some w := by
  obtain ⟨n, hn⟩ := a
  rcases (show n = 5 ∨ n = 6 ∨ n = 7 ∨ n = 8 by have : 5 ≤ n := h5; have : n ≤ 8 := h8; omega) with rfl | rfl | rfl | rfl <;> exact ⟨_, rfl⟩

theorem csrFault_privileged (h5 : 5 ≤ a.toNat) (h8 : a.toNat ≤ 8) (hm : (s.core c).csr.hm = false) :
    s.csrFault c a = some ⟨0x03, 0, a.setWidth 64⟩ := by
  obtain ⟨w, hw⟩ := csrRead_save s (c := c) h5 h8
  have save : csrPriv a = true := by simp [csrPriv, h5, h8]
  rw [State.csrFault, hw, save, hm]
  rfl

theorem csrFault_allowed {w : Word} (hw : s.csrRead c a = some w) (h : ¬ (5 ≤ a.toNat ∧ a.toNat ≤ 8 ∧ (s.core c).csr.hm = false)) :
    s.csrFault c a = none := by
  have free : ¬ (csrPriv a && !(s.core c).csr.hm) = true := by
    simpa [csrPriv, and_assoc] using h
  rw [State.csrFault, hw]
  exact if_neg free

theorem domLevel_eq_some_iff {l : Level} : domLevel a = some l ↔ a.toNat = 0x021 + l.ix.val := by
  unfold domLevel
  constructor
  · intro h
    split at h
    all_goals cases h <;> assumption
  · intro h
    rw [h]
    cases l <;> rfl

variable {v : XW}

theorem csrWriteCheck_poisoned (hv : v.poison = true) : s.csrWriteCheck c a v = some ⟨0x08, 0, 0⟩ := by
  rw [State.csrWriteCheck, syncFault_poison (by rw [List.any_cons, hv]; rfl)]

variable (hv : v.poison = false)
include hv

theorem csrWriteCheck_address {f : SlotFault} (hf : s.csrFault c a = some f) : s.csrWriteCheck c a v = some f := by
  rw [State.csrWriteCheck, syncFault_clean (noPoison_one hv), hf]

/-- A value that a handler may not write to DOM of its level (R250, R297). -/
theorem csrWriteCheck_rejected {l : Level} (hf : s.csrFault c a = none) (hl : a.toNat = 0x021 + l.ix.val) (hm : (s.core c).csr.hm = true)
    (hr : s.domRejected c l v.val = true) : s.csrWriteCheck c a v = some ⟨0x01, 0, a.setWidth 64⟩ := by
  rw [State.csrWriteCheck, syncFault_clean (noPoison_one hv), hf, domLevel_eq_some_iff.mpr hl]
  exact if_pos (by rw [hm, hr]; rfl)

theorem csrWriteCheck_accepted (hf : s.csrFault c a = none)
    (h : ∀ l : Level, ¬ (a.toNat = 0x021 + l.ix.val ∧ (s.core c).csr.hm = true ∧ s.domRejected c l v.val = true)) : s.csrWriteCheck c a v = none := by
  rw [State.csrWriteCheck, syncFault_clean (noPoison_one hv), hf]
  cases hl : domLevel a with
  | none => rfl
  | some l =>
    refine if_neg fun hr => h l ⟨domLevel_eq_some_iff.mp hl, ?_⟩
    rwa [Bool.and_eq_true] at hr

end checks

section alone
variable {s : State} {c : Ctl} {xd xa : Reg} {a : BitVec 12} {f : SlotFault} (hs : s.alone c)
include hs

theorem exec_csrr_fault (hf : s.csrFault s.cur a = some f) : exec (.csrr c xd a) s = .next (s.trapped c f) :=
  congrArg _ (State.slot_trapped hs (by rw [hf]; rfl))

theorem exec_csrw_fault (hf : s.csrWriteCheck s.cur a (s.me.readX xa) = some f) : exec (.csrw c a xa) s = .next (s.trapped c f) :=
  congrArg _ (State.slot_trapped hs (by rw [hf]; rfl))

theorem exec_csrx_fault (hf : s.csrWriteCheck s.cur a (s.me.readX xa) = some f) : exec (.csrx c xd a xa) s = .next (s.trapped c f) :=
  congrArg _ (State.slot_trapped hs (by rw [hf]; rfl))

theorem exec_domWrite_fault {l : Level} (hf : s.csrWriteCheck s.cur (0x021 + BitVec.ofNat 12 l.ix.val) (s.me.readX xa) = some f) :
    exec (.domWrite c l xa) s = .next (s.trapped c f) :=
  congrArg _ (State.slot_trapped hs (by rw [hf]; rfl))

theorem exec_csrr {w : Word} (hf : s.csrFault s.cur a = none) (hw : s.csrRead s.cur a = some w) :
    exec (.csrr c xd a) s = .next (s.givesX c 2 xd ⟨w, false⟩) :=
  congrArg _ (State.slot_givesX hs (by rw [hf, hw]; rfl) (by decide))

theorem exec_csrw (hf : s.csrWriteCheck s.cur a (s.me.readX xa) = none) :
    exec (.csrw c a xa) s = .next (s.retired c 2 1 (fun t => t.modCore s.cur (fun k => k.writeCsr a (s.me.readX xa).val))) :=
  congrArg _ (State.slot_retired (as := [.csr a (s.me.readX xa).val]) hs (by rw [hf]; rfl) rfl (by decide))

theorem exec_domWrite {l : Level} (hf : s.csrWriteCheck s.cur (0x021 + BitVec.ofNat 12 l.ix.val) (s.me.readX xa) = none) :
    exec (.domWrite c l xa) s =
      .next (s.retired c 2 1 (fun t => t.modCore s.cur (fun k => k.writeCsr (0x021 + BitVec.ofNat 12 l.ix.val) (s.me.readX xa).val))) :=
  congrArg _ (State.slot_retired (as := [.csr _ (s.me.readX xa).val]) hs (by rw [hf]; rfl) rfl (by decide))

theorem exec_csrx {w : Word} (hf : s.csrWriteCheck s.cur a (s.me.readX xa) = none) (hw : s.csrRead s.cur a = some w) :
    exec (.csrx c xd a xa) s = .next (s.retired c 2 2 (fun t =>
      (t.modCore s.cur (fun k => k.writeX xd ⟨w, false⟩ 2)).modCore s.cur (fun k => k.writeCsr a (s.me.readX xa).val)) (s.me.xLands xd 2)) := by
  have lands : s.me.landsAt [.x xd ⟨w, false⟩ 2, .csr a (s.me.readX xa).val] = s.me.xLands xd 2 := s.me.landsAt_x xd ⟨w, false⟩ 2
  rw [← lands]
  exact congrArg _ (State.slot_retired (bound := 2) (as := [.x xd ⟨w, false⟩ 2, .csr a (s.me.readX xa).val]) hs (by rw [hf, hw]; rfl) rfl (by decide))

end alone

/-- Settles O19: the checks in their order, each instruction's effect when they pass. -/
theorem csrResults : Obligations.CsrResults := by
  intro s c a l xd xa hs v old priv addr rejects write d
  have number (l : Level) : (0x021 + BitVec.ofNat 12 l.ix.val : BitVec 12).toNat = 0x021 + l.ix.val := by cases l <;> rfl
  have domFree : s.csrFault s.cur d = none := by
    refine csrFault_allowed s (w := s.me.csr.domOf l) (by cases l <;> rfl) ?_
    rw [number]
    omega
  have addressed {f : SlotFault} (hf : s.csrFault s.cur a = some f) : exec (.csrr c xd a) s = .next (s.trapped c f) ∧
      (v.poison = false → exec (.csrw c a xa) s = .next (s.trapped c f) ∧ exec (.csrx c xd a xa) s = .next (s.trapped c f)) :=
    ⟨exec_csrr_fault hs hf, fun hv => ⟨exec_csrw_fault hs (csrWriteCheck_address s hv hf), exec_csrx_fault hs (csrWriteCheck_address s hv hf)⟩⟩
  refine ⟨fun none => addressed (csrFault_reserved s none), fun ⟨h5, h8, hm⟩ => addressed (csrFault_privileged s h5 h8 hm), fun hv => ?_, fun w hw hp => ?_,
    fun hv => ⟨fun ⟨_, hm, hr⟩ => ?_, fun accepted => ?_⟩⟩
  · exact ⟨exec_csrw_fault hs (csrWriteCheck_poisoned s hv), exec_csrx_fault hs (csrWriteCheck_poisoned s hv),
      exec_domWrite_fault hs (csrWriteCheck_poisoned s hv)⟩
  · have free : s.csrFault s.cur a = none := csrFault_allowed s hw hp
    refine ⟨exec_csrr hs free hw, fun hv ⟨hl, hm, hr⟩ => ?_, fun hv accepted => ?_⟩
    · have rejected := csrWriteCheck_rejected s hv free hl hm hr
      exact ⟨exec_csrw_fault hs rejected, exec_csrx_fault hs rejected⟩
    · have passes := csrWriteCheck_accepted s hv free accepted
      exact ⟨exec_csrw hs passes, exec_csrx hs passes hw⟩
  · exact exec_domWrite_fault hs (csrWriteCheck_rejected s hv domFree (number l) hm hr)
  · refine exec_domWrite hs (csrWriteCheck_accepted s hv domFree fun m hm => accepted ?_)
    have same : m = l := Option.some.inj ((domLevel_eq_some_iff.mpr hm.1).symm.trans (domLevel_eq_some_iff.mpr (number l)))
    exact same ▸ hm

end Sys2Proof.Machine
end

section
/-! Effects in any order with those of the reads: what a slot does that names its draws after its results (O13, O14). -/
namespace Sys2Proof.Machine
open Sys2Proof

/-- An effect of a read, or a plain one: neither of the matrix queue, nor one that says where control goes. -/
def Action.quiet (a : Action) : Bool := a.plain || isReadAct a

/-- The effects of a list that belong to its reads, before the others. -/
def readsFirst (as : List Action) : List Action := as.filter isReadAct ++ as.filter (fun a => !isReadAct a)

theorem Action.quiet_cases {a : Action} (h : a.quiet = true) : a.plain = true ∨ isReadAct a = true := Bool.or_eq_true .. ▸ h

theorem Action.plain_of_quiet {a : Action} (h : a.quiet = true) (hr : (!isReadAct a) = true) : a.plain = true := by
  rcases Action.quiet_cases h with hp | hp
  · exact hp
  · rw [hp] at hr
    cases hr

theorem allReads_filter (as : List Action) : allReads (as.filter isReadAct) := List.all_eq_true.mpr fun _ ha => (List.mem_filter.mp ha).2

theorem filter_others_plain {as : List Action} (h : as.all Action.plain = true) : as.filter (fun a => !isReadAct a) = as :=
  List.filter_eq_self.mpr fun a ha => by rw [Action.plain_read (plain_mem h a ha)]; rfl

theorem filter_others_reads {rs : List Action} (h : allReads rs) : rs.filter (fun a => !isReadAct a) = [] :=
  List.filter_eq_nil_iff.mpr fun a ha => by rw [List.all_eq_true.mp h a ha]; exact Bool.false_ne_true

theorem readsFirst_append_plain (as : List Action) {bs : List Action} (h : bs.all Action.plain = true) :
    readsFirst (as ++ bs) = as.filter isReadAct ++ (as.filter (fun a => !isReadAct a) ++ bs) := by
  rw [readsFirst, List.filter_append, List.filter_append, plain_not_read h, filter_others_plain h, List.append_nil]

theorem readsFirst_append {as rs : List Action} (hp : as.all Action.plain = true) (hr : allReads rs) : readsFirst (as ++ rs) = rs ++ as := by
  rw [readsFirst, List.filter_append, List.filter_append, plain_not_read hp, reads_filter hr, filter_others_plain hp, filter_others_reads hr,
    List.nil_append, List.append_nil]

section quiet
variable {as : List Action} (h : as.all Action.quiet = true)
include h

theorem plain_filter_others : (as.filter (fun a => !isReadAct a)).all Action.plain = true :=
  List.all_eq_true.mpr fun a ha => Action.plain_of_quiet (List.all_eq_true.mp h a (List.mem_of_mem_filter ha)) (List.mem_filter.mp ha).2

theorem quiet_not_mx : ∀ a ∈ as, isMxAct a = false := fun a ha => by
  rcases Action.quiet_cases (List.all_eq_true.mp h a ha) with hp | hr
  · exact Action.plain_mx hp
  · obtain ⟨-, none⟩ := reads_mx (rs := [a]) (by rw [allReads, List.all_cons, hr]; rfl)
    simpa using none

theorem quiet_filter_mx : as.filter isMxAct = [] ∧ as.any isMxAct = false :=
  ⟨List.filter_eq_nil_iff.mpr fun a ha => by rw [quiet_not_mx h a ha]; exact Bool.false_ne_true,
    List.any_eq_false.mpr fun a ha => by rw [quiet_not_mx h a ha]; exact Bool.false_ne_true⟩

theorem quiet_filter_others : as.filter (fun a => !isMxAct a && !isReadAct a) = as.filter (fun a => !isReadAct a) :=
  List.filter_congr fun a ha => by rw [quiet_not_mx h a ha]; rfl

theorem quiet_control : transferOf as = none ∧ trapOf as = none ∧ hasEret as = false ∧ hasExit as = false := by
  induction as with
  | nil => exact ⟨rfl, rfl, rfl, rfl⟩
  | cons a rest ih =>
    rw [List.all_cons, Bool.and_eq_true] at h
    obtain ⟨ha, hrest⟩ := h
    have one : transferOf [a] = none ∧ trapOf [a] = none ∧ hasEret [a] = false ∧ hasExit [a] = false := by
      rcases Action.quiet_cases ha with hp | hr
      · have plain : [a].all Action.plain = true := by rw [List.all_cons, hp]; rfl
        exact ⟨plain_transfer plain, plain_trap plain, plain_eret plain, plain_exit plain⟩
      · exact reads_control (by rw [allReads, List.all_cons, hr]; rfl)
    obtain ⟨transfer, trap, eret, exit⟩ := one
    obtain ⟨transfers, traps, erets, exits⟩ := ih hrest
    unfold transferOf trapOf hasEret hasExit at *
    rw [← List.singleton_append, List.findSome?_append, List.findSome?_append, List.any_append, List.any_append, transfer, trap, eret, exit,
      transfers, traps, erets, exits]
    exact ⟨rfl, rfl, rfl, rfl⟩

theorem quiet_append_plain {bs : List Action} (hb : bs.all Action.plain = true) : (as ++ bs).all Action.quiet = true := by
  rw [List.all_append, h, Bool.true_and, List.all_eq_true]
  exact fun a ha => by rw [Action.quiet, plain_mem hb a ha]; rfl

theorem quiet_readsFirst : (readsFirst as).all Action.quiet = true := by
  rw [List.all_eq_true] at h ⊢
  intro a ha
  rcases List.mem_append.mp ha with ha | ha
  · exact h a (List.mem_of_mem_filter ha)
  · exact h a (List.mem_of_mem_filter ha)

/-- A bundle performs the effects of its reads first, wherever a slot names them (R84, R326). -/
theorem State.perform_readsFirst (s : State) (c : CoreId) (pc next : Word) : s.perform c pc next as = s.perform c pc next (readsFirst as) := by
  have h' := quiet_readsFirst h
  have reads : (readsFirst as).filter isReadAct = as.filter isReadAct := by simp [readsFirst, List.filter_filter]
  have others : (readsFirst as).filter (fun a => !isReadAct a) = as.filter (fun a => !isReadAct a) := by simp [readsFirst, List.filter_filter]
  obtain ⟨mx, anyMx⟩ := quiet_filter_mx h
  obtain ⟨mx', anyMx'⟩ := quiet_filter_mx h'
  obtain ⟨transfer, trap, eret, exit⟩ := quiet_control h
  obtain ⟨transfer', trap', eret', exit'⟩ := quiet_control h'
  unfold State.perform
  rw [quiet_filter_others h, quiet_filter_others h', reads, others, mx, mx', anyMx, anyMx', transfer, transfer', trap, trap', eret, eret', exit, exit']
  rfl

/-- A slot alone in its bundle, its effects quiet, retires with them, those of its reads first. -/
theorem State.slot_quiet {s : State} {c : Ctl} {bound : Nat} {out : Core → SlotOut} (hs : s.alone c) (ho : out s.me = .ok as) (hb : bound ≠ 0) :
    s.slot c (some bound) out = s.retired c 2 bound (fun t => t.applyAll s.cur (readsFirst as)) (s.me.landsAt as) := by
  obtain ⟨none, clean, holds, domain⟩ := hs
  have arrives : (if c.ar then [Action.arrive s.me.csr.ardom bound (s.me.landsAt as)] else []).all Action.plain = true := by
    split <;> rfl
  unfold State.slot State.issue
  rw [ho, Core.guarded_alone clean holds domain]
  simp only [Core.bundleOf, none, Nat.sub_self, List.nil_append, if_true, State.commit, firstOut, SlotOut.isWait, SlotOut.isFault, SlotOut.isFreeze,
    List.flatMap_cons, List.flatMap_nil, List.append_nil, SlotOut.acts]
  rw [State.perform_readsFirst (quiet_append_plain h arrives), readsFirst_append_plain as arrives, State.perform_reads _ _ _ _ (allReads_filter as) (arriving_plain c bound _ _ (plain_filter_others h))]
  dsimp only
  rw [← List.append_assoc, State.applyAll_append, State.apply_arrive _ _ _ _ _ _ hb]
  simp only [State.retired, Core.backEdge, Core.backVia, State.modCore_modCore]
  rfl

end quiet

-- The draws of a read (R326) ------------------------------------------------------------------------------------------------

theorem allReads_readDraws (k : Core) (m : InjMem) (gs : List Nat) : allReads (k.readDraws m gs) := by
  unfold Core.readDraws
  split <;> rfl

theorem Core.landsAt_append (k : Core) (as bs : List Action) : k.landsAt (as ++ bs) = k.landsAt as ++ k.landsAt bs := List.flatMap_append

theorem Core.landsAt_readDraws (k l : Core) (m : InjMem) (gs : List Nat) : k.landsAt (l.readDraws m gs) = [] := by
  unfold Core.readDraws
  split <;> rfl

/-- The draws a slot names are those of the core's injector: none where it is off. -/
theorem State.applyAll_readDraws {s : State} {c : CoreId} {k : Core} (m : InjMem) (gs : List Nat) (h : (s.core c).inj = k.inj) :
    s.applyAll c (k.readDraws m gs) = s.injectReads c m gs := by
  have same : (s.core c).injects m = k.injects m := by rw [Core.injects, Core.injects, h]
  unfold Core.readDraws
  split
  · rfl
  next off => rw [State.applyAll_nil, State.injectReads, same, Bool.eq_false_iff.mpr off]; rfl

/-- A bundle of one slot retires with what its effect does where it is performed. -/
theorem State.retired_congr {s : State} {c : Ctl} {words bound : Nat} {f g : State → State} {ds : List PDest}
    (h : f (s.modCore s.cur (fun k => k.leave (s.me.backEdge words))) = g (s.modCore s.cur (fun k => k.leave (s.me.backEdge words)))) :
    s.retired c words bound f ds = s.retired c words bound g ds := by
  simp only [State.retired, h]

/-- A slot alone in its bundle that reads one of the core's own memories: its draws come before its other effects. -/
theorem State.slot_draws {s : State} {c : Ctl} {bound : Nat} {out : Core → SlotOut} {as : List Action} {m : InjMem} {gs : List Nat} (hs : s.alone c)
    (ho : out s.me = .ok (as ++ s.me.readDraws m gs)) (hp : as.all Action.plain = true) (hb : bound ≠ 0) :
    s.slot c (some bound) out = s.retired c 2 bound (fun t => (t.injectReads s.cur m gs).applyAll s.cur as) (s.me.landsAt as) := by
  have draws := allReads_readDraws s.me m gs
  have quiet : (as ++ s.me.readDraws m gs).all Action.quiet = true := by
    rw [List.all_append, Bool.and_eq_true, List.all_eq_true, List.all_eq_true]
    exact ⟨fun a ha => by rw [Action.quiet, plain_mem hp a ha]; rfl, fun a ha => by rw [Action.quiet, List.all_eq_true.mp draws a ha, Bool.or_true]⟩
  rw [State.slot_quiet quiet hs ho hb, readsFirst_append hp draws, Core.landsAt_append, Core.landsAt_readDraws, List.append_nil]
  refine State.retired_congr ?_
  rw [State.applyAll_append, State.applyAll_readDraws m gs (by rw [State.core_modCore]; rfl)]

end Sys2Proof.Machine
end

section
/-! Scalar loads and stores and those of the hold (O13, O14). -/
namespace Sys2Proof.Machine
open Sys2Proof

-- An operand that every check accepts -----------------------------------------------------------------------------------------

section operand
variable {p : Word} {tag space : Nat} {z : MemSize} (h : fits p tag space z) (hs : space = 2 ^ spaceBits tag)
include h

theorem tagOf_fits : tagOf p = tag := by
  obtain ⟨htag, -⟩ := h
  rw [tagOf_eq, htag]

include hs

theorem offsetOf_fits (h60 : spaceBits tag ≤ 60) : offsetOf p = p.toNat % 2 ^ 60 := by
  have htag := tagOf_fits h
  obtain ⟨-, inside, -⟩ := h
  rw [hs] at inside
  rw [offsetOf, htag, ← Nat.mod_mod_of_dvd _ (Nat.pow_dvd_pow 2 h60), Nat.mod_eq_of_lt inside]

theorem checkPtr_fits {tags : List Nat} (h2 : 2 ∉ tags) (ht : tag ∈ tags) : checkPtr p tags (sizeBytes z) = none := by
  obtain ⟨htag, inside, aligned⟩ := h
  have near : ¬ p.toNat % 2 ^ 60 ≥ (if tag = 0 then 2 ^ 19 else if tag = 1 then 2 ^ 22 else 2 ^ 13) := by
    rw [← two_pow_spaceBits (fun e => h2 (e ▸ ht)), ← hs]
    exact Nat.not_le.mpr inside
  rw [checkPtr_eq _ _ h2, htag, sizeBytes_eq, aligned]
  simp only [ht, near, not_true, if_false, ne_eq]

end operand

-- Stores (R122) -----------------------------------------------------------------------------------------------------------------

section draws
variable (s : State) (c : CoreId) (m : InjMem)

theorem State.noteHold_frame (g : Nat) (inj : Bool) : (s.noteHold c g inj).tnow = s.tnow ∧ (s.noteHold c g inj).choice = s.choice := by
  unfold State.noteHold State.noteCorrected
  dsimp only
  split <;> exact ⟨rfl, rfl⟩

theorem State.injectReads_frame (gs : List Nat) : (s.injectReads c m gs).tnow = s.tnow ∧ (s.injectReads c m gs).choice = s.choice := by
  unfold State.injectReads
  split
  · exact ⟨rfl, rfl⟩
  · refine List.foldlRecOn (motive := fun u : State => u.tnow = s.tnow ∧ u.choice = s.choice) gs _ ⟨rfl, rfl⟩ fun u hu g _ => ?_
    dsimp only
    split
    · obtain ⟨now, choice⟩ := (u.setCore c ((u.core c).injectRead m g).1).noteHold_frame c g true
      exact ⟨now.trans hu.1, choice.trans hu.2⟩
    · exact hu

end draws

/-- The bytes a store of `n` bytes of a register replaces in its granule, and the poison it sets (R122). -/
theorem State.apply_storeAction (t : State) (c : CoreId) (hold : Bool) (o n : Nat) (v : XW) (cls : BitVec 4) :
    t.applyAll c [storeAction hold o n v cls] = (t.modCore c (fun m => m.store hold (o / 32)
      (BitVec.ofNat 256 (v.val.toNat % 2 ^ (8 * n) * 2 ^ (8 * (o % 32)))) (runMask (o % 32) n) (if v.poison then some true else none) cls t.tnow
      (t.choice != 0))).chosen := rfl

/-- Settles O14: one effect each, the draw of the column word before that of HST. -/
theorem storeResults : Obligations.StoreResults := by
  intro s c sz xd xa xb cls off hs hb k d stores
  have frame (hold : Bool) (p : Word) {t : State} (h : t.tnow = s.tnow ∧ t.choice = s.choice) :
      t.applyAll s.cur [storeAction hold (p.toNat % 2 ^ 60) (sizeTable sz) d cls] = stores hold p t := by
    obtain ⟨now, choice⟩ := h
    rw [State.apply_storeAction, now, choice]
  have pad {p q : Word} {srcs : List XW} {out : Core → SlotOut} (ho : out k = storeOut sz d cls srcs q) (clean : srcs.any (·.poison) = false)
      (hq : q = p) (hp : fits p 0 (2 ^ 19) sz) :
      (.next (s.slot c (some 1) out) : Host.Outcome State Fault Refusal) = .next (s.retired c 2 1 (stores false p)) := by
    subst hq
    have stored : out k = .ok [storeAction false (q.toNat % 2 ^ 60) (sizeTable sz) d cls] := by
      rw [ho, ← offsetOf_fits hp rfl (by decide), ← sizeBytes_eq]
      exact orFault_fits _ clean (checkPtr_fits hp rfl (by decide) (by decide))
    exact congrArg _ ((State.slot_retired hs stored rfl (by decide)).trans (State.retired_congr (frame false q ⟨rfl, rfl⟩)))
  have one : [k.readX xb].any (·.poison) = false := noPoison_one hb
  refine ⟨?_, fun ha => ?_, ?_⟩
  · exact pad rfl one (smAddr_eq ..)
  · exact pad rfl (noPoison_two ha hb) (ixAddr_eq ..)
  · intro p g hp
    let q := smAddr (k.readX xb).val off sz
    have hq : q = p := smAddr_eq ..
    have offset : offsetOf q = p.toNat % 2 ^ 60 := by rw [hq]; exact offsetOf_fits hp rfl (by decide)
    have checked (out : SlotOut) : orFault [syncFault [k.readX xb], checkPtr q [1] (sizeBytes sz)] out = out :=
      orFault_fits out one (hq ▸ checkPtr_fits hp rfl (by decide) (by decide))
    cases held : s.cowHeld s.cur g with
    | true => exact congrArg Host.Outcome.next (State.slot_freeze hs ((checked _).trans (by rw [offset, if_pos held])))
    | false =>
      have stored : (if s.cowHeld s.cur (offsetOf q / 32) then SlotOut.freeze (.cow (offsetOf q / 32))
          else .ok (storeAction true (offsetOf q) (sizeBytes sz) d cls :: k.readDraws .hold [offsetOf q / 32]))
            = .ok ([storeAction true (p.toNat % 2 ^ 60) (sizeTable sz) d cls] ++ k.readDraws .hold [g]) := by
        rw [offset, if_neg (held ▸ Bool.false_ne_true), sizeBytes_eq]
        rfl
      refine congrArg Host.Outcome.next ((State.slot_draws hs ((checked _).trans stored) rfl (by decide)).trans (State.retired_congr ?_))
      exact frame true p (State.injectReads_frame ..)

-- Loads (R121) ------------------------------------------------------------------------------------------------------------------

theorem extendLoad_eq (z : MemSize) (v : Nat) : extendLoad z v = loadTable z v := by
  have narrow (n : Nat) : (BitVec.ofNat n v).signExtend 64 = BitVec.ofInt 64 ((v : Int).bmod (2 ^ n)) := by
    rw [BitVec.signExtend, ← BitVec.ofInt_natCast, BitVec.toInt_ofInt]
  cases z with
  | b => exact narrow 8
  | h => exact narrow 16
  | w => exact narrow 32
  | bn | hn | wn | d => rfl

/-- The effect of the berths that pass a landing check; none where none had to. -/
def passing (ns : List (BitVec 5)) : List Action := if ns = [] then [] else [.passBerths ns]

theorem passing_plain (ns : List (BitVec 5)) : (passing ns).all Action.plain = true := by
  unfold passing
  split <;> rfl

theorem applyAll_passing (t : State) (c : CoreId) (ns : List (BitVec 5)) : t.applyAll c (passing ns) = t.modCore c (fun k => k.passBerths ns) := by
  unfold passing
  split
  next h => subst h; exact (State.setCore_core t c).symm
  · rfl

theorem applyAll_x (t : State) (c : CoreId) (n : Reg) (v : XW) (bound : Nat) :
    t.applyAll c [.x n v bound] = t.modCore c (fun k => k.writeX n v bound) := rfl

section landed
variable {k : Core} {ns : List (BitVec 5)} {slot : Slot} {as : List Action}

theorem landed_pass {ps : List (BitVec 5)} (h : k.checkBerths ns = .pass ps) : k.landed ns slot as = .ok (passing ps ++ as) := by
  rw [Core.landed, h]
  cases ps <;> rfl

theorem landed_bad {n : BitVec 5} (h : k.checkBerths ns = .bad n) : k.landed ns slot as = .fault ⟨0x0A, n.setWidth 16, 0⟩ := by
  rw [Core.landed, h]
  rfl

theorem landed_late {n : BitVec 5} (h : k.checkBerths ns = .late n) : k.landed ns slot as = .freeze (.buffer n slot.num) := by
  rw [Core.landed, h]

end landed

theorem landsAt_passing (k : Core) (ps : List (BitVec 5)) (as : List Action) : k.landsAt (passing ps ++ as) = k.landsAt as := by
  unfold passing
  split <;> rfl

section load
variable {k : Core} {slot : Slot} {sz : MemSize} {xd : Reg} {srcs : List XW} {p : Word} (clean : srcs.any (·.poison) = false)
include clean

/-- A load of a plane constant reads the constants region (R28, R120). -/
theorem loadOut_constants (hp : fits p 3 (2 ^ 13) sz) : k.loadOut slot sz xd srcs p =
    .ok [.x xd ⟨loadTable sz (leNat (k.active.bytes.readRun (0x10000 + p.toNat % 2 ^ 60) (sizeTable sz))), false⟩ 4] := by
  rw [← offsetOf_fits hp rfl (by decide), ← extendLoad_eq, ← sizeBytes_eq]
  exact (orFault_fits _ clean (checkPtr_fits hp rfl (by decide) (by decide))).trans (if_pos (tagOf_fits hp))

/-- A load of the scratchpad reads it after its draw, under the landing check of the berths it meets (R120, R302, R326). -/
theorem loadOut_scratchpad (hp : fits p 0 (2 ^ 19) sz) :
    let o := p.toNat % 2 ^ 60
    let v := (k.afterDraws .pad [o / 32]).viewBytes false o (sizeTable sz)
    k.loadOut slot sz xd srcs p =
      k.landed (k.berthsAt o (sizeTable sz)) slot ([.x xd ⟨loadTable sz v.1, v.2⟩ 4] ++ k.readDraws .pad [o / 32]) := by
  dsimp only
  have other : tagOf p ≠ 3 := by rw [tagOf_fits hp]; decide
  rw [← offsetOf_fits hp rfl (by decide), ← extendLoad_eq, ← sizeBytes_eq]
  exact (orFault_fits _ clean (checkPtr_fits hp rfl (by decide) (by decide))).trans (if_neg other)

end load

theorem Scalar.loadResults : Claim.LoadResults := by
  intro s c sz xd xa xb cls off hs hb k means
  have loads {i : Instr} {out : Core → SlotOut} {srcs : List XW} {p q : Word} (hi : exec i s = .next (s.slot c (some 4) out))
      (ho : out k = k.loadOut c.slot sz xd srcs q) (hq : q = p) (clean : srcs.any (·.poison) = false) : means i p := by
    subst hq
    refine ⟨fun hp => ?_, fun hp => ?_⟩
    · have read := ho.trans (loadOut_scratchpad clean hp)
      split
      next ns hc =>
        rw [landed_pass hc, ← List.append_assoc] at read
        rw [hi, State.slot_draws hs read (by rw [List.all_append, passing_plain]; rfl) (by decide), landsAt_passing, Core.landsAt_x]
        refine congrArg Host.Outcome.next (State.retired_congr ?_)
        rw [State.applyAll_append, applyAll_passing, applyAll_x, State.modCore_modCore]
      next n hc => rw [hi, State.slot_trapped hs (read.trans (landed_bad hc))]
      next n hc => rw [hi, State.slot_freeze hs (read.trans (landed_late hc))]; rfl
    · rw [hi, State.slot_givesX hs (ho.trans (loadOut_constants clean hp)) (by decide)]
  exact ⟨loads rfl rfl (smAddr_eq ..) (noPoison_one hb), fun ha => loads rfl rfl (ixAddr_eq ..) (noPoison_two ha hb)⟩

-- The hold (R123, R328) -----------------------------------------------------------------------------------------------------------

theorem homeWord_eq (u : Core) (g : Nat) : u.homeWord g = homeRead u g := by
  unfold Core.homeWord homeRead
  have := (SMap.get 0 u.holdErr g).isLt
  generalize (SMap.get 0 u.holdErr g).toNat = n at this
  match n with
  | 0 | 1 | 2 | 3 => simp

theorem homeCorrects_eq (k : Core) (g : Nat) : k.homeCorrects g = homeLogs k g := by
  unfold Core.homeCorrects homeLogs
  generalize SMap.get 0 k.holdErr g = e
  match e with
  | 0 | 1 | 2 | 3 => rfl

/-- The log entry of a column word that its read corrects (R323). -/
def correction (k : Core) (g : Nat) : List Action := if homeLogs k g then [.note g] else []

theorem holdWords_one (k : Core) (g : Nat) :
    k.holdWords [g] = ([k.viewOver true g (homeRead (k.afterDraws .hold [g]) g)], correction k g ++ k.readDraws .hold [g]) := by
  unfold Core.holdWords correction
  dsimp only
  rw [List.map_singleton, homeWord_eq, List.filter_singleton, homeCorrects_eq]
  cases homeLogs k g <;> rfl

theorem correction_plain (k : Core) (g : Nat) : (correction k g).all Action.plain = true := by
  unfold correction
  split <;> rfl

theorem landsAt_correction (k l : Core) (g : Nat) : k.landsAt (correction l g) = [] := by
  unfold correction
  split <;> rfl

theorem applyAll_correction (t : State) (c : CoreId) (k : Core) (g : Nat) :
    t.applyAll c (correction k g) = if homeLogs k g then t.noteHold c g false else t := by
  unfold correction
  split <;> rfl

theorem hldResult : Claim.HldResult := by
  intro s c sz xd xb cls off hs hb hp k o g w v
  let q := smAddr (k.readX xb).val off sz
  have hq : q = addrOf (k.readX xb).val off sz := smAddr_eq ..
  have offset : offsetOf q = o := by rw [hq]; exact offsetOf_fits hp rfl (by decide)
  have checked (out : SlotOut) : orFault [syncFault [k.readX xb], checkPtr q [1] (sizeBytes sz)] out = out :=
    orFault_fits out (noPoison_one hb) (hq ▸ checkPtr_fits hp rfl (by decide) (by decide))
  have read : (let r := k.holdWords [offsetOf q / 32]
      let w := r.1.headD (0, false)
      SlotOut.ok (.x xd ⟨extendLoad sz ((w.1.toNat >>> (8 * (offsetOf q % 32))) % 2 ^ (8 * sizeBytes sz)), w.2⟩ 12 :: r.2))
        = .ok ((.x xd v 12 :: correction k g) ++ k.readDraws .hold [g]) := by
    dsimp only
    rw [offset, holdWords_one, extendLoad_eq, sizeBytes_eq, Nat.shiftRight_eq_div_pow]
    rfl
  have lands : k.landsAt (.x xd v 12 :: correction k g) = k.xLands xd 12 := by
    rw [← List.singleton_append, Core.landsAt_append, landsAt_correction, List.append_nil, Core.landsAt_x]
  refine congrArg Host.Outcome.next ((State.slot_draws hs ((checked _).trans read) (by rw [List.all_cons, correction_plain]; rfl) (by decide)).trans ?_)
  rw [lands]
  refine State.retired_congr ?_
  rw [State.applyAll_cons, applyAll_correction]
  rfl

/-- Settles O13: the loads of the scratchpad and of plane constants, and that of the hold. -/
theorem loadedValues : Obligations.LoadedValues := ⟨Scalar.loadResults, hldResult⟩

end Sys2Proof.Machine
end
